-- ==== Sys2Proof/Word.lean ====
section
/-! DEFINITION. Words of the machine (R3), and the fields and formats of its instruction words (R26, R58 to R63). -/
namespace Sys2Proof

/-- 8 bits (R3). -/
abbrev Byte := BitVec 8
/-- 32 bits (R3). -/
abbrev Word := BitVec 32
/-- 64 bits (R3): group registers, virtual addresses before their check, instruction words. -/
abbrev DWord := BitVec 64
/-- One bit per thread of a native group, bit t for thread t (R12, R16). -/
abbrev Mask := BitVec 128
/-- The 60-bit virtual address a program counter holds (R16). -/
abbrev PC := BitVec 60
/-- A 52-bit physical address (R318). -/
abbrev PA := BitVec 52
/-- A 64-byte line (R322). -/
abbrev Line := BitVec 512

/-- An operand field (R26): v0 to v191, or g0 to g63. -/
inductive Opnd where
  | v (n : Fin 192)
  | g (n : Fin 64)
deriving DecidableEq, Repr

/-- The value 0xFF of an unused operand field, which is also g63 (R65). -/
abbrev Opnd.none : Opnd := .g 63

/-- The TY codes 0x0 to 0xF in order (R59, Table 5). -/
inductive DType where
  | s32 | n32 | s64 | n64 | s16 | n16 | s8 | n8
  | b32 | b64 | f32 | f64 | f16 | bf16 | f16x2 | blk
deriving DecidableEq, Repr

/-- The RM codes 0 to 4: fmt's mode, or a mode of the instruction (R59, Table 5). -/
inductive RMode where
  | fmt | rne | rtz | rup | rdn
deriving DecidableEq, Repr

/-- Memory orders 0 to 3 (R63). -/
inductive Order where
  | rlx | acq | rel | ar
deriving DecidableEq, Repr

/-- Scopes 0 to 6 (R63, R299). -/
inductive Scope where
  | thr | grp | core | clu | die | pkg | fab
deriving DecidableEq, Repr

/-- Access sizes, SZ 0 to 4 (R63). -/
inductive Size where
  | b8 | b16 | b32 | b64 | b128
deriving DecidableEq, Repr

/-- Format F3 (R58, R59). -/
structure F3 where
  u  : Bool
  sc : Fin 16
  d  : Opnd
  a  : Opnd
  b  : Opnd
  c  : Opnd
  ty : DType
  rm : RMode
  s  : Bool
  x  : Byte
deriving DecidableEq, Repr

/-- Format FI (R58, R61). -/
structure FI where
  u   : Bool
  sc  : Fin 16
  d   : Opnd
  a   : Opnd
  imm : Word
deriving DecidableEq, Repr

/-- Format FB (R58, R62). In `brc` and `endl` the A byte is a code, not an operand (R166):
code k is written here as the operand whose byte is k. -/
structure FB where
  u    : Bool
  sc   : Fin 16
  d    : Opnd
  a    : Opnd
  offs : Word
deriving DecidableEq, Repr

/-- Format FM (R58, R63). -/
structure FM where
  u   : Bool
  sc  : Fin 16
  d   : Opnd
  a   : Opnd
  b   : Opnd
  ord : Order
  scp : Scope
  sz  : Size
  off : BitVec 16
deriving DecidableEq, Repr

/-- What issues instructions: a path of a group (core, slot, path index), a helper of a core
(its number among the core's helpers, R42, R181; a recruiter in helper mode is one too, R184), or a steward (R45). -/
inductive Agent where
  | path (core slot idx : Nat)
  | helper (core num : Nat)
  | steward (k : Nat)
deriving DecidableEq, Repr

/-- The 64-bit registers of the hub area that have no row of their own in the opcode table. -/
inductive HubReg where
  /-- SSTART (R414). -/
  | sstart
  /-- BPADDR n (R426). -/
  | bpaddr (n : Fin 8)
  /-- BPCTL n (R426). -/
  | bpctl (n : Fin 8)
  /-- DSTAT (R426), read only. -/
  | dstat
  /-- TPTR (R426), read only. -/
  | tptr
  /-- FMBASE (R431). -/
  | fmbase
  /-- FMSIZE (R431). -/
  | fmsize
  /-- FMSTAT (R431), read only. -/
  | fmstat
  /-- FMCTL, the fields CTX and PER with REC and RPL (R431). -/
  | fmctl
  /-- LSCFG of a core (R29), written by supervisor code or the launch engine. -/
  | lscfg (core : Nat)
deriving DecidableEq, Repr

/-- Why a die throttles (R437): its hottest sensor is above 105 °C, or package power is above 3,000 W
and the dies' powers are those given, in die order. -/
inductive Heat where
  | sensor (die : Nat)
  | power (watts : List Nat)
deriving DecidableEq, Repr

/-- An FM API command of the switch configuration set or of the dynamic capacity set (R404, R407; log 69). -/
inductive FmCommand where
  /-- Route-table entries are written. -/
  | routes (entries : List (Nat × BitVec 16))
  /-- A device is asked for its dynamic capacity extents. -/
  | extentList
  /-- Its answer: the tag, the first byte and the size of each. -/
  | extents (l : List (BitVec 32 × Nat × Nat))
  /-- A device is told to add or release capacity under a tag. -/
  | capacity (add : Bool) (tag : BitVec 32)
deriving DecidableEq, Repr

/-- The boot configuration block (R423), fixed from bring-up stage 3 to the next package reset; beside it, the ports whose other end is a
Geirasta package, as training finds them (R405). -/
structure BootConfig where
  pkgId   : Nat
  fpid    : Nat
  prio    : Nat
  vports  : BitVec 16
  hmode   : DWord
  rcap    : List Nat
  ideKeys : List Byte
  peers   : BitVec 16 := 0
deriving DecidableEq, Repr

/-- A boot configuration within the widths of its fields: a package id of 12 bits, an FPID of 8, a priority of 4 (R406, R408;
log 67). -/
def BootConfig.fields (b : BootConfig) : BootConfig :=
  { b with pkgId := b.pkgId % 4096, fpid := b.fpid % 256, prio := b.prio % 16 }

/-- A lent entry as a package tells the Ringmaster of it (R409). -/
structure LentNews where
  lid       : Word
  sz        : Nat
  st        : Nat
  borrowers : List Nat
deriving DecidableEq, Repr

/-- What ends an instance of a collective at a package (R412, R413). -/
inductive CollAnswer where
  /-- This package, the root, rounds the total. -/
  | here
  /-- The result comes from the root. -/
  | result (bytes : List Byte)
  /-- Another package has stopped the instance, with this cause. -/
  | broken (cause : Byte)
deriving DecidableEq, Repr

end Sys2Proof
end

