-- ==== Sys2Proof/Syntax.lean ====
section
/-! DEFINITION. The steps of the machine: one constructor per row of the opcode table. -/
namespace Sys2Proof

/-- The steps of the machine, one constructor per row of the opcode table: first the instructions, each with
the fields of its word, then the events, each with what it concerns. -/
inductive Instr where
  /-- Per-thread or uniform integer add of two register operands, wrapping or saturating under S (R120). -/
  | add (f : F3)
  /-- Integer subtract of two register operands, wrapping or saturating under S (R120). -/
  | sub (f : F3)
  /-- Signed or unsigned integer minimum (R120). -/
  | min (f : F3)
  /-- Signed or unsigned integer maximum (R120). -/
  | max (f : F3)
  /-- Absolute value of a signed integer (R120). -/
  | abs (f : F3)
  /-- Negation of a signed integer (R120). -/
  | neg (f : F3)
  /-- Selects a or b per thread by a mask, or uniformly by a g register (R121). -/
  | sel (f : F3)
  /-- Computes a 64-bit address a plus the extended index shifted by sh (R127). -/
  | lea (f : F3)
  /-- Integer multiply keeping the low half (R122). -/
  | mul (f : F3)
  /-- High half of the double-width integer product (R122). -/
  | mulhi (f : F3)
  /-- Integer a times b plus c, wrapped or clamped once (R122). -/
  | mad (f : F3)
  /-- Four-way byte dot product accumulated into a 32-bit value (R123). -/
  | dp4 (f : F3)
  /-- Bitwise AND (R125). -/
  | and (f : F3)
  /-- Bitwise OR (R125). -/
  | or (f : F3)
  /-- Bitwise XOR (R125). -/
  | xor (f : F3)
  /-- Bitwise a AND NOT b (R125). -/
  | andn (f : F3)
  /-- Bitwise complement (R125). -/
  | not (f : F3)
  /-- Counts the one bits of a (R125). -/
  | popc (f : F3)
  /-- Counts leading zero bits (R125). -/
  | clz (f : F3)
  /-- Counts trailing zero bits (R125). -/
  | ctz (f : F3)
  /-- Logical shift left (R126). -/
  | shl (f : F3)
  /-- Logical shift right (R126). -/
  | shr (f : F3)
  /-- Arithmetic shift right (R126). -/
  | sar (f : F3)
  /-- Rotate left by n mod w (R126). -/
  | rot (f : F3)
  /-- Extracts a bit field and extends it (R126). -/
  | bfx (f : F3)
  /-- Inserts a bit field of b into a (R126). -/
  | bfi (f : F3)
  /-- Reverses the bit order (R126). -/
  | brev (f : F3)
  /-- Integer equality compare into a mask or uniform flag (R124). -/
  | cmpEq (f : F3)
  /-- Integer inequality compare into a mask or uniform flag (R124). -/
  | cmpNe (f : F3)
  /-- Integer less-than compare (R124). -/
  | cmpLt (f : F3)
  /-- Integer less-or-equal compare (R124). -/
  | cmpLe (f : F3)
  /-- Integer greater-than compare (R124). -/
  | cmpGt (f : F3)
  /-- Integer greater-or-equal compare (R124). -/
  | cmpGe (f : F3)
  /-- 64-bit add of a and an extended b (R128). -/
  | add64 (f : F3)
  /-- 64-bit subtract of an extended b from a (R128). -/
  | sub64 (f : F3)
  /-- Converts an integer between integer types (R131). -/
  | cvt (f : F3)
  /-- 32-bit add with an immediate (R129). -/
  | addImm (f : FI)
  /-- 32-bit AND with an immediate (R129). -/
  | andImm (f : FI)
  /-- 32-bit OR with an immediate (R129). -/
  | orImm (f : FI)
  /-- 32-bit XOR with an immediate (R129). -/
  | xorImm (f : FI)
  /-- 32-bit shift left by an immediate (R129). -/
  | shlImm (f : FI)
  /-- 32-bit logical shift right by an immediate (R129). -/
  | shrImm (f : FI)
  /-- 32-bit arithmetic shift right by an immediate (R129). -/
  | sarImm (f : FI)
  /-- 32-bit multiply by an immediate (R129). -/
  | mulImm (f : FI)
  /-- 64-bit add of a sign-extended immediate (R130). -/
  | add64Imm (f : FI)
  /-- 64-bit AND with a sign-extended immediate (R130). -/
  | and64Imm (f : FI)
  /-- 64-bit OR with a sign-extended immediate (R130). -/
  | or64Imm (f : FI)
  /-- 64-bit XOR with a sign-extended immediate (R130). -/
  | xor64Imm (f : FI)
  /-- Floating-point add, rounded once (R137). -/
  | fadd (f : F3)
  /-- Floating-point subtract (R137). -/
  | fsub (f : F3)
  /-- Floating-point multiply (R137). -/
  | fmul (f : F3)
  /-- Fused multiply-add rounded once (R137). -/
  | fma (f : F3)
  /-- Floating minimum with its own NaN rule (R138). -/
  | fmin (f : F3)
  /-- Floating maximum with its own NaN rule (R138). -/
  | fmax (f : F3)
  /-- Clears the sign bit (R139). -/
  | fabs (f : F3)
  /-- Inverts the sign bit (R139). -/
  | fneg (f : F3)
  /-- Writes a one-hot class of the operand (R142). -/
  | fclass (f : F3)
  /-- Rounds to an integral value in the same format (R143). -/
  | frnd (f : F3)
  /-- Converts between floating-point formats (R144). -/
  | fcvt (f : F3)
  /-- Converts floating point to a clamped integer (R145). -/
  | f2i (f : F3)
  /-- Converts an integer to floating point (R146). -/
  | i2f (f : F3)
  /-- Computes a times 2 to the n (R147). -/
  | fldexp (f : F3)
  /-- Writes the significand of a split into s times 2 to the e (R148). -/
  | ffrexp (f : F3)
  /-- Writes the exponent e of the split as .s32 (R148). -/
  | ffrexpExp (f : F3)
  /-- Quiet floating equality compare (R141). -/
  | fcmpEq (f : F3)
  /-- Quiet floating inequality compare (R141). -/
  | fcmpNe (f : F3)
  /-- Floating less-than compare (R141). -/
  | fcmpLt (f : F3)
  /-- Floating less-or-equal compare (R141). -/
  | fcmpLe (f : F3)
  /-- Floating greater-than compare (R141). -/
  | fcmpGt (f : F3)
  /-- Floating greater-or-equal compare (R141). -/
  | fcmpGe (f : F3)
  /-- True when either operand is a NaN (R85). -/
  | fcmpUn (f : F3)
  /-- True when neither operand is a NaN (R85). -/
  | fcmpOrd (f : F3)
  /-- Packs the values of each 32-thread run into a BFP block in element form (R152). -/
  | bfpk (f : F3)
  /-- Packs a BFP block into registers in packed form (R153). -/
  | bfpkPk (f : F3)
  /-- Unpacks one element-form BFP register to floating point (R154). -/
  | bfup (f : F3)
  /-- Quantises through BFP and back to the source format (R155). -/
  | bfq (f : F3)
  /-- Writes the path's fmt, wholly or under a mask (R156). -/
  | fmtset (f : F3)
  /-- Reads the path's fmt into a g register (R157). -/
  | fmtget (f : F3)
  /-- FP32 add with an immediate, fmt rounding (R140). -/
  | faddF32Imm (f : FI)
  /-- FP32 multiply by an immediate (R140). -/
  | fmulF32Imm (f : FI)
  /-- FP64 add with a high-half immediate (R140). -/
  | faddF64Imm (f : FI)
  /-- FP64 multiply by a high-half immediate (R140). -/
  | fmulF64Imm (f : FI)
  /-- Correctly rounded reciprocal (R149). -/
  | frcp (f : F3)
  /-- Correctly rounded reciprocal square root (R149). -/
  | frsq (f : F3)
  /-- Correctly rounded square root (R149). -/
  | fsqrt (f : F3)
  /-- Correctly rounded 2 to the a (R149). -/
  | fexp2 (f : F3)
  /-- Correctly rounded base-2 logarithm (R149). -/
  | flog2 (f : F3)
  /-- Correctly rounded sine (R149). -/
  | fsin (f : F3)
  /-- Correctly rounded cosine (R149). -/
  | fcos (f : F3)
  /-- Global load into an interlocked destination, counted on ld (R196). -/
  | ldG (f : FM)
  /-- Local-store load from scratchpad or a frame aperture (R196). -/
  | ldL (f : FM)
  /-- Copies a global extent into the group's scratchpad (R198). -/
  | ldx (f : FM)
  /-- Prefetches each lane's line towards a level, never faulting (R197). -/
  | pf (f : FM)
  /-- Global store, counted on st (R196). -/
  | stG (f : FM)
  /-- Local-store store to scratchpad or a frame aperture (R196). -/
  | stL (f : FM)
  /-- Copies a scratchpad extent to global memory (R198). -/
  | stx (f : FM)
  /-- Global atomic integer add returning the old value (R200). -/
  | atomAdd (f : FM)
  /-- Global atomic unsigned minimum (R200). -/
  | atomMinN (f : FM)
  /-- Global atomic unsigned maximum (R200). -/
  | atomMaxN (f : FM)
  /-- Global atomic signed minimum (R200). -/
  | atomMinS (f : FM)
  /-- Global atomic signed maximum (R200). -/
  | atomMaxS (f : FM)
  /-- Global atomic AND (R200). -/
  | atomAnd (f : FM)
  /-- Global atomic OR (R200). -/
  | atomOr (f : FM)
  /-- Global atomic XOR (R200). -/
  | atomXor (f : FM)
  /-- Global atomic exchange (R200). -/
  | atomExch (f : FM)
  /-- Global atomic compare-and-swap (R200). -/
  | atomCas (f : FM)
  /-- Global atomic floating add rounded RNE (R200). -/
  | atomAddF (f : FM)
  /-- Global atomic floating minimum (R200). -/
  | atomMinF (f : FM)
  /-- Global atomic floating maximum (R200). -/
  | atomMaxF (f : FM)
  /-- Local scratchpad atomic add (R200). -/
  | atomLAdd (f : FM)
  /-- Local atomic unsigned minimum (R200). -/
  | atomLMinN (f : FM)
  /-- Local atomic unsigned maximum (R200). -/
  | atomLMaxN (f : FM)
  /-- Local atomic signed minimum (R200). -/
  | atomLMinS (f : FM)
  /-- Local atomic signed maximum (R200). -/
  | atomLMaxS (f : FM)
  /-- Local atomic AND (R200). -/
  | atomLAnd (f : FM)
  /-- Local atomic OR (R200). -/
  | atomLOr (f : FM)
  /-- Local atomic XOR (R200). -/
  | atomLXor (f : FM)
  /-- Local atomic exchange (R200). -/
  | atomLExch (f : FM)
  /-- Local atomic compare-and-swap (R200). -/
  | atomLCas (f : FM)
  /-- Local atomic floating add (R200). -/
  | atomLAddF (f : FM)
  /-- Local atomic floating minimum (R200). -/
  | atomLMinF (f : FM)
  /-- Local atomic floating maximum (R200). -/
  | atomLMaxF (f : FM)
  /-- Reduction add with no return, counted on st (R203). -/
  | redAdd (f : FM)
  /-- Reduction unsigned minimum (R203). -/
  | redMinN (f : FM)
  /-- Reduction unsigned maximum (R203). -/
  | redMaxN (f : FM)
  /-- Reduction signed minimum (R203). -/
  | redMinS (f : FM)
  /-- Reduction signed maximum (R203). -/
  | redMaxS (f : FM)
  /-- Reduction AND (R203). -/
  | redAnd (f : FM)
  /-- Reduction OR (R203). -/
  | redOr (f : FM)
  /-- Reduction XOR (R203). -/
  | redXor (f : FM)
  /-- Floating reduction add (R203). -/
  | redAddF (f : FM)
  /-- Floating reduction minimum (R203). -/
  | redMinF (f : FM)
  /-- Floating reduction maximum (R203). -/
  | redMaxF (f : FM)
  /-- Acquire or release fence at a scope (R205). -/
  | fence (f : FM)
  /-- Initialises a barrier object, waking parked paths as broken (R207). -/
  | barInit (f : FM)
  /-- Arrives on a barrier, completing the phase at zero (R207). -/
  | barArr (f : FM)
  /-- Arrives and leaves the barrier's participants (R207). -/
  | barArrDrop (f : FM)
  /-- Parks until the barrier's phase changes or it breaks (R207). -/
  | barWait (f : FM)
  /-- Reads a barrier's BRK, PHASE and PEND (R207). -/
  | barTest (f : FM)
  /-- Stalls until the ld counter is at or below a limit (R210). -/
  | waitLd (f : F3)
  /-- Stalls until the st counter is at or below a limit; a wait on the st path (R210). -/
  | waitSt (f : F3)
  /-- Stalls until the at counter is at or below a limit (R210). -/
  | waitAt (f : F3)
  /-- Stalls until the cp counter is at or below a limit (R210). -/
  | waitCp (f : F3)
  /-- Stalls until the tt counter is at or below a limit (R210). -/
  | waitTt (f : F3)
  /-- Stalls until the sv counter is at or below a limit (R210). -/
  | waitSv (f : F3)
  /-- Claims pool units to widen the window, parking when not granted (R212). -/
  | rclaim (f : F3)
  /-- Narrows the window at once; units return later (R213). -/
  | rgive (f : F3)
  /-- Declares or retires a coherence object from a shape record (R216). -/
  | cobj (f : FM)
  /-- Opens or closes a codec window after draining the group's counters (R217). -/
  | cwin (f : FM)
  /-- Discards the core's L1 copy of each lane's line (R218). -/
  | cctlL1inv (f : FM)
  /-- Discards the core's whole L1 (R218). -/
  | cctlL1all (f : FM)
  /-- Evicts each lane's line from the remote line cache (R218). -/
  | cctlRlcev (f : FM)
  /-- Checks and enqueues a tile-task record (R221). -/
  | tenq (f : F3)
  /-- Stalls until a tag's earlier producers complete, then acquires at .core (R228). -/
  | twait (f : F3)
  /-- Reads accumulator tile elements into registers (R224). -/
  | ardr (f : F3)
  /-- Writes registers into accumulator tile elements (R224). -/
  | awr (f : F3)
  /-- Zeroes an accumulator tile (R225). -/
  | azero (f : F3)
  /-- Checks and enqueues a copy-request record (R221). -/
  | cpkick (f : F3)
  /-- Checks a launch record and its kernel header and queues it (R245). -/
  | launch (f : F3)
  /-- Shuffles values between threads within segments (R250). -/
  | shfl (f : F3)
  /-- Broadcasts one thread's value to the path (R251). -/
  | bcast (f : F3)
  /-- Writes a mask of nonzero predicates (R251). -/
  | voteBallot (f : F3)
  /-- Writes 1 if any predicate is true (R251). -/
  | voteAny (f : F3)
  /-- Writes 1 if every predicate is true (R251). -/
  | voteAll (f : F3)
  /-- Writes 1 if every thread holds the same value (R251). -/
  | voteEq (f : F3)
  /-- Inclusive or exclusive sequential scan over exec (R253). -/
  | scan (f : F3)
  /-- Tree reduction over exec (R254). -/
  | rdx (f : F3)
  /-- Counts mask bits below each thread or in total (R251). -/
  | mpop (f : F3)
  /-- Loads a Carousel pattern table from scratchpad (R256). -/
  | xpat (f : F3)
  /-- Builds each destination byte from a pattern selector (R258). -/
  | xbar (f : F3)
  /-- Loads a stream-decode table from scratchpad (R259). -/
  | vdtab (f : F3)
  /-- Decodes up to MAXS prefix-code symbols from a window (R260). -/
  | vdec (f : F3)
  /-- Branches the whole path (R167). -/
  | bra (f : FB)
  /-- Branches on a mask, splitting the path when both sides are non-empty (R167). -/
  | brc (f : FB)
  /-- Writes the link and branches (R169). -/
  | call (f : FB)
  /-- Pushes a hardware loop entry or skips the body (R172). -/
  | loop (f : FB)
  /-- Decrements the loop count and iterates or leaves (R173). -/
  | endl (f : FB)
  /-- Leaves the current hardware loop at once (R173). -/
  | endlX (f : FB)
  /-- Sets the region entry and takes a snapshot (R175). -/
  | rgn (f : FB)
  /-- Indirect branch, per thread or uniform (R168). -/
  | brx (f : F3)
  /-- Indirect call writing the link (R169). -/
  | callx (f : F3)
  /-- Branches to the link in a g register (R169). -/
  | ret (f : F3)
  /-- Ends the threads in exec, or ends a helper's chunk (R170). -/
  | exit (f : F3)
  /-- Ends the clause and gives up issue priority (R171). -/
  | yield (f : F3)
  /-- No effect (R171). -/
  | nop (f : F3)
  /-- Asks the Barker for helpers and writes the grant (R180). -/
  | recruit (f : FB)
  /-- Deposits the partial of the current chunk (R183). -/
  | hpost (f : F3)
  /-- Runs leftover chunks, waits for all, combines partials in chunk order (R184). -/
  | hjoin (f : F3)
  /-- Releases every helper of the thread's recruitment (R185). -/
  | dismiss (f : F3)
  /-- Reads a special register (R263). -/
  | gsr (f : F3)
  /-- Writes a special register (R264). -/
  | ssr (f : F3)
  /-- A write of sipi sets a steward's IPI or takes it out of its start wait (R414). -/
  | sipiWrite (f : F3)
  /-- A write of STCMP sets the timer compare and clears TIMER when above cyc (R273). -/
  | stcmpWrite (f : F3)
  /-- Posts a service call record, counted on sv (R266). -/
  | svc (f : F3)
  /-- Software trap, or at trap level ends the launch (R269). -/
  | trap (f : F3)
  /-- Breakpoint trap, or a hold when breakpoints are claimed (R269). -/
  | brk (f : F3)
  /-- Returns handler lanes to user level with their saved state (R270). -/
  | eret (f : F3)
  /-- Invalidates the translation of one VA after a release (R271). -/
  | tlbiPage (f : F3)
  /-- Invalidates every translation of a context (R271). -/
  | tlbiCtx (f : F3)
  /-- Invalidates every translation (R271). -/
  | tlbiAll (f : F3)
  /-- Hints instruction lines into the cluster's cache (R272). -/
  | ipf (f : F3)
  /-- Returns a steward from supervisor level (R274). -/
  | sret (f : F3)
  /-- Stalls a steward until an enabled interrupt is pending (R275). -/
  | wfi (f : F3)
  /-- Reads a dword of a lent or borrowed Booth entry (R349). -/
  | lsread (f : F3)
  /-- Writes a dword of a borrowed entry, with ST transitions (R352). -/
  | lswrite (f : F3)
  /-- Checks a lent-entry image, installs it and sends GRANT (R350). -/
  | lsgrant (f : F3)
  /-- Starts the recall of a lease (R366). -/
  | lsrecall (f : F3)
  /-- Installs a context from an image (R276). -/
  | ctxload (f : F3)
  /-- Writes a context's state to an image (R276). -/
  | ctxsave (f : F3)
  /-- Ends every launch of a context and frees it (R276). -/
  | ctxkill (f : F3)
  /-- Writes a context's CMODE (R276). -/
  | ctxmode (f : F3)
  /-- A path reaches a clause header, checks it and waits on its WAIT codes (R52). -/
  | clauseHeader (a : Agent)
  /-- With every WAIT met, the clause is fetched, region and break steps run, and issue begins (R52). -/
  | clauseFetch (a : Agent) (miss : Bool)
  /-- A missed clause arrives and the path re-enters selection (R380). -/
  | icacheFill (a : Agent)
  /-- At a clause boundary the path updates its reconvergence stack and regangs (R159). -/
  | clauseBoundary (a : Agent)
  /-- Each cycle a free slice sequencer selects ready paths with disjoint slice sets (R376). -/
  | issueSelection (core : Nat)
  /-- A path ready 1,024 cycles without issuing becomes aged (R375). -/
  | pathAged (a : Agent)
  /-- A stalled or parked path's condition clears and it resumes at its instruction (R379). -/
  | stallClear (a : Agent)
  /-- A steward enters supervisor level on a fault, svc or pending interrupt (R273). -/
  | stewardEntry (k : Nat)
  /-- A load completes, writing its interlocked destination or recording its fault (R326). -/
  | loadComplete (op : Nat)
  /-- A store is performed at its home and acknowledged (R326). -/
  | storeComplete (op : Nat)
  /-- An atomic with return writes its old values (R326). -/
  | atomicComplete (op : Nat)
  /-- A combining-buffer entry is sent on after 64 cycles, when full, or at a release (R328). -/
  | combineFlush (cluster : Bool) (unit : Nat) (entry : Nat)
  /-- A home slice reads, decodes and returns a codec block (R337). -/
  | codecLoad (op : Nat) (block : Nat)
  /-- Under the block lock the slice decodes, merges, checks, encodes and writes a block (R338). -/
  | codecWriteStep (op : Nat) (block : Nat)
  /-- The oldest waiting claim is granted when units are free (R212). -/
  | rclaimGrant (core : Nat)
  /-- Given units return to the free count when pending writes complete (R213). -/
  | rgiveReturn (core : Nat) (entry : Nat)
  /-- The core raises cause 0x0C on a launch's parked claims (R214). -/
  | registerClaimDeadlock (core : Nat)
  /-- A helper's chunk completes and it takes its next chunk or ends (R182). -/
  | chunkComplete (a : Agent)
  /-- A tile task starts once its tag and tile dependences are met (R227). -/
  | tileTaskStart (cmd : Nat)
  /-- A tile task updates rows of its run; after the last it writes its stamp, releases and completes its tags (R236). -/
  | tileTaskComplete (cmd : Nat)
  /-- A command meets a fault and stalls or stops with a fault status (R239). -/
  | engineFault (cmd : Nat)
  /-- Copy kind 1 moves LEN bytes (R241). -/
  | copyKindCopy (cmd : Nat) (bytes : Nat)
  /-- Copy kind 2 moves strided rows (R241). -/
  | stridedCopy (cmd : Nat) (bytes : Nat)
  /-- Copy kind 3 gathers rows by indices read from scratchpad (R242). -/
  | gather (cmd : Nat) (bytes : Nat)
  /-- Copy kind 4 fills a pool range with a pattern (R370). -/
  | poolFill (cmd : Nat) (bytes : Nat)
  /-- Copy kind 5 compares two ranges and writes the first mismatch (R370). -/
  | poolCompare (cmd : Nat)
  /-- Copy kind 6 reduces SRC into DST elementwise (R370). -/
  | poolReduce (cmd : Nat) (bytes : Nat)
  /-- Copy kind 7 contributes to a collective instance (R412). -/
  | fabricReduce (cmd : Nat)
  /-- Copy kind 8 fills the remote line cache (R371). -/
  | leasePrefetch (cmd : Nat) (bytes : Nat)
  /-- Copy kind 9 waits for Wr completions and drops lines (R371). -/
  | leaseWriteBack (cmd : Nat) (bytes : Nat)
  /-- Copy kind 10 converts between BFP and MX blocks (R114). -/
  | formatConversion (cmd : Nat) (blocks : Nat)
  /-- A written portion lowers a byte-count barrier's PEND (R243). -/
  | byteCountPortion (cmd : Nat)
  /-- A copy request releases and completes its counter and tag (R244). -/
  | copyComplete (cmd : Nat)
  /-- The root rounds the total once and sends it to every participant (R412). -/
  | collectiveResult (coll : Nat) (inst : Nat) (answer : CollAnswer)
  /-- An instance waiting 10 ms stops its commands with barrier broken (R413). -/
  | collectiveTimeout (coll : Nat) (inst : Nat)
  /-- The engine reads PRED words and moves a Held record to Placing (R246). -/
  | launchPredCheck (queue : Nat) (entry : Nat)
  /-- When room appears the engine places a group or gang (R284). -/
  | placeUnit
  /-- A saved group is placed again and its state restored (R385). -/
  | groupResume
  /-- A drained group returns its units, tiles and slot (R295). -/
  | groupRetire (gid : Nat)
  /-- When all groups have retired the engine writes EDERR and reports the end (R401). -/
  | endComplete (launch : Nat)
  /-- Pre-emption request OP 1 pre-empts the selected groups (R381). -/
  | preempt (slot : Nat)
  /-- Request OP 2 clears a hold and makes saved groups eligible (R381). -/
  | preemptResumeOnly (slot : Nat)
  /-- Request OP 3 pre-empts a context and holds it (R381). -/
  | preemptHold (slot : Nat)
  /-- With every path halted the core saves groups and frees their resources (R382). -/
  | preemptSave (core : Nat)
  /-- A group's watchdog count exceeds the limit and its paths take cause 0x0F (R388). -/
  | watchdogExpiry (gid : Nat)
  /-- cyc reaches STCMP and TIMER becomes pending (R273). -/
  | stewardTimer (k : Nat)
  /-- Slot command LAUNCH checks and queues a launch record (R417). -/
  | cmdLaunch (slot : Nat)
  /-- A waiting LAUNCH command queues its record when the queue frees (R417). -/
  | cmdLaunchRoom (slot : Nat)
  /-- Slot command END ends a launch and reports when done (R417). -/
  | endLaunch (slot : Nat)
  /-- Slot command FETCH removes the oldest event of a class (R418). -/
  | fetch (slot : Nat)
  /-- Slot command RESUME restarts a held path or engine access (R419). -/
  | resume (slot : Nat)
  /-- Slot command REFER delivers a held fault to the handler (R419). -/
  | refer (slot : Nat)
  /-- Slot command COMPLETE writes a call's results and completes it (R419). -/
  | complete (slot : Nat)
  /-- Slot command SVCRST completes pending calls with restart status (R420). -/
  | svcrst (slot : Nat)
  /-- Slot command COPY runs a context-0 copy request (R417). -/
  | copy (slot : Nat)
  /-- Slot command ROUTE writes a route-table entry (R407). -/
  | route (slot : Nat)
  /-- Slot command COLL writes a collective-table entry (R411). -/
  | coll (slot : Nat)
  /-- Slot command MODE writes HMODE (R422). -/
  | mode (slot : Nat)
  /-- Slot command LGRANT grants a lease as lsgrant does (R350). -/
  | lgrant (slot : Nat)
  /-- Slot command LRECALL recalls a lease (R366). -/
  | lrecall (slot : Nat)
  /-- Slot command UINT sets a UIP bit in every group of a launch (R399). -/
  | uint (slot : Nat)
  /-- A lender receives a lease request and queues a lease event (R372). -/
  | lreq (src : Nat) (bix : Nat) (sz : Nat)
  /-- A borrower accepts or rejects a GRANT, setting DEADLINE (R355). -/
  | grant (src : Nat) (lid : Word) (sz : Nat) (dur : Nat) (pa : DWord) (bix : Nat)
  /-- The lender receives GACK and sets EXP (R350). -/
  | gack (src : Nat) (lid : Word)
  /-- The lender removes a rejecting borrower (R350). -/
  | reject (src : Nat) (lid : Word)
  /-- The lender answers a RENEW and may extend EXP (R356). -/
  | renew (src : Nat) (lid : Word)
  /-- The borrower extends DEADLINE from T0 (R356). -/
  | renewed (src : Nat) (lid : Word)
  /-- The borrower learns the lease is being recalled (R356). -/
  | recalling (src : Nat) (lid : Word)
  /-- The borrower sets ST 4 and drops the extent's lines (R356). -/
  | gone (src : Nat) (lid : Word)
  /-- The borrower sets ST 3 and a recall deadline (R366). -/
  | recall (src : Nat) (lid : Word) (rgr : Nat)
  /-- The lender receives RECALL-DONE and may free the entry (R366). -/
  | recallDone (src : Nat) (lid : Word)
  /-- The lender removes a relinquishing borrower (R352). -/
  | release (src : Nat) (lid : Word)
  /-- A borrower silent 10 ms after GRANT is treated as failed (R350). -/
  | gackTimeout (entry : Nat)
  /-- DEADLINE minus NSC falls below DUR/4 and RENEW is sent (R356). -/
  | renewDue (bix : Nat)
  /-- An unanswered RENEW is resent after 100 µs (R356). -/
  | renewResend (bix : Nat)
  /-- NSC reaches DEADLINE on an active borrowed entry (R357). -/
  | deadlineExpiry (bix : Nat)
  /-- A recalled entry's deadline passes and the Booth drops lines itself (R366). -/
  | recallDeadline (bix : Nat)
  /-- NSC reaches EXP at the lender, which frees the entry (R357). -/
  | leaseExpiry (entry : Nat)
  /-- RGR passes at the lender and remaining borrowers are failed (R366). -/
  | recallGraceExpiry (entry : Nat)
  /-- A snoop waiting 10 ms fails its borrower (R364). -/
  | snoopTimeout (line : Nat) (pkg : Nat)
  /-- A borrower request waiting 10 ms sets ST 5 (R367). -/
  | requestTimeout (bix : Nat)
  /-- The fabric reports a package unreachable (R364). -/
  | fabricUnreachable (pkg : Nat)
  /-- The home handles a read for a shared copy (R361). -/
  | rds (src : Nat) (line : Nat)
  /-- The home handles a read for ownership (R361). -/
  | rdown (src : Nat) (line : Nat) (wantsData : Bool)
  /-- The home performs or discards a borrower write (R361). -/
  | wr (src : Nat) (line : Nat) (bytes : Line) (mask : DWord)
  /-- The home handles a borrower's eviction (R361). -/
  | evct (src : Nat) (line : Nat)
  /-- The borrower receives Cmp-S and moves IS to S (R359). -/
  | cmpS (src : Nat) (line : Nat) (bytes : Option Line) (load : Nat)
  /-- The borrower receives Cmp-E and performs the waiting access (R359). -/
  | cmpE (src : Nat) (line : Nat) (bytes : Option Line) (load : Nat)
  /-- The borrower receives completion of a Wr or Evct (R359). -/
  | cmp (src : Nat) (line : Nat) (load : Nat) (err : Bool)
  /-- The borrower handles an invalidating snoop (R359). -/
  | bisnpinv (src : Nat) (line : Nat) (load : Nat)
  /-- The borrower handles a snoop reducing to S (R359). -/
  | bisnpshr (src : Nat) (line : Nat) (load : Nat)
  /-- The home removes a borrower from the wait set, now I (R361). -/
  | birspi (src : Nat) (line : Nat)
  /-- The home removes a borrower from the wait set, now S (R361). -/
  | birsps (src : Nat) (line : Nat)
  /-- The home answers a conflict with BIConflictAck after completions (R360). -/
  | biconflict (src : Nat) (line : Nat)
  /-- The borrower resolves a snoop that met a pending request (R360). -/
  | biconflictack (src : Nat) (line : Nat)
  /-- A request held by the lease bandwidth cap proceeds in the next microsecond (R368). -/
  | bandwidthWindow (entry : Nat)
  /-- A package records a candidate as live and forwards the HELLO (R408). -/
  | hello (port : Nat) (prio : Option Nat) (pkg : Nat) (hops : Nat)
  /-- Every 100 µs a package sends HELLO on every up port (R408). -/
  | helloTimer
  /-- A candidate unheard for 1 ms stops being live (R408). -/
  | candidateTimeout (pkg : Nat)
  /-- After 2 ms as highest pair a package takes the role and sends CLAIM (R408). -/
  | ringmasterTakeover
  /-- A package receives a Ringmaster claim; a lower Ringmaster gives up (R408). -/
  | claim (prio : Nat) (pkg : Nat)
  /-- A package answers the Ringmaster's QUERY from its Booth (R409). -/
  | query (src : Nat)
  /-- The Ringmaster adds an answer to its directory (R409). -/
  | qreply (src : Nat) (leases : List LentNews) (offered : List Nat)
  /-- The Ringmaster records a package's offered capacity (R410). -/
  | offer (pkg : Nat) (classes : List Nat) (bandwidth : Nat)
  /-- The Ringmaster answers a borrower with a lender or none (R410). -/
  | want (src : Nat) (size : Nat)
  /-- A borrower receives the answer as a lease event (R418). -/
  | wanted (lender : Option Nat)
  /-- A link between two packages retrains to 128 GT/s (R405). -/
  | axyenRetrain (port : Nat) (ok : Bool)
  /-- A failed retrain or high flit error rate returns the link to 64 GT/s (R405). -/
  | linkFallback (port : Nat)
  /-- A message from another partition is dropped and counted (R406). -/
  | foreignFpidDrop (port : Nat) (fpid : Nat)
  /-- A host configuration request is retried before bring-up ends (R440). -/
  | configRequest (port : Nat)
  /-- A host notify sets VIRTIO in SIP (R421). -/
  | virtioNotify (port : Nat) (function : Nat)
  /-- The root of trust answers an SPDM request over DOE (R424). -/
  | spdmRequest (block : Nat)
  /-- DCMD HALT marks a path to be held at its next boundary (R429). -/
  | dcmdHalt (value : DWord)
  /-- DCMD RELEASE clears a path's HOLD (R429). -/
  | dcmdRelease (value : DWord)
  /-- DCMD STEP lets a held path issue one clause (R429). -/
  | dcmdStep (value : DWord)
  /-- A write of TRDP marks ring bytes consumed unless invalid (R430). -/
  | trdpWrite (value : DWord)
  /-- A write of TBASE or TSIZE resets TPTR and TRDP (R430). -/
  | traceRingWrite (size : Bool) (value : DWord)
  /-- A W1C write clears bits of TDROP (R426). -/
  | tdropClear (value : DWord)
  /-- FMCTL REC starts recording a context (R432). -/
  | fomarRecord (value : DWord)
  /-- FMCTL RPL replays from a checkpoint (R433). -/
  | fomarReplay (value : DWord) (checkpoint : Nat)
  /-- Every T ms the engine pre-empts, copies written pages and resumes (R432). -/
  | fomarCheckpoint
  /-- A store of MSEL selects the source and clears the monitor data (R434). -/
  | mselWrite (monitor : Nat) (value : DWord)
  /-- A write to a register without a row of its own (R6). -/
  | registerWrite (reg : HubReg) (value : DWord)
  /-- Heat or power above limit throttles a die one step (R437). -/
  | thermalThrottle (cause : Heat)
  /-- After 10 ms below both limits a die steps back up (R437). -/
  | throttleStepUp (die : Nat)
  /-- Any sensor at 115 °C puts the package into reset (R437). -/
  | overtempReset
  /-- Package reset starts bring-up stage 1 (R439). -/
  | packageReset
  /-- The next bring-up stage begins when the one before completes (R439). -/
  | bringupStage (good : Bool) (boot : BootConfig)
  /-- A port's link goes down, so messages for destinations routed on it leave on ALT or are not sent (R407). -/
  | linkDown (port : Nat)
  /-- A port's link comes back up after bring-up, so routes on that PORT are used again (R407). -/
  | linkUp (port : Nat)
  /-- A package receives an FM API command from the Ringmaster and writes its route-table entries or switch configuration (R407). -/
  | fmApiCommand (src : Nat) (command : FmCommand)
  /-- A package receives a child's exact partial sum for a collective instance, adds it and sends the sum towards the root when complete (R412). -/
  | childSum (src : Nat) (coll : Nat) (inst : Nat) (len : Nat) (opx : Nat) (sums : List (Int × Nat))
  /-- A memory word of HBM4E or the pool becomes uncorrectable, entering the poisoned state that later reads and partial writes find (R346). -/
  | uncorrectableWord (word : Nat)
  /-- A host reads or writes a virtio function's BAR, reaching the common, notify, ISR or device configuration structures, or reading zero and dropping writes elsewhere (R421). -/
  | hostBarAccess (port : Nat) (function : Nat) (offset : Nat) (write : Option Byte)
deriving DecidableEq, Repr

end Sys2Proof
end

