-- ==== Sys2Proof/WellFormed.lean ====
section
/-! DEFINITION. Which words are instructions: the field checks of step 1 of R66, by name (R59 to R65, R82 to R93). -/
namespace Sys2Proof

/-- Why a word is no instruction (R88, Table 2 of the Opcode Map). Each gives the illegal-instruction trap. -/
inductive Reject where
  /-- The top five bits are ones: a clause header in an instruction position (R88). -/
  | clauseHeader
  /-- An unassigned major opcode (R88). -/
  | opcode
  /-- A minor opcode marked reserved (R88). -/
  | minor
  /-- U = 1 in a row whose U column is 0, or U = 0 where U = 1 is held (R89, R198). -/
  | uniform
  /-- A TY value the instruction does not accept (R59). -/
  | type
  /-- RM 5 to 7, or RM nonzero where no rounding is done (R59). -/
  | rounding
  /-- S = 1 where saturation is not accepted (R59). -/
  | saturate
  /-- An unused operand field that is not 0xFF, or an unused offset that is not zero (R65). -/
  | unused
  /-- A value of X, or of a code field, that the instruction does not accept (R60, R65). -/
  | extra
  /-- An order that the instruction does not accept (R63). -/
  | order
  /-- Scope 7, or a scope that the instruction does not accept (R63). -/
  | scope
  /-- SZ 5 to 7, or a size that the instruction does not accept (R63). -/
  | size
  /-- Fewer than the 8 bytes of a word. -/
  | truncated
deriving DecidableEq, Repr

/-- The TY value of a code from 0 to 15 (Table 5); larger codes do not occur. -/
def DType.ofCode (n : Nat) : DType :=
  [.s32, .n32, .s64, .n64, .s16, .n16, .s8, .n8, .b32, .b64, .f32, .f64, .f16, .bf16, .f16x2].getD n .blk

/-- TY 0x0 to 0x7. -/
def intTypes : List DType := [.s32, .n32, .s64, .n64, .s16, .n16, .s8, .n8]
/-- TY 0x8 and 0x9. -/
def bitTypes : List DType := [.b32, .b64]
/-- TY 0x0 to 0x3, 0x8, 0x9 (R126). -/
def shiftTypes : List DType := [.s32, .n32, .s64, .n64, .b32, .b64]
/-- TY 0xA to 0xD. -/
def scalarFp : List DType := [.f32, .f64, .f16, .bf16]
/-- TY 0xA to 0xE. -/
def fpTypes : List DType := [.f32, .f64, .f16, .bf16, .f16x2]
/-- Scopes .thr to .core (R195). -/
def localScopes : List Scope := [.thr, .grp, .core]
/-- Every scope. -/
def allScopes : List Scope := [.thr, .grp, .core, .clu, .die, .pkg, .fab]
/-- Every order. -/
def allOrders : List Order := [.rlx, .acq, .rel, .ar]

/-- What a row of the opcode map accepts in a word of format F3. -/
structure F3Rule where
  u  : Bool := true
  ty : List DType
  rm : Bool := false
  s  : Bool := false
  d  : Bool := true
  a  : Bool := true
  b  : Bool := true
  c  : Bool := true
  x  : Option Bool := none

/-- The first check of R66 step 1 that a word of format F3 fails under a row (R59, R60, R65, R89).
Where the row uses X, `x` says whether the value is accepted; where it does not, X is zero. -/
def F3.reject (f : F3) (r : F3Rule) : Option Reject :=
  if f.u && !r.u then some .uniform
  else if !r.ty.contains f.ty then some .type
  else if f.rm != .fmt && !r.rm then some .rounding
  else if f.s && !r.s then some .saturate
  else if (f.d != .none && !r.d) || (f.a != .none && !r.a) || (f.b != .none && !r.b) || (f.c != .none && !r.c) then
    some .unused
  else if !r.x.getD (f.x == 0) then some .extra
  else none

/-- What a row accepts in U. -/
inductive URule where
  | any | zero | one
deriving DecidableEq, Repr

/-- What a row of the opcode map accepts in a word of format FM. `thr` says that .acq and .rel may stand at .thr
(R201); elsewhere they may not (R195). -/
structure FMRule where
  u   : URule := .any
  ord : List Order
  scp : List Scope := allScopes
  sz  : List Size
  d   : Bool := true
  a   : Bool := true
  b   : Bool := true
  off : Bool := true
  thr : Bool := false

/-- The first check of R66 step 1 that a word of format FM fails under a row (R63, R65, R195). -/
def FM.reject (f : FM) (r : FMRule) : Option Reject :=
  if (f.u && r.u == .zero) || (!f.u && r.u == .one) then some .uniform
  else if !r.ord.contains f.ord then some .order
  else if !r.scp.contains f.scp || (f.ord != .rlx && f.scp == .thr && !r.thr) then some .scope
  else if !r.sz.contains f.sz then some .size
  else if (f.d != .none && !r.d) || (f.a != .none && !r.a) || (f.b != .none && !r.b) || (f.off != 0 && !r.off) then
    some .unused
  else none

/-- The first check of R66 step 1 that a word of format FB fails: which operand fields are used, and the codes
a row accepts (R65, R89, R166). -/
def FB.reject (f : FB) (d a : Bool) (ok : FB → Bool) : Option Reject :=
  if f.u then some .uniform
  else if (f.d != .none && !d) || (f.a != .none && !a) then some .unused
  else if !ok f then some .extra
  else none

/-- X of `bfpk`, `bfup` and `bfq` apart from PK: bits [7:6] zero, FT not 3, WM not 7 (R60, R151). -/
def blockX (x : Byte) : Bool := x.toNat < 48 && x.toNat % 8 != 7

/-- The types of `scan` and `rdx` by their operation X[3:1] (R252). -/
def reduceTypes (x : Byte) : List DType :=
  if x.toNat / 2 ≤ 2 then [.s32, .n32, .s64, .n64, .f32, .f64] else bitTypes
/-- RM is read by the floating add only (R252). -/
def reduceRounds (f : F3) : Bool := f.x.toNat / 2 == 0 && (f.ty == .f32 || f.ty == .f64)
/-- S is accepted by the add only (R252). -/
def reduceSat (x : Byte) : Bool := x.toNat / 2 == 0

/-- The special-register codes that some level may read (R262, Table 2). -/
def gsrCode (n : Nat) : Bool :=
  n ≤ 4 || (8 ≤ n && n ≤ 0x18) || (0x20 ≤ n && n ≤ 0x22) || (0x30 ≤ n && n ≤ 0x37) || n == 0x39
/-- The special-register codes that some level may write, apart from sipi and STCMP, which are rows of their own. -/
def ssrCode (n : Nat) : Bool := n == 0x18 || n == 0x22 || (0x30 ≤ n && n ≤ 0x36)

/-- The check of step 1 of R66 that an instruction's fields fail; none for a well-formed one. An event is no word. -/
def Instr.illFormed : Instr → Option Reject
  | .add f => f.reject { ty := intTypes, s := true, c := false }
  | .sub f => f.reject { ty := intTypes, s := true, c := false }
  | .min f => f.reject { ty := intTypes, c := false }
  | .max f => f.reject { ty := intTypes, c := false }
  | .abs f => f.reject { ty := [.s32, .s64, .s16, .s8], s := true, b := false, c := false }
  | .neg f => f.reject { ty := [.s32, .s64, .s16, .s8], s := true, b := false, c := false }
  | .sel f => f.reject { ty := intTypes }
  | .lea f => f.reject { ty := [.s32, .n32, .s64, .n64], c := false, x := some (f.x.toNat < 8) }
  | .mul f => f.reject { ty := intTypes, s := true, c := false }
  | .mulhi f => f.reject { ty := intTypes, c := false }
  | .mad f => f.reject { ty := intTypes, s := true }
  | .dp4 f => f.reject { ty := [.s8, .n8], s := true }
  | .and f => f.reject { ty := bitTypes, c := false }
  | .or f => f.reject { ty := bitTypes, c := false }
  | .xor f => f.reject { ty := bitTypes, c := false }
  | .andn f => f.reject { ty := bitTypes, c := false }
  | .not f => f.reject { ty := bitTypes, b := false, c := false }
  | .popc f => f.reject { ty := bitTypes, b := false, c := false }
  | .clz f => f.reject { ty := bitTypes, b := false, c := false }
  | .ctz f => f.reject { ty := bitTypes, b := false, c := false }
  | .shl f => f.reject { ty := shiftTypes, c := false }
  | .shr f => f.reject { ty := shiftTypes, c := false }
  | .sar f => f.reject { ty := shiftTypes, c := false }
  | .rot f => f.reject { ty := shiftTypes, c := false }
  | .bfx f => f.reject { ty := shiftTypes, c := false }
  | .bfi f => f.reject { ty := shiftTypes }
  | .brev f => f.reject { ty := shiftTypes, b := false, c := false }
  | .cmpEq f => f.reject { ty := (intTypes ++ bitTypes), c := false }
  | .cmpNe f => f.reject { ty := (intTypes ++ bitTypes), c := false }
  | .cmpLt f => f.reject { ty := intTypes, c := false }
  | .cmpLe f => f.reject { ty := intTypes, c := false }
  | .cmpGt f => f.reject { ty := intTypes, c := false }
  | .cmpGe f => f.reject { ty := intTypes, c := false }
  | .add64 f => f.reject { ty := [.s64, .n64, .b64], s := (f.ty != .b64), c := false }
  | .sub64 f => f.reject { ty := [.s64, .n64, .b64], s := (f.ty != .b64), c := false }
  | .cvt f => f.reject { ty := intTypes, s := true, b := false, c := false, x := some (intTypes.contains (DType.ofCode f.x.toNat) && f.x.toNat < 16) }
  | .addImm _ => none
  | .andImm _ => none
  | .orImm _ => none
  | .xorImm _ => none
  | .shlImm _ => none
  | .shrImm _ => none
  | .sarImm _ => none
  | .mulImm _ => none
  | .add64Imm _ => none
  | .and64Imm _ => none
  | .or64Imm _ => none
  | .xor64Imm _ => none
  | .fadd f => f.reject { ty := fpTypes, rm := true, s := true, c := false }
  | .fsub f => f.reject { ty := fpTypes, rm := true, s := true, c := false }
  | .fmul f => f.reject { ty := fpTypes, rm := true, s := true, c := false }
  | .fma f => f.reject { ty := fpTypes, rm := true, s := true }
  | .fmin f => f.reject { ty := fpTypes, c := false }
  | .fmax f => f.reject { ty := fpTypes, c := false }
  | .fabs f => f.reject { ty := fpTypes, b := false, c := false }
  | .fneg f => f.reject { ty := fpTypes, b := false, c := false }
  | .fclass f => f.reject { ty := scalarFp, b := false, c := false }
  | .frnd f => f.reject { ty := fpTypes, rm := true, b := false, c := false }
  | .fcvt f => f.reject { ty := scalarFp, rm := true, s := true, b := false, c := false, x := some (scalarFp.contains (DType.ofCode f.x.toNat) && f.x.toNat < 16) }
  | .f2i f => f.reject { ty := intTypes, rm := true, b := false, c := false, x := some (scalarFp.contains (DType.ofCode f.x.toNat) && f.x.toNat < 16) }
  | .i2f f => f.reject { ty := scalarFp, rm := true, s := true, b := false, c := false, x := some (intTypes.contains (DType.ofCode f.x.toNat) && f.x.toNat < 16) }
  | .fldexp f => f.reject { ty := fpTypes, rm := true, s := true, c := false }
  | .ffrexp f => f.reject { ty := scalarFp, b := false, c := false }
  | .ffrexpExp f => f.reject { ty := scalarFp, b := false, c := false, x := some (f.x == 1) }
  | .fcmpEq f => f.reject { ty := scalarFp, c := false }
  | .fcmpNe f => f.reject { ty := scalarFp, c := false }
  | .fcmpLt f => f.reject { ty := scalarFp, c := false }
  | .fcmpLe f => f.reject { ty := scalarFp, c := false }
  | .fcmpGt f => f.reject { ty := scalarFp, c := false }
  | .fcmpGe f => f.reject { ty := scalarFp, c := false }
  | .fcmpUn f => f.reject { ty := scalarFp, c := false }
  | .fcmpOrd f => f.reject { ty := scalarFp, c := false }
  | .bfpk f => f.reject { ty := [.blk], rm := true, s := true, b := false, c := false, x := some (blockX f.x && !f.x.getLsbD 3) }
  | .bfpkPk f => f.reject { ty := [.blk], rm := true, s := true, b := false, c := false, x := some (blockX f.x && f.x.getLsbD 3 && !f.u) }
  | .bfup f => f.reject { ty := [.blk], rm := true, s := true, b := false, c := false, x := some (blockX f.x && !f.x.getLsbD 3) }
  | .bfq f => f.reject { ty := [.blk], rm := true, s := true, b := false, c := false, x := some (blockX f.x && !f.x.getLsbD 3) }
  | .fmtset f => f.reject { ty := [.b64], d := false, c := false }
  | .fmtget f => f.reject { ty := [.b64], a := false, b := false, c := false }
  | .faddF32Imm _ => none
  | .fmulF32Imm _ => none
  | .faddF64Imm _ => none
  | .fmulF64Imm _ => none
  | .frcp f => f.reject { ty := scalarFp, rm := true, s := true, b := false, c := false }
  | .frsq f => f.reject { ty := scalarFp, rm := false, s := true, b := false, c := false }
  | .fsqrt f => f.reject { ty := scalarFp, rm := true, s := true, b := false, c := false }
  | .fexp2 f => f.reject { ty := scalarFp, rm := false, s := true, b := false, c := false }
  | .flog2 f => f.reject { ty := scalarFp, rm := false, s := true, b := false, c := false }
  | .fsin f => f.reject { ty := scalarFp, rm := false, s := true, b := false, c := false }
  | .fcos f => f.reject { ty := scalarFp, rm := false, s := true, b := false, c := false }
  | .ldG f => f.reject { ord := [.rlx, .acq], sz := [.b8, .b16, .b32, .b64, .b128] }
  | .ldL f => f.reject { ord := [.rlx, .acq], sz := [.b8, .b16, .b32, .b64, .b128], scp := localScopes }
  | .ldx f => f.reject { ord := [.rlx, .acq], sz := [.b128], u := .one }
  | .pf f => f.reject { ord := [.rlx], scp := [.thr], sz := [.b8, .b16, .b32], d := false }
  | .stG f => f.reject { ord := [.rlx, .rel], sz := [.b8, .b16, .b32, .b64, .b128] }
  | .stL f => f.reject { ord := [.rlx, .rel], sz := [.b8, .b16, .b32, .b64, .b128], scp := localScopes }
  | .stx f => f.reject { ord := [.rlx, .rel], sz := [.b128], u := .one }
  | .atomAdd f => f.reject { ord := allOrders, sz := [.b32, .b64], thr := true }
  | .atomMinN f => f.reject { ord := allOrders, sz := [.b32, .b64], thr := true }
  | .atomMaxN f => f.reject { ord := allOrders, sz := [.b32, .b64], thr := true }
  | .atomMinS f => f.reject { ord := allOrders, sz := [.b32, .b64], thr := true }
  | .atomMaxS f => f.reject { ord := allOrders, sz := [.b32, .b64], thr := true }
  | .atomAnd f => f.reject { ord := allOrders, sz := [.b32, .b64], thr := true }
  | .atomOr f => f.reject { ord := allOrders, sz := [.b32, .b64], thr := true }
  | .atomXor f => f.reject { ord := allOrders, sz := [.b32, .b64], thr := true }
  | .atomExch f => f.reject { ord := allOrders, sz := [.b32, .b64], thr := true }
  | .atomCas f => f.reject { ord := allOrders, sz := [.b32, .b64], thr := true }
  | .atomAddF f => f.reject { ord := allOrders, sz := [.b32, .b64], thr := true }
  | .atomMinF f => f.reject { ord := allOrders, sz := [.b32, .b64], thr := true }
  | .atomMaxF f => f.reject { ord := allOrders, sz := [.b32, .b64], thr := true }
  | .atomLAdd f => f.reject { ord := allOrders, sz := [.b32, .b64], scp := localScopes, thr := true }
  | .atomLMinN f => f.reject { ord := allOrders, sz := [.b32, .b64], scp := localScopes, thr := true }
  | .atomLMaxN f => f.reject { ord := allOrders, sz := [.b32, .b64], scp := localScopes, thr := true }
  | .atomLMinS f => f.reject { ord := allOrders, sz := [.b32, .b64], scp := localScopes, thr := true }
  | .atomLMaxS f => f.reject { ord := allOrders, sz := [.b32, .b64], scp := localScopes, thr := true }
  | .atomLAnd f => f.reject { ord := allOrders, sz := [.b32, .b64], scp := localScopes, thr := true }
  | .atomLOr f => f.reject { ord := allOrders, sz := [.b32, .b64], scp := localScopes, thr := true }
  | .atomLXor f => f.reject { ord := allOrders, sz := [.b32, .b64], scp := localScopes, thr := true }
  | .atomLExch f => f.reject { ord := allOrders, sz := [.b32, .b64], scp := localScopes, thr := true }
  | .atomLCas f => f.reject { ord := allOrders, sz := [.b32, .b64], scp := localScopes, thr := true }
  | .atomLAddF f => f.reject { ord := allOrders, sz := [.b32, .b64], scp := localScopes, thr := true }
  | .atomLMinF f => f.reject { ord := allOrders, sz := [.b32, .b64], scp := localScopes, thr := true }
  | .atomLMaxF f => f.reject { ord := allOrders, sz := [.b32, .b64], scp := localScopes, thr := true }
  | .redAdd f => f.reject { ord := [.rlx, .rel], sz := [.b32, .b64], thr := true }
  | .redMinN f => f.reject { ord := [.rlx, .rel], sz := [.b32, .b64], thr := true }
  | .redMaxN f => f.reject { ord := [.rlx, .rel], sz := [.b32, .b64], thr := true }
  | .redMinS f => f.reject { ord := [.rlx, .rel], sz := [.b32, .b64], thr := true }
  | .redMaxS f => f.reject { ord := [.rlx, .rel], sz := [.b32, .b64], thr := true }
  | .redAnd f => f.reject { ord := [.rlx, .rel], sz := [.b32, .b64], thr := true }
  | .redOr f => f.reject { ord := [.rlx, .rel], sz := [.b32, .b64], thr := true }
  | .redXor f => f.reject { ord := [.rlx, .rel], sz := [.b32, .b64], thr := true }
  | .redAddF f => f.reject { ord := [.rlx, .rel], sz := [.b32, .b64], thr := true }
  | .redMinF f => f.reject { ord := [.rlx, .rel], sz := [.b32, .b64], thr := true }
  | .redMaxF f => f.reject { ord := [.rlx, .rel], sz := [.b32, .b64], thr := true }
  | .fence f => f.reject { ord := [.acq, .rel, .ar], scp := [.grp, .core, .clu, .die, .pkg, .fab], sz := [.b8], d := false, a := false, b := false, off := false, u := .zero }
  | .barInit f => f.reject { ord := [.rlx, .rel], scp := localScopes, sz := [.b8], d := false, u := .zero }
  | .barArr f => f.reject { ord := [.rlx, .rel], scp := localScopes, sz := [.b8], d := false, u := .zero }
  | .barArrDrop f => f.reject { ord := [.rlx, .rel], scp := localScopes, sz := [.b16], d := false, u := .zero }
  | .barWait f => f.reject { ord := [.rlx, .acq], scp := localScopes, sz := [.b8], d := false, u := .zero }
  | .barTest f => f.reject { ord := [.rlx], scp := localScopes, sz := [.b8], b := false, u := .zero }
  | .waitLd f => f.reject { u := false, ty := [.s32], d := false, b := false, c := false }
  | .waitSt f => f.reject { u := false, ty := [.s32], d := false, b := false, c := false }
  | .waitAt f => f.reject { u := false, ty := [.s32], d := false, b := false, c := false }
  | .waitCp f => f.reject { u := false, ty := [.s32], d := false, b := false, c := false }
  | .waitTt f => f.reject { u := false, ty := [.s32], d := false, b := false, c := false }
  | .waitSv f => f.reject { u := false, ty := [.s32], d := false, b := false, c := false }
  | .rclaim f => f.reject { u := false, ty := [.s32], d := false, a := false, b := false, c := false, x := some (1 ≤ f.x.toNat && f.x.toNat ≤ 23) }
  | .rgive f => f.reject { u := false, ty := [.s32], d := false, a := false, b := false, c := false, x := some (1 ≤ f.x.toNat && f.x.toNat ≤ 23) }
  | .cobj f => f.reject { ord := [.rlx], scp := [.thr], sz := [.b8], d := false, u := .zero }
  | .cwin f => f.reject { ord := [.rlx], scp := [.thr], sz := [.b8], d := false, u := .zero }
  | .cctlL1inv f => f.reject { ord := [.rlx], scp := [.thr], sz := [.b8], d := false, b := false, u := .zero }
  | .cctlL1all f => f.reject { ord := [.rlx], scp := [.thr], sz := [.b16], d := false, a := false, b := false, off := false, u := .zero }
  | .cctlRlcev f => f.reject { ord := [.rlx], scp := [.thr], sz := [.b32], d := false, b := false, u := .zero }
  | .tenq f => f.reject { ty := [.s32], d := false, b := false, c := false }
  | .twait f => f.reject { ty := [.s32], d := false, b := false, c := false, x := some (f.a == .none || f.x == 0) }
  | .ardr f => f.reject { ty := [.f32, .f64], a := false, c := false, x := some (f.x.toNat < 64) }
  | .awr f => f.reject { ty := [.f32, .f64], d := false, c := false, x := some (f.x.toNat < 64) }
  | .azero f => f.reject { ty := [.s32], d := false, a := false, b := false, c := false, x := some (f.x.toNat < 64) }
  | .cpkick f => f.reject { ty := [.s32], d := false, b := false, c := false }
  | .launch f => f.reject { ty := [.s32], d := false, b := false, c := false }
  | .shfl f => f.reject { u := false, ty := bitTypes, c := false, x := some (f.x.toNat < 32) }
  | .bcast f => f.reject { u := false, ty := bitTypes, c := false, b := (f.x == 0), x := some (f.x.toNat < 2) }
  | .voteBallot f => f.reject { u := false, ty := [.b32], b := false, c := false, x := some (f.x == 0) }
  | .voteAny f => f.reject { u := false, ty := [.b32], b := false, c := false, x := some (f.x == 1) }
  | .voteAll f => f.reject { u := false, ty := [.b32], b := false, c := false, x := some (f.x == 2) }
  | .voteEq f => f.reject { u := false, ty := [.b32], b := false, c := false, x := some (f.x == 3) }
  | .scan f => f.reject { u := false, ty := reduceTypes f.x, rm := reduceRounds f, s := reduceSat f.x, b := false, c := false, x := some (f.x.toNat < 12) }
  | .rdx f => f.reject { u := false, ty := reduceTypes f.x, rm := reduceRounds f, s := reduceSat f.x, b := false, c := false, x := some (f.x.toNat < 12 && !f.x.getLsbD 0) }
  | .mpop f => f.reject { u := false, ty := [.s32], b := false, c := false, x := some (f.x.toNat < 2) }
  | .xpat f => f.reject { u := false, ty := [.s32], d := false, b := false, c := false, x := some (f.x.toNat < 8) }
  | .xbar f => f.reject { u := false, ty := [.b32], b := false, c := false, x := some (f.x.toNat < 8) }
  | .vdtab f => f.reject { u := false, ty := [.s32], d := false, b := false, c := false, x := some (f.x.toNat < 64 && 1 ≤ f.x.toNat / 4 && f.x.toNat / 4 ≤ 12) }
  | .vdec f => f.reject { u := false, ty := [.s32], c := false, x := some (f.x.toNat < 32 && 1 ≤ f.x.toNat / 4 && f.x.toNat / 4 ≤ 6) }
  | .bra f => f.reject false false (fun _ => true)
  | .brc f => f.reject true true (fun f => f.a == .v 0 || f.a == .v 1)
  | .call f => f.reject true false (fun _ => true)
  | .loop f => f.reject false true (fun _ => true)
  | .endl f => f.reject false true (fun f => f.a == .v 0 && f.offs == 0)
  | .endlX f => f.reject false true (fun f => f.a == .v 1 && f.offs == 0)
  | .rgn f => f.reject false false (fun _ => true)
  | .brx f => f.reject { u := false, ty := [.s32], d := false, a := true, b := false, c := false }
  | .callx f => f.reject { u := false, ty := [.s32], d := true, a := true, b := false, c := false }
  | .ret f => f.reject { u := false, ty := [.s32], d := false, a := true, b := false, c := false }
  | .exit f => f.reject { u := false, ty := [.s32], d := false, a := false, b := false, c := false }
  | .yield f => f.reject { u := false, ty := [.s32], d := false, a := false, b := false, c := false }
  | .nop f => f.reject { u := false, ty := [.s32], d := false, a := false, b := false, c := false }
  | .recruit f => f.reject true true (fun _ => true)
  | .hpost f => f.reject { u := false, ty := [.b64], d := false, a := true, b := false, c := false }
  | .hjoin f => f.reject { u := false, ty := [.b64], d := (f.x != 0), a := false, b := false, c := false, rm := (f.x == 1 || f.x == 2), x := some (f.x.toNat < 8) }
  | .dismiss f => f.reject { u := false, ty := [.s32], d := false, a := false, b := false, c := false }
  | .gsr f => f.reject { u := true, ty := [.s32], d := true, a := false, b := false, c := false, x := some (gsrCode f.x.toNat) }
  | .ssr f => f.reject { u := false, ty := [.s32], d := false, a := true, b := false, c := false, x := some (ssrCode f.x.toNat) }
  | .sipiWrite f => f.reject { u := false, ty := [.s32], d := false, a := true, b := false, c := false, x := some (f.x == 0x38) }
  | .stcmpWrite f => f.reject { u := false, ty := [.s32], d := false, a := true, b := false, c := false, x := some (f.x == 0x37) }
  | .svc f => f.reject { u := false, ty := [.s32], d := false, a := true, b := false, c := false }
  | .trap f => f.reject { u := false, ty := [.s32], d := false, a := false, b := false, c := false, x := some (true) }
  | .brk f => f.reject { u := false, ty := [.s32], d := false, a := false, b := false, c := false, x := some (true) }
  | .eret f => f.reject { u := false, ty := [.s32], d := false, a := true, b := false, c := false }
  | .tlbiPage f => f.reject { u := false, ty := [.s32], d := false, a := true, b := true, c := false, x := some (f.x == 0 || f.x == 4) }
  | .tlbiCtx f => f.reject { u := false, ty := [.s32], d := false, a := false, b := true, c := false, x := some (f.x == 1 || f.x == 5) }
  | .tlbiAll f => f.reject { u := false, ty := [.s32], d := false, a := false, b := false, c := false, x := some (f.x == 2 || f.x == 6) }
  | .ipf f => f.reject { u := false, ty := [.s32], d := false, a := true, b := false, c := false, x := some (true) }
  | .sret f => f.reject { u := false, ty := [.s32], d := false, a := true, b := false, c := false }
  | .wfi f => f.reject { u := false, ty := [.s32], d := false, a := false, b := false, c := false }
  | .lsread f => f.reject { u := false, ty := [.s32], d := true, a := true, b := false, c := false, x := some (f.x.toNat < 4) }
  | .lswrite f => f.reject { u := false, ty := [.s32], d := false, a := true, b := true, c := false, x := some (f.x.toNat < 4) }
  | .lsgrant f => f.reject { u := false, ty := [.s32], d := false, a := true, b := false, c := false }
  | .lsrecall f => f.reject { u := false, ty := [.s32], d := false, a := true, b := false, c := false }
  | .ctxload f => f.reject { u := false, ty := [.s32], d := false, a := true, b := true, c := false }
  | .ctxsave f => f.reject { u := false, ty := [.s32], d := false, a := true, b := true, c := false }
  | .ctxkill f => f.reject { u := false, ty := [.s32], d := false, a := false, b := true, c := false }
  | .ctxmode f => f.reject { u := false, ty := [.s32], d := false, a := true, b := true, c := false }
  | .clauseHeader _ => none
  | .clauseFetch _ _ => none
  | .icacheFill _ => none
  | .clauseBoundary _ => none
  | .issueSelection _ => none
  | .pathAged _ => none
  | .stallClear _ => none
  | .loadComplete _ => none
  | .storeComplete _ => none
  | .atomicComplete _ => none
  | .combineFlush _ _ _ => none
  | .codecLoad _ _ => none
  | .codecWriteStep _ _ => none
  | .rclaimGrant _ => none
  | .rgiveReturn _ _ => none
  | .registerClaimDeadlock _ => none
  | .chunkComplete _ => none
  | .tileTaskStart _ => none
  | .tileTaskComplete _ => none
  | .engineFault _ => none
  | .copyKindCopy _ _ => none
  | .stridedCopy _ _ => none
  | .gather _ _ => none
  | .poolFill _ _ => none
  | .poolCompare _ => none
  | .poolReduce _ _ => none
  | .fabricReduce _ => none
  | .leasePrefetch _ _ => none
  | .leaseWriteBack _ _ => none
  | .formatConversion _ _ => none
  | .byteCountPortion _ => none
  | .copyComplete _ => none
  | .collectiveResult _ _ _ => none
  | .collectiveTimeout _ _ => none
  | .launchPredCheck _ _ => none
  | .placeUnit => none
  | .groupResume => none
  | .groupRetire _ => none
  | .endComplete _ => none
  | .preempt _ => none
  | .preemptResumeOnly _ => none
  | .preemptHold _ => none
  | .preemptSave _ => none
  | .watchdogExpiry _ => none
  | .stewardEntry _ => none
  | .stewardTimer _ => none
  | .cmdLaunch _ => none
  | .cmdLaunchRoom _ => none
  | .endLaunch _ => none
  | .fetch _ => none
  | .resume _ => none
  | .refer _ => none
  | .complete _ => none
  | .svcrst _ => none
  | .copy _ => none
  | .route _ => none
  | .coll _ => none
  | .mode _ => none
  | .lgrant _ => none
  | .lrecall _ => none
  | .uint _ => none
  | .lreq _ _ _ => none
  | .grant _ _ _ _ _ _ => none
  | .gack _ _ => none
  | .reject _ _ => none
  | .renew _ _ => none
  | .renewed _ _ => none
  | .recalling _ _ => none
  | .gone _ _ => none
  | .recall _ _ _ => none
  | .recallDone _ _ => none
  | .release _ _ => none
  | .gackTimeout _ => none
  | .renewDue _ => none
  | .renewResend _ => none
  | .deadlineExpiry _ => none
  | .recallDeadline _ => none
  | .leaseExpiry _ => none
  | .recallGraceExpiry _ => none
  | .snoopTimeout _ _ => none
  | .requestTimeout _ => none
  | .fabricUnreachable _ => none
  | .rds _ _ => none
  | .rdown _ _ _ => none
  | .wr _ _ _ _ => none
  | .evct _ _ => none
  | .cmpS _ _ _ _ => none
  | .cmpE _ _ _ _ => none
  | .cmp _ _ _ _ => none
  | .bisnpinv _ _ _ => none
  | .bisnpshr _ _ _ => none
  | .birspi _ _ => none
  | .birsps _ _ => none
  | .biconflict _ _ => none
  | .biconflictack _ _ => none
  | .bandwidthWindow _ => none
  | .hello _ _ _ _ => none
  | .helloTimer => none
  | .candidateTimeout _ => none
  | .ringmasterTakeover => none
  | .claim _ _ => none
  | .query _ => none
  | .qreply _ _ _ => none
  | .offer _ _ _ => none
  | .want _ _ => none
  | .wanted _ => none
  | .axyenRetrain _ _ => none
  | .linkFallback _ => none
  | .foreignFpidDrop _ _ => none
  | .configRequest _ => none
  | .virtioNotify _ _ => none
  | .spdmRequest _ => none
  | .dcmdHalt _ => none
  | .dcmdRelease _ => none
  | .dcmdStep _ => none
  | .trdpWrite _ => none
  | .traceRingWrite _ _ => none
  | .tdropClear _ => none
  | .fomarRecord _ => none
  | .fomarReplay _ _ => none
  | .fomarCheckpoint => none
  | .mselWrite _ _ => none
  | .registerWrite _ _ => none
  | .thermalThrottle _ => none
  | .throttleStepUp _ => none
  | .overtempReset => none
  | .packageReset => none
  | .bringupStage _ _ => none
  | .linkDown _ => none
  | .linkUp _ => none
  | .fmApiCommand _ _ => none
  | .childSum _ _ _ _ _ _ => none
  | .uncorrectableWord _ => none
  | .hostBarAccess _ _ _ _ => none

/-- An instruction whose fields pass step 1 of R66. -/
def Instr.WellFormed (i : Instr) : Prop := i.illFormed = none

end Sys2Proof
end

