-- ==== Sys2Proof/Decode.lean ====
section
/-! DEFINITION. The decoder, total on any bytes, and the encoder (R26, R58 to R66, R82 to R93). -/
namespace Sys2Proof

/-- Bits [lo+n-1:lo] of a word. -/
def fieldAt (w lo n : Nat) : Nat := w / 2 ^ lo % 2 ^ n

/-- The operand a byte names (R26). -/
def Opnd.ofByte (n : Nat) : Opnd :=
  if h : n < 192 then .v ⟨n, h⟩ else .g ⟨(n - 192) % 64, Nat.mod_lt _ (by decide)⟩
/-- The byte of an operand (R26). -/
def Opnd.toByte : Opnd → Nat
  | .v n => n.val
  | .g n => 192 + n.val

/-- The TY code of a type (Table 5). -/
def DType.code : DType → Nat
  | .s32 => 0 | .n32 => 1 | .s64 => 2 | .n64 => 3 | .s16 => 4 | .n16 => 5 | .s8 => 6 | .n8 => 7
  | .b32 => 8 | .b64 => 9 | .f32 => 10 | .f64 => 11 | .f16 => 12 | .bf16 => 13 | .f16x2 => 14 | .blk => 15

/-- The RM value of a code; 5 to 7 are reserved (R59). -/
def RMode.ofCode : Nat → Option RMode
  | 0 => some .fmt | 1 => some .rne | 2 => some .rtz | 3 => some .rup | 4 => some .rdn | _ => none
/-- The RM code (Table 5). -/
def RMode.code : RMode → Nat
  | .fmt => 0 | .rne => 1 | .rtz => 2 | .rup => 3 | .rdn => 4

/-- The order of a code below 4 (R63). -/
def Order.ofCode : Nat → Order
  | 0 => .rlx | 1 => .acq | 2 => .rel | _ => .ar
/-- The ORD code (R63). -/
def Order.code : Order → Nat
  | .rlx => 0 | .acq => 1 | .rel => 2 | .ar => 3

/-- The scope of a value of SCP2 and SCP; 7 is reserved (R63). -/
def Scope.ofCode : Nat → Option Scope
  | 0 => some .thr | 1 => some .grp | 2 => some .core | 3 => some .clu | 4 => some .die | 5 => some .pkg
  | 6 => some .fab | _ => none
/-- The scope code (R63). -/
def Scope.code : Scope → Nat
  | .thr => 0 | .grp => 1 | .core => 2 | .clu => 3 | .die => 4 | .pkg => 5 | .fab => 6

/-- The size of a code; 5 to 7 are reserved (R63). -/
def Size.ofCode : Nat → Option Size
  | 0 => some .b8 | 1 => some .b16 | 2 => some .b32 | 3 => some .b64 | 4 => some .b128 | _ => none
/-- The SZ code (R63). -/
def Size.code : Size → Nat
  | .b8 => 0 | .b16 => 1 | .b32 => 2 | .b64 => 3 | .b128 => 4

/-- U and SC of a word (R58). -/
def uBit (w : Nat) : Bool := fieldAt w 55 1 == 1
/-- SC (R58). -/
def scField (w : Nat) : Fin 16 := ⟨fieldAt w 51 4, Nat.mod_lt _ (by decide)⟩

/-- The fields of a word of format F3 (R59). -/
def F3.ofWord (w : Nat) : Except Reject F3 :=
  match RMode.ofCode (fieldAt w 9 3) with
  | none => .error .rounding
  | some rm => .ok
    { u := uBit w, sc := scField w, d := Opnd.ofByte (fieldAt w 40 8), a := Opnd.ofByte (fieldAt w 32 8),
      b := Opnd.ofByte (fieldAt w 24 8), c := Opnd.ofByte (fieldAt w 16 8), ty := DType.ofCode (fieldAt w 12 4),
      rm := rm, s := fieldAt w 8 1 == 1, x := BitVec.ofNat 8 (fieldAt w 0 8) }

/-- The fields of a word of format FI (R61). -/
def FI.ofWord (w : Nat) : FI :=
  { u := uBit w, sc := scField w, d := Opnd.ofByte (fieldAt w 40 8), a := Opnd.ofByte (fieldAt w 32 8),
    imm := BitVec.ofNat 32 (fieldAt w 0 32) }

/-- The fields of a word of format FB (R62); bits [31:0] hold OFFS. -/
def FB.ofWord (w : Nat) : FB :=
  { u := uBit w, sc := scField w, d := Opnd.ofByte (fieldAt w 40 8), a := Opnd.ofByte (fieldAt w 32 8),
    offs := BitVec.ofNat 32 (fieldAt w 0 32) }

/-- The fields of a word of format FM (R63). -/
def FM.ofWord (w : Nat) : Except Reject FM :=
  match Scope.ofCode (fieldAt w 19 1 * 4 + fieldAt w 20 2), Size.ofCode (fieldAt w 16 3) with
  | none, _ => .error .scope
  | some _, none => .error .size
  | some scp, some sz => .ok
    { u := uBit w, sc := scField w, d := Opnd.ofByte (fieldAt w 40 8), a := Opnd.ofByte (fieldAt w 32 8),
      b := Opnd.ofByte (fieldAt w 24 8), ord := Order.ofCode (fieldAt w 22 2), scp := scp, sz := sz,
      off := BitVec.ofNat 16 (fieldAt w 0 16) }

/-- The rows of format F3 that one opcode and minor opcode settle, part 1: the key is 8·OP + SUB (R82). -/
def f3Rows1 : List (Nat × (F3 → Instr)) :=
  [(0, .add), (1, .sub), (2, .min), (3, .max), (4, .abs), (5, .neg), (6, .sel), (7, .lea), (8, .mul), (9, .mulhi), (10, .mad), (11, .dp4), (16, .and), (17, .or), (18, .xor), (19, .andn), (20, .not), (21, .popc), (22, .clz), (23, .ctz), (24, .shl), (25, .shr), (26, .sar), (27, .rot)]

/-- The rows of format F3 that one opcode and minor opcode settle, part 2: the key is 8·OP + SUB (R82). -/
def f3Rows2 : List (Nat × (F3 → Instr)) :=
  [(28, .bfx), (29, .bfi), (30, .brev), (32, .cmpEq), (33, .cmpNe), (34, .cmpLt), (35, .cmpLe), (36, .cmpGt), (37, .cmpGe), (40, .add64), (41, .sub64), (48, .cvt), (384, .fadd), (385, .fsub), (386, .fmul), (387, .fma), (388, .fmin), (389, .fmax), (390, .fabs), (391, .fneg), (392, .fclass), (393, .frnd), (394, .fcvt), (395, .f2i)]

/-- The rows of format F3 that one opcode and minor opcode settle, part 3: the key is 8·OP + SUB (R82). -/
def f3Rows3 : List (Nat × (F3 → Instr)) :=
  [(396, .i2f), (397, .fldexp), (400, .fcmpEq), (401, .fcmpNe), (402, .fcmpLt), (403, .fcmpLe), (404, .fcmpGt), (405, .fcmpGe), (406, .fcmpUn), (407, .fcmpOrd), (417, .bfup), (418, .bfq), (419, .fmtset), (420, .fmtget), (512, .frcp), (513, .frsq), (514, .fsqrt), (515, .fexp2), (516, .flog2), (517, .fsin), (518, .fcos), (848, .waitLd), (849, .waitSt), (850, .waitAt)]

/-- The rows of format F3 that one opcode and minor opcode settle, part 4: the key is 8·OP + SUB (R82). -/
def f3Rows4 : List (Nat × (F3 → Instr)) :=
  [(851, .waitCp), (852, .waitTt), (853, .waitSv), (854, .rclaim), (855, .rgive), (1024, .tenq), (1025, .twait), (1026, .ardr), (1027, .awr), (1028, .azero), (1029, .cpkick), (1030, .launch), (1152, .shfl), (1153, .bcast), (1155, .scan), (1156, .rdx), (1157, .mpop), (1158, .xpat), (1159, .xbar), (1160, .vdtab), (1161, .vdec), (1288, .brx), (1289, .callx), (1290, .ret)]

/-- The rows of format F3 that one opcode and minor opcode settle, part 5: the key is 8·OP + SUB (R82). -/
def f3Rows5 : List (Nat × (F3 → Instr)) :=
  [(1291, .exit), (1292, .yield), (1293, .nop), (1304, .hpost), (1305, .hjoin), (1306, .dismiss), (1536, .gsr), (1538, .svc), (1539, .trap), (1540, .brk), (1541, .eret), (1543, .ipf), (1664, .sret), (1665, .wfi), (1672, .lsread), (1673, .lswrite), (1674, .lsgrant), (1675, .lsrecall), (1680, .ctxload), (1681, .ctxsave), (1682, .ctxkill), (1683, .ctxmode)]

/-- The rows of format F3 that one opcode and minor opcode settle (R82). -/
def f3Rows : List (Nat × (F3 → Instr)) := f3Rows1 ++ f3Rows2 ++ f3Rows3 ++ f3Rows4 ++ f3Rows5

/-- The rows of format FM that one opcode and minor opcode settle, part 1: the key is 8·OP + SUB (R82). -/
def fmRows1 : List (Nat × (FM → Instr)) :=
  [(768, .ldG), (769, .ldL), (770, .ldx), (771, .pf), (776, .stG), (777, .stL), (778, .stx), (784, .atomAdd), (785, .atomMinN), (786, .atomMaxN), (787, .atomMinS), (788, .atomMaxS), (789, .atomAnd), (790, .atomOr), (791, .atomXor), (792, .atomExch), (793, .atomCas), (794, .atomAddF), (795, .atomMinF), (796, .atomMaxF), (800, .atomLAdd), (801, .atomLMinN), (802, .atomLMaxN), (803, .atomLMinS)]

/-- The rows of format FM that one opcode and minor opcode settle, part 2: the key is 8·OP + SUB (R82). -/
def fmRows2 : List (Nat × (FM → Instr)) :=
  [(804, .atomLMaxS), (805, .atomLAnd), (806, .atomLOr), (807, .atomLXor), (808, .atomLExch), (809, .atomLCas), (810, .atomLAddF), (811, .atomLMinF), (812, .atomLMaxF), (816, .redAdd), (817, .redMinN), (818, .redMaxN), (819, .redMinS), (820, .redMaxS), (821, .redAnd), (822, .redOr), (823, .redXor), (826, .redAddF), (827, .redMinF), (828, .redMaxF), (832, .fence), (840, .barInit), (842, .barWait), (843, .barTest)]

/-- The rows of format FM that one opcode and minor opcode settle, part 3: the key is 8·OP + SUB (R82). -/
def fmRows3 : List (Nat × (FM → Instr)) :=
  [(856, .cobj), (857, .cwin)]

/-- The rows of format FM that one opcode and minor opcode settle (R82). -/
def fmRows : List (Nat × (FM → Instr)) := fmRows1 ++ fmRows2 ++ fmRows3

/-- The rows of format FB that one opcode and minor opcode settle, part 1: the key is 8·OP + SUB (R82). -/
def fbRows1 : List (Nat × (FB → Instr)) :=
  [(1280, .bra), (1281, .brc), (1282, .call), (1283, .loop), (1285, .rgn), (1296, .recruit)]

/-- The rows of format FB that one opcode and minor opcode settle (R82). -/
def fbRows : List (Nat × (FB → Instr)) := fbRows1

/-- The rows of format FI, part 1: the key is 8·OP + SUB (R82). -/
def fiRows1 : List (Nat × (FI → Instr)) :=
  [(64, .addImm), (65, .andImm), (66, .orImm), (67, .xorImm), (68, .shlImm), (69, .shrImm), (70, .sarImm), (71, .mulImm), (72, .add64Imm), (73, .and64Imm), (74, .or64Imm), (75, .xor64Imm), (448, .faddF32Imm), (449, .fmulF32Imm), (450, .faddF64Imm), (451, .fmulF64Imm)]

/-- The rows of format FI (R82). -/
def fiRows : List (Nat × (FI → Instr)) := fiRows1

/-- The rows of format F3 that X settles: `ffrexp` (R142), `bfpk` (R151), `vote` (R251), `ssr` (R264), `tlbi` (R271). -/
def decodeF3Shared (key : Nat) (f : F3) : Option Instr :=
  let x := f.x.toNat
  if key = 398 then some (if x % 2 = 1 then .ffrexpExp f else .ffrexp f)
  else if key = 416 then some (if x / 8 % 2 = 1 then .bfpkPk f else .bfpk f)
  else if key = 1154 then
    some (if x = 1 then .voteAny f else if x = 2 then .voteAll f else if x = 3 then .voteEq f else .voteBallot f)
  else if key = 1537 then some (if x = 0x38 then .sipiWrite f else if x = 0x37 then .stcmpWrite f else .ssr f)
  else if key = 1542 then
    some (if x % 4 = 1 then .tlbiCtx f else if x % 4 = 2 then .tlbiAll f else .tlbiPage f)
  else none

/-- The rows of format FM that SZ settles: `bar.arr` (R207), `cctl` (R218). -/
def decodeFMShared (key : Nat) (f : FM) : Option Instr :=
  if key = 841 then some (if f.sz = .b16 then .barArrDrop f else .barArr f)
  else if key = 858 then some (match f.sz with
    | .b16 => .cctlL1all f
    | .b32 => .cctlRlcev f
    | _ => .cctlL1inv f)
  else none

/-- The row of format FB that A settles: `endl` (R166). -/
def decodeFBShared (key : Nat) (f : FB) : Option Instr :=
  if key = 1284 then some (if f.a = .v 1 then .endlX f else .endl f) else none

/-- The format of an assigned major opcode (Table 1 of the Opcode Map); none for an unassigned one (R88). -/
inductive Fmt where
  | f3 | fi | fb | fm
deriving DecidableEq, Repr

/-- R82, R88. -/
def Fmt.ofOp (op : Nat) : Option Fmt :=
  if op ∈ [0x00, 0x01, 0x02, 0x03, 0x04, 0x05, 0x06, 0x30, 0x31, 0x32, 0x34, 0x40, 0x6A, 0x80, 0x90, 0x91, 0xA1, 0xA3,
    0xC0, 0xD0, 0xD1, 0xD2] then some .f3
  else if op ∈ [0x08, 0x09, 0x38] then some .fi
  else if op ∈ [0x60, 0x61, 0x62, 0x63, 0x64, 0x65, 0x66, 0x67, 0x68, 0x69, 0x6B] then some .fm
  else if op ∈ [0xA0, 0xA2] then some .fb
  else none

/-- The instruction of a word before the checks of its fields (R82). -/
def decodeRow (w : Nat) : Except Reject Instr :=
  let key := fieldAt w 48 3 + 8 * fieldAt w 56 8
  match Fmt.ofOp (fieldAt w 56 8) with
  | none => .error (if fieldAt w 59 5 = 31 then .clauseHeader else .opcode)
  | some .f3 =>
    match F3.ofWord w with
    | .error e => .error e
    | .ok f =>
      match f3Rows.lookup key with
      | some mk => .ok (mk f)
      | none => match decodeF3Shared key f with
        | some i => .ok i
        | none => .error .minor
  | some .fm =>
    match FM.ofWord w with
    | .error e => .error e
    | .ok f =>
      match fmRows.lookup key with
      | some mk => .ok (mk f)
      | none => match decodeFMShared key f with
        | some i => .ok i
        | none => .error .minor
  | some .fb =>
    let f := FB.ofWord w
    match fbRows.lookup key with
    | some mk => .ok (mk f)
    | none => match decodeFBShared key f with
      | some i => .ok i
      | none => .error .minor
  | some .fi =>
    match fiRows.lookup key with
    | some mk => .ok (mk (FI.ofWord w))
    | none => .error .minor

/-- The instruction of a word, or the first check of step 1 of R66 that it fails. The checks that depend on the
clause (R55, R56) and on the issuing core (R90, R91) are made where the word is issued. -/
def decodeWord (w : DWord) : Except Reject Instr :=
  match decodeRow w.toNat with
  | .error e => .error e
  | .ok i =>
    match i.illFormed with
    | some e => .error e
    | none => .ok i

/-- The 64-bit word of 8 bytes, lowest address first (R3). -/
def wordOfBytes (bs : List Byte) : DWord := BitVec.ofNat 64 (bs.foldr (fun b n => b.toNat + 256 * n) 0)

/-- The instruction at the head of a list of bytes, with the bytes after it. -/
def decode (bs : List Byte) : Except Reject (Instr × List Byte) :=
  if bs.length < 8 then .error .truncated
  else match decodeWord (wordOfBytes (bs.take 8)) with
    | .error e => .error e
    | .ok i => .ok (i, bs.drop 8)

/-- The 8 bytes of a word, lowest address first (R3). -/
def bytesOfWord (w : DWord) : List Byte := (List.range 8).map fun k => BitVec.ofNat 8 (w.toNat / 2 ^ (8 * k))

/-- The instruction in a word given in the numbering of the opcode table. -/
def decodeTableWord (_nbits w : Nat) : Option Instr :=
  match decode (bytesOfWord (BitVec.ofNat 64 w)) with
  | .ok (i, _) => some i
  | .error _ => none

/-- Bits [63:48] of a word: OP, U, SC and SUB (R58). -/
def headBits (op sub : Nat) (u : Bool) (sc : Fin 16) : Nat :=
  op * 2 ^ 56 + u.toNat * 2 ^ 55 + sc.val * 2 ^ 51 + sub * 2 ^ 48

/-- A word of format F3 (R59). -/
def F3.word (op sub : Nat) (f : F3) : DWord := BitVec.ofNat 64
  (headBits op sub f.u f.sc + f.d.toByte * 2 ^ 40 + f.a.toByte * 2 ^ 32 + f.b.toByte * 2 ^ 24 + f.c.toByte * 2 ^ 16
    + f.ty.code * 2 ^ 12 + f.rm.code * 2 ^ 9 + f.s.toNat * 2 ^ 8 + f.x.toNat)

/-- A word of format FI (R61). -/
def FI.word (op sub : Nat) (f : FI) : DWord := BitVec.ofNat 64
  (headBits op sub f.u f.sc + f.d.toByte * 2 ^ 40 + f.a.toByte * 2 ^ 32 + f.imm.toNat)

/-- A word of format FB (R62). -/
def FB.word (op sub : Nat) (f : FB) : DWord := BitVec.ofNat 64
  (headBits op sub f.u f.sc + f.d.toByte * 2 ^ 40 + f.a.toByte * 2 ^ 32 + f.offs.toNat)

/-- A word of format FM (R63). -/
def FM.word (op sub : Nat) (f : FM) : DWord := BitVec.ofNat 64
  (headBits op sub f.u f.sc + f.d.toByte * 2 ^ 40 + f.a.toByte * 2 ^ 32 + f.b.toByte * 2 ^ 24 + f.ord.code * 2 ^ 22
    + f.scp.code % 4 * 2 ^ 20 + f.scp.code / 4 * 2 ^ 19 + f.sz.code * 2 ^ 16 + f.off.toNat)

/-- The word of an instruction; an event has none (R82). -/
def encode : Instr → Option DWord
  | .add f => some (f.word 0x00 0)
  | .sub f => some (f.word 0x00 1)
  | .min f => some (f.word 0x00 2)
  | .max f => some (f.word 0x00 3)
  | .abs f => some (f.word 0x00 4)
  | .neg f => some (f.word 0x00 5)
  | .sel f => some (f.word 0x00 6)
  | .lea f => some (f.word 0x00 7)
  | .mul f => some (f.word 0x01 0)
  | .mulhi f => some (f.word 0x01 1)
  | .mad f => some (f.word 0x01 2)
  | .dp4 f => some (f.word 0x01 3)
  | .and f => some (f.word 0x02 0)
  | .or f => some (f.word 0x02 1)
  | .xor f => some (f.word 0x02 2)
  | .andn f => some (f.word 0x02 3)
  | .not f => some (f.word 0x02 4)
  | .popc f => some (f.word 0x02 5)
  | .clz f => some (f.word 0x02 6)
  | .ctz f => some (f.word 0x02 7)
  | .shl f => some (f.word 0x03 0)
  | .shr f => some (f.word 0x03 1)
  | .sar f => some (f.word 0x03 2)
  | .rot f => some (f.word 0x03 3)
  | .bfx f => some (f.word 0x03 4)
  | .bfi f => some (f.word 0x03 5)
  | .brev f => some (f.word 0x03 6)
  | .cmpEq f => some (f.word 0x04 0)
  | .cmpNe f => some (f.word 0x04 1)
  | .cmpLt f => some (f.word 0x04 2)
  | .cmpLe f => some (f.word 0x04 3)
  | .cmpGt f => some (f.word 0x04 4)
  | .cmpGe f => some (f.word 0x04 5)
  | .add64 f => some (f.word 0x05 0)
  | .sub64 f => some (f.word 0x05 1)
  | .cvt f => some (f.word 0x06 0)
  | .addImm f => some (f.word 0x08 0)
  | .andImm f => some (f.word 0x08 1)
  | .orImm f => some (f.word 0x08 2)
  | .xorImm f => some (f.word 0x08 3)
  | .shlImm f => some (f.word 0x08 4)
  | .shrImm f => some (f.word 0x08 5)
  | .sarImm f => some (f.word 0x08 6)
  | .mulImm f => some (f.word 0x08 7)
  | .add64Imm f => some (f.word 0x09 0)
  | .and64Imm f => some (f.word 0x09 1)
  | .or64Imm f => some (f.word 0x09 2)
  | .xor64Imm f => some (f.word 0x09 3)
  | .fadd f => some (f.word 0x30 0)
  | .fsub f => some (f.word 0x30 1)
  | .fmul f => some (f.word 0x30 2)
  | .fma f => some (f.word 0x30 3)
  | .fmin f => some (f.word 0x30 4)
  | .fmax f => some (f.word 0x30 5)
  | .fabs f => some (f.word 0x30 6)
  | .fneg f => some (f.word 0x30 7)
  | .fclass f => some (f.word 0x31 0)
  | .frnd f => some (f.word 0x31 1)
  | .fcvt f => some (f.word 0x31 2)
  | .f2i f => some (f.word 0x31 3)
  | .i2f f => some (f.word 0x31 4)
  | .fldexp f => some (f.word 0x31 5)
  | .ffrexp f => some (f.word 0x31 6)
  | .ffrexpExp f => some (f.word 0x31 6)
  | .fcmpEq f => some (f.word 0x32 0)
  | .fcmpNe f => some (f.word 0x32 1)
  | .fcmpLt f => some (f.word 0x32 2)
  | .fcmpLe f => some (f.word 0x32 3)
  | .fcmpGt f => some (f.word 0x32 4)
  | .fcmpGe f => some (f.word 0x32 5)
  | .fcmpUn f => some (f.word 0x32 6)
  | .fcmpOrd f => some (f.word 0x32 7)
  | .bfpk f => some (f.word 0x34 0)
  | .bfpkPk f => some (f.word 0x34 0)
  | .bfup f => some (f.word 0x34 1)
  | .bfq f => some (f.word 0x34 2)
  | .fmtset f => some (f.word 0x34 3)
  | .fmtget f => some (f.word 0x34 4)
  | .faddF32Imm f => some (f.word 0x38 0)
  | .fmulF32Imm f => some (f.word 0x38 1)
  | .faddF64Imm f => some (f.word 0x38 2)
  | .fmulF64Imm f => some (f.word 0x38 3)
  | .frcp f => some (f.word 0x40 0)
  | .frsq f => some (f.word 0x40 1)
  | .fsqrt f => some (f.word 0x40 2)
  | .fexp2 f => some (f.word 0x40 3)
  | .flog2 f => some (f.word 0x40 4)
  | .fsin f => some (f.word 0x40 5)
  | .fcos f => some (f.word 0x40 6)
  | .ldG f => some (f.word 0x60 0)
  | .ldL f => some (f.word 0x60 1)
  | .ldx f => some (f.word 0x60 2)
  | .pf f => some (f.word 0x60 3)
  | .stG f => some (f.word 0x61 0)
  | .stL f => some (f.word 0x61 1)
  | .stx f => some (f.word 0x61 2)
  | .atomAdd f => some (f.word 0x62 0)
  | .atomMinN f => some (f.word 0x62 1)
  | .atomMaxN f => some (f.word 0x62 2)
  | .atomMinS f => some (f.word 0x62 3)
  | .atomMaxS f => some (f.word 0x62 4)
  | .atomAnd f => some (f.word 0x62 5)
  | .atomOr f => some (f.word 0x62 6)
  | .atomXor f => some (f.word 0x62 7)
  | .atomExch f => some (f.word 0x63 0)
  | .atomCas f => some (f.word 0x63 1)
  | .atomAddF f => some (f.word 0x63 2)
  | .atomMinF f => some (f.word 0x63 3)
  | .atomMaxF f => some (f.word 0x63 4)
  | .atomLAdd f => some (f.word 0x64 0)
  | .atomLMinN f => some (f.word 0x64 1)
  | .atomLMaxN f => some (f.word 0x64 2)
  | .atomLMinS f => some (f.word 0x64 3)
  | .atomLMaxS f => some (f.word 0x64 4)
  | .atomLAnd f => some (f.word 0x64 5)
  | .atomLOr f => some (f.word 0x64 6)
  | .atomLXor f => some (f.word 0x64 7)
  | .atomLExch f => some (f.word 0x65 0)
  | .atomLCas f => some (f.word 0x65 1)
  | .atomLAddF f => some (f.word 0x65 2)
  | .atomLMinF f => some (f.word 0x65 3)
  | .atomLMaxF f => some (f.word 0x65 4)
  | .redAdd f => some (f.word 0x66 0)
  | .redMinN f => some (f.word 0x66 1)
  | .redMaxN f => some (f.word 0x66 2)
  | .redMinS f => some (f.word 0x66 3)
  | .redMaxS f => some (f.word 0x66 4)
  | .redAnd f => some (f.word 0x66 5)
  | .redOr f => some (f.word 0x66 6)
  | .redXor f => some (f.word 0x66 7)
  | .redAddF f => some (f.word 0x67 2)
  | .redMinF f => some (f.word 0x67 3)
  | .redMaxF f => some (f.word 0x67 4)
  | .fence f => some (f.word 0x68 0)
  | .barInit f => some (f.word 0x69 0)
  | .barArr f => some (f.word 0x69 1)
  | .barArrDrop f => some (f.word 0x69 1)
  | .barWait f => some (f.word 0x69 2)
  | .barTest f => some (f.word 0x69 3)
  | .waitLd f => some (f.word 0x6A 0)
  | .waitSt f => some (f.word 0x6A 1)
  | .waitAt f => some (f.word 0x6A 2)
  | .waitCp f => some (f.word 0x6A 3)
  | .waitTt f => some (f.word 0x6A 4)
  | .waitSv f => some (f.word 0x6A 5)
  | .rclaim f => some (f.word 0x6A 6)
  | .rgive f => some (f.word 0x6A 7)
  | .cobj f => some (f.word 0x6B 0)
  | .cwin f => some (f.word 0x6B 1)
  | .cctlL1inv f => some (f.word 0x6B 2)
  | .cctlL1all f => some (f.word 0x6B 2)
  | .cctlRlcev f => some (f.word 0x6B 2)
  | .tenq f => some (f.word 0x80 0)
  | .twait f => some (f.word 0x80 1)
  | .ardr f => some (f.word 0x80 2)
  | .awr f => some (f.word 0x80 3)
  | .azero f => some (f.word 0x80 4)
  | .cpkick f => some (f.word 0x80 5)
  | .launch f => some (f.word 0x80 6)
  | .shfl f => some (f.word 0x90 0)
  | .bcast f => some (f.word 0x90 1)
  | .voteBallot f => some (f.word 0x90 2)
  | .voteAny f => some (f.word 0x90 2)
  | .voteAll f => some (f.word 0x90 2)
  | .voteEq f => some (f.word 0x90 2)
  | .scan f => some (f.word 0x90 3)
  | .rdx f => some (f.word 0x90 4)
  | .mpop f => some (f.word 0x90 5)
  | .xpat f => some (f.word 0x90 6)
  | .xbar f => some (f.word 0x90 7)
  | .vdtab f => some (f.word 0x91 0)
  | .vdec f => some (f.word 0x91 1)
  | .bra f => some (f.word 0xA0 0)
  | .brc f => some (f.word 0xA0 1)
  | .call f => some (f.word 0xA0 2)
  | .loop f => some (f.word 0xA0 3)
  | .endl f => some (f.word 0xA0 4)
  | .endlX f => some (f.word 0xA0 4)
  | .rgn f => some (f.word 0xA0 5)
  | .brx f => some (f.word 0xA1 0)
  | .callx f => some (f.word 0xA1 1)
  | .ret f => some (f.word 0xA1 2)
  | .exit f => some (f.word 0xA1 3)
  | .yield f => some (f.word 0xA1 4)
  | .nop f => some (f.word 0xA1 5)
  | .recruit f => some (f.word 0xA2 0)
  | .hpost f => some (f.word 0xA3 0)
  | .hjoin f => some (f.word 0xA3 1)
  | .dismiss f => some (f.word 0xA3 2)
  | .gsr f => some (f.word 0xC0 0)
  | .ssr f => some (f.word 0xC0 1)
  | .sipiWrite f => some (f.word 0xC0 1)
  | .stcmpWrite f => some (f.word 0xC0 1)
  | .svc f => some (f.word 0xC0 2)
  | .trap f => some (f.word 0xC0 3)
  | .brk f => some (f.word 0xC0 4)
  | .eret f => some (f.word 0xC0 5)
  | .tlbiPage f => some (f.word 0xC0 6)
  | .tlbiCtx f => some (f.word 0xC0 6)
  | .tlbiAll f => some (f.word 0xC0 6)
  | .ipf f => some (f.word 0xC0 7)
  | .sret f => some (f.word 0xD0 0)
  | .wfi f => some (f.word 0xD0 1)
  | .lsread f => some (f.word 0xD1 0)
  | .lswrite f => some (f.word 0xD1 1)
  | .lsgrant f => some (f.word 0xD1 2)
  | .lsrecall f => some (f.word 0xD1 3)
  | .ctxload f => some (f.word 0xD2 0)
  | .ctxsave f => some (f.word 0xD2 1)
  | .ctxkill f => some (f.word 0xD2 2)
  | .ctxmode f => some (f.word 0xD2 3)
  | .clauseHeader _ => none
  | .clauseFetch _ _ => none
  | .icacheFill _ => none
  | .clauseBoundary _ => none
  | .issueSelection _ => none
  | .pathAged _ => none
  | .stallClear _ => none
  | .loadComplete _ => none
  | .storeComplete _ => none
  | .atomicComplete _ => none
  | .combineFlush _ _ _ => none
  | .codecLoad _ _ => none
  | .codecWriteStep _ _ => none
  | .rclaimGrant _ => none
  | .rgiveReturn _ _ => none
  | .registerClaimDeadlock _ => none
  | .chunkComplete _ => none
  | .tileTaskStart _ => none
  | .tileTaskComplete _ => none
  | .engineFault _ => none
  | .copyKindCopy _ _ => none
  | .stridedCopy _ _ => none
  | .gather _ _ => none
  | .poolFill _ _ => none
  | .poolCompare _ => none
  | .poolReduce _ _ => none
  | .fabricReduce _ => none
  | .leasePrefetch _ _ => none
  | .leaseWriteBack _ _ => none
  | .formatConversion _ _ => none
  | .byteCountPortion _ => none
  | .copyComplete _ => none
  | .collectiveResult _ _ _ => none
  | .collectiveTimeout _ _ => none
  | .launchPredCheck _ _ => none
  | .placeUnit => none
  | .groupResume => none
  | .groupRetire _ => none
  | .endComplete _ => none
  | .preempt _ => none
  | .preemptResumeOnly _ => none
  | .preemptHold _ => none
  | .preemptSave _ => none
  | .watchdogExpiry _ => none
  | .stewardEntry _ => none
  | .stewardTimer _ => none
  | .cmdLaunch _ => none
  | .cmdLaunchRoom _ => none
  | .endLaunch _ => none
  | .fetch _ => none
  | .resume _ => none
  | .refer _ => none
  | .complete _ => none
  | .svcrst _ => none
  | .copy _ => none
  | .route _ => none
  | .coll _ => none
  | .mode _ => none
  | .lgrant _ => none
  | .lrecall _ => none
  | .uint _ => none
  | .lreq _ _ _ => none
  | .grant _ _ _ _ _ _ => none
  | .gack _ _ => none
  | .reject _ _ => none
  | .renew _ _ => none
  | .renewed _ _ => none
  | .recalling _ _ => none
  | .gone _ _ => none
  | .recall _ _ _ => none
  | .recallDone _ _ => none
  | .release _ _ => none
  | .gackTimeout _ => none
  | .renewDue _ => none
  | .renewResend _ => none
  | .deadlineExpiry _ => none
  | .recallDeadline _ => none
  | .leaseExpiry _ => none
  | .recallGraceExpiry _ => none
  | .snoopTimeout _ _ => none
  | .requestTimeout _ => none
  | .fabricUnreachable _ => none
  | .rds _ _ => none
  | .rdown _ _ _ => none
  | .wr _ _ _ _ => none
  | .evct _ _ => none
  | .cmpS _ _ _ _ => none
  | .cmpE _ _ _ _ => none
  | .cmp _ _ _ _ => none
  | .bisnpinv _ _ _ => none
  | .bisnpshr _ _ _ => none
  | .birspi _ _ => none
  | .birsps _ _ => none
  | .biconflict _ _ => none
  | .biconflictack _ _ => none
  | .bandwidthWindow _ => none
  | .hello _ _ _ _ => none
  | .helloTimer => none
  | .candidateTimeout _ => none
  | .ringmasterTakeover => none
  | .claim _ _ => none
  | .query _ => none
  | .qreply _ _ _ => none
  | .offer _ _ _ => none
  | .want _ _ => none
  | .wanted _ => none
  | .axyenRetrain _ _ => none
  | .linkFallback _ => none
  | .foreignFpidDrop _ _ => none
  | .configRequest _ => none
  | .virtioNotify _ _ => none
  | .spdmRequest _ => none
  | .dcmdHalt _ => none
  | .dcmdRelease _ => none
  | .dcmdStep _ => none
  | .trdpWrite _ => none
  | .traceRingWrite _ _ => none
  | .tdropClear _ => none
  | .fomarRecord _ => none
  | .fomarReplay _ _ => none
  | .fomarCheckpoint => none
  | .mselWrite _ _ => none
  | .registerWrite _ _ => none
  | .thermalThrottle _ => none
  | .throttleStepUp _ => none
  | .overtempReset => none
  | .packageReset => none
  | .bringupStage _ _ => none
  | .linkDown _ => none
  | .linkUp _ => none
  | .fmApiCommand _ _ => none
  | .childSum _ _ _ _ _ _ => none
  | .uncorrectableWord _ => none
  | .hostBarAccess _ _ _ _ => none

end Sys2Proof
end

