-- ==== Sys2Proof/Config.lean ====
section
/-! DEFINITION. What an implementation fixes, and the free values: constants with no body, so that nothing in Lean
knows a value of them (log 10, log 15). -/
namespace Sys2Proof.Config

/-- Which of the sixteen entries of a 64 KiB page that do not agree an access uses (R330). Applied to the counter
of free values drawn. -/
opaque pageEntry : Nat → Fin 16

/-- A byte of a measurement block: the digests of the boot ROM, the firmware image and the boot configuration block, whose
contents the spec does not give (R424; log 10). Applied to the boot configuration, the block and the byte's place. -/
opaque measurement : BootConfig → Nat → Nat → BitVec 8

/-- A byte of a free entry of a frame tail beside its owner byte (R164): applied to the counter of free values drawn and to
the byte's place in the tail. -/
opaque tailByte : Nat → Nat → BitVec 8

/-- The fault address of a protection fault that is not on an access: on a Carousel or decode table, on the lent table, on a
context in use (R255, R276, R389; log 10). -/
opaque protectionAddr : Nat → BitVec 64

/-- The bytes that an entry of Fomar's log takes in the Fomar region, which the spec does not state (R432; log 10). -/
opaque logEntryBytes : Nat

/-- fmt of a COPY that the host submits, whose BFP width the spec does not give (R114, R417, R422; log 28). Applied to the counter of free
values drawn. -/
opaque hostFmt : Nat → BitVec 64

/-- What the launch engine answers for words of a submission slot that it cannot read: the STATUS of a command whose payload is poisoned, and a
CMDW that is (R346, R416; log 104). Applied to the counter of free values drawn. -/
opaque lostWord : Nat → BitVec 64

/-- The class byte with which FM API traffic goes to the host (R418, R422; log 25). Applied to the counter of free values drawn. -/
opaque fmApiClass : Nat → BitVec 8

/-- The route-table entry that the Ringmaster writes in a package for another (R410; log 94). -/
opaque routeEntry : Nat → Nat → BitVec 16

end Sys2Proof.Config
end

