-- ==== Sys2Proof/Machine/Assoc.lean ====
section
/-! DEFINITION. Sparse tables: lists of keys and values with the keys strictly rising, and operations on lists. -/
namespace Sys2Proof.Machine

/-- A table from numbers to values: the keys rise strictly. -/
abbrev Assoc (α : Type) := List (Nat × α)

/-- The value at a key. -/
def Assoc.get? {α : Type} : Assoc α → Nat → Option α
  | [], _ => none
  | (k, a) :: m, n => if k = n then some a else Assoc.get? m n

/-- The value at a key, or a default. -/
def Assoc.getD {α : Type} (m : Assoc α) (n : Nat) (d : α) : α := (Assoc.get? m n).getD d

/-- The table with a value at a key. -/
def Assoc.set {α : Type} : Assoc α → Nat → α → Assoc α
  | [], n, b => [(n, b)]
  | (k, a) :: m, n, b =>
    if n < k then (n, b) :: (k, a) :: m
    else if n = k then (n, b) :: m
    else (k, a) :: Assoc.set m n b

/-- The table without a key. -/
def Assoc.erase {α : Type} : Assoc α → Nat → Assoc α
  | [], _ => []
  | (k, a) :: m, n => if n < k then (k, a) :: m else if n = k then m else (k, a) :: Assoc.erase m n

/-- The table with a value at a key, where an absent key reads as `d`: writing `d` removes the key. -/
def Assoc.put {α : Type} [DecidableEq α] (d : α) (m : Assoc α) (n : Nat) (b : α) : Assoc α :=
  if b = d then Assoc.erase m n else Assoc.set m n b

/-- The table with the value at a key changed, if there is one. -/
def Assoc.update {α : Type} (m : Assoc α) (n : Nat) (f : α → α) : Assoc α :=
  match Assoc.get? m n with
  | some a => Assoc.set m n (f a)
  | none => m

/-- The keys, rising. -/
def Assoc.keys {α : Type} (m : Assoc α) : List Nat := m.map (·.1)

/-- The values in the order of their keys. -/
def Assoc.vals {α : Type} (m : Assoc α) : List α := m.map (·.2)

/-- Every value changed. -/
def Assoc.mapVals {α β : Type} (m : Assoc α) (f : α → β) : Assoc β := m.map fun p => (p.1, f p.2)

/-- The lowest number below `n` that is no key. -/
def Assoc.firstFree {α : Type} (m : Assoc α) (n : Nat) : Option Nat :=
  (List.range n).find? fun k => (Assoc.get? m k).isNone

/-- The keys rise strictly. -/
def Assoc.sorted {α : Type} : Assoc α → Bool
  | [] => true
  | [_] => true
  | (k, _) :: (n, b) :: m => k < n && Assoc.sorted ((n, b) :: m)

/-- The list with its entry at a position changed. -/
def modifyAt {α : Type} (l : List α) (n : Nat) (f : α → α) : List α :=
  match l, n with
  | [], _ => []
  | a :: m, 0 => f a :: m
  | a :: m, n + 1 => a :: modifyAt m n f

/-- The numbers of the set bits of a mask below `n`, rising. -/
def bitsOf (m : Mask) (n : Nat) : List Nat := (List.range n).filter fun t => m.getLsbD t

/-- The mask of a list of bit numbers. -/
def maskOf (l : List Nat) : Mask := l.foldl (fun m t => m ||| (1#128 <<< t)) 0

/-- The best element under a strict order, the first where none is better. -/
def best {α : Type} (better : α → α → Bool) : List α → Option α
  | [] => none
  | a :: l => some (l.foldl (fun b c => if better c b then c else b) a)

/-- A value little-endian in `n` bytes (R3). -/
def toBytes (n v : Nat) : List Byte := (List.range n).map fun k => BitVec.ofNat 8 (v / 2 ^ (8 * k))

/-- The value of bytes, lowest address first (R3). -/
def ofBytes (bs : List Byte) : Nat := bs.foldr (fun b n => b.toNat + 256 * n) 0

/-- Bits [lo+n-1:lo] of a number. -/
def bits (v lo n : Nat) : Nat := v / 2 ^ lo % 2 ^ n

/-- `n` bytes of a list from an offset, as a value (R3). -/
def valueAt (bs : List Byte) (off n : Nat) : Nat := ofBytes ((bs.drop off).take n)

end Sys2Proof.Machine
end

