-- ==== Sys2Proof/Machine/State.lean ====
section
/-! DEFINITION. The state of the machine as plain data, its faults and refusals, and the state after reset. -/
namespace Sys2Proof.Machine

/-- Memory: bytes at rising addresses, none of them 0, which is what an unlisted address reads as (log 3). -/
abbrev Memory := List Host.Cell

/-! ## Paths (R16 to R20, R49 to R71, R158 to R165) -/

/-- A loop-stack entry (R16, R172). -/
structure LoopEntry where
  count : Word
  start : PC
  stop  : PC
deriving DecidableEq, Repr

/-- A reconvergence entry; one beyond the eighth keeps its frame-tail index (R16, R164). -/
structure Recon where
  pc   : PC
  mask : Mask
  tail : Option Nat := none
deriving DecidableEq, Repr

/-- A region snapshot (R158). -/
structure Snapshot where
  fmt   : DWord := 0x360
  loops : List LoopEntry := []
deriving DecidableEq, Repr

/-- What a handler path saves of the faulting path (R270). -/
structure Saved where
  fmt   : DWord
  loops : List LoopEntry
  rgpc  : PC
  rgc   : Bool
  snap  : Snapshot
deriving DecidableEq, Repr

/-- What exists on a path at trap level only: its ring slot, tfr, tstk and the saved state (R262, R270, R392, R394). -/
structure Handler where
  slot  : Nat
  tfr   : DWord
  tstk  : DWord
  saved : Saved
deriving DecidableEq, Repr

/-- A register: v by number, g by number, and fmt, which is written with a latency as a register is (R105). -/
inductive Reg where
  | v (n : Nat)
  | g (n : Nat)
  | fmt
  /-- A special register by its code (R264). -/
  | sys (code : Nat)
deriving DecidableEq, Repr

/-- The place of a register write in its group's issue order (R21): paths of one selection issue together, so that writes issued
at one number of cycles since then are of one cycle. -/
structure Stamp where
  seq  : Nat := 0
  /-- The selection of the core in which the path was selected, 0 for none. -/
  pick : Nat := 0
  /-- Cycles of issue since that selection (R13; log 100). -/
  off  : Nat := 0
  /-- The path index. -/
  idx  : Nat := 0
deriving DecidableEq, Repr

/-- A write inside a clause: the values per lane (lane 0 for a register that has none), the position in the clause from
which it is visible, and its place in the group's issue order (R21, R68). -/
structure PendWrite where
  reg   : Reg
  vals  : List (Nat × DWord)
  visAt : Nat
  seq   : Stamp
deriving DecidableEq, Repr

/-- The clause a path is in: its address, header word, instruction words and the index of the next one (R49 to R52). -/
structure Clause where
  addr   : PC := 0
  header : DWord := 0
  words  : List DWord := []
  idx    : Nat := 0
deriving DecidableEq, Repr

/-- The in-flight counters, `am` for the counter named at (R40). -/
inductive Ctr where
  | ld | st | am | cp | tt | sv
deriving DecidableEq, Repr

/-- A fault before its record is written (R389, R396). -/
structure FaultInfo where
  cause    : Byte
  faddr    : DWord
  pc       : PC
  lease    : Word := 0
  ucause   : Byte := 0
  deferred : Bool := false
  engine   : Bool := false
  /-- An engine command that stalls for service (R239, R396). -/
  stalls   : Bool := false
  /-- The chunk, where the fault is a helper's (R187). -/
  chunk    : Option Nat := none
  /-- The thread a record of an engine command names (R239). -/
  thread   : Nat := 0
  /-- The fault address is the VA of an access, not of a local-store byte or of code to run next (R395, R400). -/
  global   : Bool := false
  /-- The lanes that it concerns had different causes (R393). -/
  mixed    : Bool := false
  /-- The path it arose on, where a split has since moved its lanes to another entry (R396, R419). -/
  origin   : Option Nat := none
  /-- It is no fault yet: the check waits for this line of a borrowed entry, with a page-table entry (R330, R353). -/
  waits    : Option (Nat × Nat) := none
  /-- The model's name for the moment a deferred fault arose: deferred faults are raised in this order (R397). -/
  arose    : Nat := 0
  /-- The commands an engine fault concerns: their tags, their tiles and whether they count on tt or cp (R239). -/
  tags     : List Nat := []
  tiles    : List Nat := []
  onTt     : Bool := false
  onCp     : Bool := false
  /-- The command, by its name: faults of one group are raised in enqueue order (R239). -/
  cmd      : Nat := 0
deriving DecidableEq, Repr

/-- What a log entry of Fomar is about (R432). -/
inductive LogKind where
  /-- An access at a line of memory. -/
  | mem
  /-- An access at a scratchpad line of an allocation. -/
  | scratch (alloc : Nat)
  /-- A read of a borrowed line of a Booth entry. -/
  | borrowed (entry : Nat)
  /-- A `recruit` result. -/
  | recruit
  /-- A completion of a tile task or a copy. -/
  | command
  /-- A completion of a service call: its value is STATUS and ARG0 to ARG5. -/
  | call
deriving DecidableEq, Repr

/-- Why a path stands at an instruction or boundary without issuing it (R70, R191, R379, R391). -/
inductive Stall where
  /-- Interlocked registers (R70). -/
  | interlock (regs : List Reg)
  /-- A counter above the value the instruction waits for (R41, R210). -/
  | counter (c : Ctr) (limit : Nat)
  /-- The limit of a completion tag (R226). -/
  | tag (t : Nat)
  /-- Something read in borrowed memory, whose line is on its way: a record, a header, a page-table entry (R215, R278, R330, R359). -/
  | line (entry line : Nat)
  /-- Lines that the instruction reads at issue and whose turn under replay has not come (R433). -/
  | turn (lines : List (LogKind × Nat))
  /-- `cwin`: the ld, st and at counters of the group (R217). -/
  | idle
  /-- `ctxkill`: launches of a context that have not drained (R276). -/
  | context (ctx : Nat)
  /-- A full launch queue (R245). -/
  | queue (n : Nat)
  /-- Waiting for operations and commands: a release, `tlbi`, `cwin`, `xpat`, `vdtab` (R199, R271; log 9). -/
  | drain (ids : List Nat)
  /-- Parked in `bar.wait` (R207). -/
  | barrier
  /-- Parked in `rclaim` (R212). -/
  | claim
  /-- A fault split that waits for path entries, and for a ring slot where the flag says so (R391). -/
  | split (entries : Nat) (slot : Bool)
  /-- `hjoin` waiting for chunks or for the recruiter frame (R184). -/
  | join
  /-- `exit` of a helper waiting for its counters (R182). -/
  | chunk
  /-- `wfi` (R275). -/
  | wfi
  /-- A referred fault that waits for a ring slot (R419). -/
  | refer (f : FaultInfo)
deriving DecidableEq, Repr

/-- Where a path stands between and inside its clauses (R52, R159, R375 to R380). -/
inductive Phase where
  /-- At a clause boundary, before the steps of R159. -/
  | boundary
  /-- After R159, at the header's check (R52 step 1). -/
  | header
  /-- Past step 1, a WAIT condition not met (R52 step 2). -/
  | waiting
  /-- Every WAIT condition met: ready to be selected (R375). -/
  | armed
  /-- Selected for its next clause (R376). -/
  | selected
  /-- Its clause fetch missed (R380). -/
  | missed
  /-- Issuing the words of its clause. -/
  | issuing
  /-- Stalled at the next word (R379). -/
  | stalled (why : Stall)
  /-- A stall has cleared; waiting to be selected again (R375). -/
  | resumable
  /-- A restartable path that waits for service under a handle (R177, R418). -/
  | held (handle : Nat) (info : FaultInfo)
deriving DecidableEq, Repr

/-- An open codec window as the record of `cwin` gives it (R217). -/
structure Window where
  base  : Nat
  size  : Nat
  cbase : Nat
  cnt   : Nat
  k     : Nat
deriving DecidableEq, Repr

/-- The part of a context that a group takes over at its clause boundaries (R47). -/
structure View where
  /-- The image it was taken from, by the number of images the context has had (R386). -/
  loads   : Nat := 0
  cmode   : DWord := 0
  root    : DWord := 0
  ranges  : List (BitVec 128) := []
  windows : Assoc Window := []
  /-- BPADDR and BPCTL (R427). -/
  bps     : List (DWord × DWord) := []
deriving DecidableEq, Repr

/-- Poisoned lanes of a load that wait to be raised (R194). -/
structure Poison where
  /-- The load, by its name. -/
  id    : Nat := 0
  /-- When it arose, as a deferred fault's. -/
  arose : Nat := 0
  reg   : Nat
  width : Nat
  /-- Each lane with the cause and the fault address. -/
  lanes : List (Nat × Byte × DWord)
  pc    : PC
  /-- The addresses are VAs. -/
  global : Bool := true
deriving DecidableEq, Repr

/-- The state of one path (Table 1 of the machine-state chapter; R158, R270, R375 to R377). Stacks have their top first. -/
structure Path where
  pc       : PC := 0
  exec     : Mask := 0
  fmt      : DWord := 0x360
  /-- LVL: set at trap level. -/
  lvl      : Bool := false
  hold     : Bool := false
  loops    : List LoopEntry := []
  recon    : List Recon := []
  rgpc     : PC := 0
  rgc      : Bool := false
  snap     : Snapshot := {}
  handler  : Option Handler := none
  clause   : Clause := {}
  phase    : Phase := .boundary
  /-- The position of the next instruction in its clause (R68). -/
  dist     : Nat := 0
  pend     : List PendWrite := []
  /-- The writes to group registers of the path it split from, as long as that path's clause has not made them visible to the
  group (R71). -/
  seen     : List PendWrite := []
  /-- The place in its group's issue order at which its clause began (R71). -/
  began    : Nat := 0
  /-- The paths from which its threads have split off: the index, where that path's clause had begun, and the place of the split in
  the issue order (R71). -/
  sprung   : List (Nat × Nat × Nat) := []
  /-- Core cycles for which it has issued in its clause: a pass for each eighth with a thread in exec, and the stall slots (R13,
  R67; log 100). -/
  spent    : Nat := 0
  /-- The number of the core's selection in which it was last selected, and the cycles it had issued for then (R21, R376). -/
  pick     : Nat := 0
  pickAt   : Nat := 0
  view     : View := {}
  /-- The core cycle at which the path last became ready (R375). -/
  readyAt  : Nat := 0
  aged     : Bool := false
  /-- The core cycle at which its last stall inside a clause cleared: it has been ready no longer than since then (R375, R377). -/
  since    : Nat := 0
  /-- The barrier object the path is parked on, and the phase it waits to leave (R207). -/
  parked   : Option (Nat × Word) := none
  /-- A change to that object has woken the path: whether BRK was seen as 1 (R207). -/
  woken    : Option Bool := none
  /-- SWAIT already counts the split that this path waits for (R391). -/
  counted  : Bool := false
  /-- DCMD HALT has marked the path (R429). -/
  halt     : Bool := false
  /-- A `brk` of claimed breakpoints: HOLD at the boundary after it (R269). -/
  brk      : Bool := false
  /-- DCMD STEP lets it issue one clause (R429). -/
  step     : Bool := false
  /-- It issues, or has split from a path that issues, the clause of a STEP: HOLD at its next boundary (R429). -/
  stepping : Bool := false
  poison   : List Poison := []
  /-- Its next words are present after a fetch miss (R380). -/
  present  : Bool := false
  /-- The watchdog is to be raised at its next halt point (R388). -/
  bite     : Bool := false
  /-- A breakpoint hit at this header has been taken (R428). -/
  passed   : Bool := false
  /-- The line of a borrowed entry that its fetch, or the check or read of an instruction, waits for; and those that have come for it,
  which its access takes as they came: none for one that came poisoned (R359, R360, R367). -/
  awaiting : Option (Nat × Nat) := none
  landed   : List ((Nat × Nat) × Option Line) := []
deriving DecidableEq, Repr

/-! ## Groups, helpers, cores (R12 to R43, R164 to R188, R206 to R214) -/

/-- The six completion rings: each entry is an operation and whether it has completed (R40, R327). -/
structure Rings where
  ld : List (Nat × Bool) := []
  st : List (Nat × Bool) := []
  am : List (Nat × Bool) := []
  cp : List (Nat × Bool) := []
  tt : List (Nat × Bool) := []
  sv : List (Nat × Bool) := []
deriving DecidableEq, Repr

/-- What a kernel header declares (R277). -/
structure Kernel where
  w32    : Bool := false
  hlp    : Bool := false
  regs   : Nat := 8
  gregs  : Nat := 8
  tiles  : Nat := 0
  bars   : Nat := 0
  scr    : Nat := 0
  entry  : List Nat := [256]
deriving DecidableEq, Repr

/-- A chunk of a recruitment (R182 to R187). -/
inductive Chunk where
  | unassigned
  | reserved (helper : Nat)
  | running (helper : Nat)
  | done (part : Option DWord)
  | faulted (info : FaultInfo)
deriving DecidableEq, Repr

/-- An active recruitment of a thread (R179 to R187). -/
structure Recruitment where
  /-- Helpers granted so far: their numbers are 0 to `granted - 1`. -/
  granted : Nat
  entry   : PC
  fmt     : DWord
  shared  : List Word
  gregs   : Assoc DWord
  chunks  : List Chunk
  /-- A non-restartable fault in a chunk: no further chunk is assigned (R187). -/
  failed  : Bool := false
deriving DecidableEq, Repr

/-- A held store into a register of another path or group (R34). -/
structure HeldStore where
  thread : Nat
  reg    : Nat
  lo     : Nat
  bytes  : List Byte
deriving DecidableEq, Repr

/-- Resident, or Draining (R291). Pre-empted groups stand in the launch engine's list. -/
inductive Life where
  | resident
  | draining
deriving DecidableEq, Repr

/-- A group in a slot of a core (R12 to R41, R277 to R296). -/
structure Group where
  /-- The model's own name for the group, unlike that of every other group and helper. -/
  uid      : Nat := 0
  ctx      : Nat
  /-- The model's own name for its launch. -/
  launch   : Nat
  kernel   : Kernel := {}
  stage    : Nat := 0
  lvls     : List Nat := []
  /-- Its scratchpad allocation on the core. -/
  alloc    : Nat := 0
  /-- Its number among the groups of its launch, in the order of R286. -/
  unit     : Nat := 0
  /-- The register window W (R22). -/
  w        : Nat := 8
  life     : Life := .resident
  live     : Mask := 0
  paths    : Assoc Path := []
  /-- v registers at key 128·register + thread; 0 where absent. In a W32 frame threads 32 to 127 are the aperture words (R31). -/
  v        : Assoc Word := []
  g        : Assoc DWord := []
  /-- Accumulator tiles: per tile its 32-bit elements, 0 where absent (R38, R39). -/
  acc      : Assoc (Assoc Word) := []
  accBad   : List Nat := []
  rings    : Rings := {}
  wth      : Nat := 0
  /-- Tags marked faulted (R239). -/
  tagBad   : List Nat := []
  uip      : BitVec 16 := 0
  watch    : Nat := 0
  deferred : List FaultInfo := []
  /-- Poisoned lanes of completed loads, not yet raised (R194). -/
  poison   : List Poison := []
  recruits : Assoc Recruitment := []
  heldStores : List HeldStore := []
  /-- Commands enqueued so far (R432). -/
  enqueued : Nat := 0
  /-- The launch is ending: paths go at their boundaries (R296). -/
  killed   : Bool := false
  /-- Issue order of register writes, and of the last write to each g register committed (R21). -/
  seq      : Nat := 1
  stamps   : Assoc Stamp := []
  /-- A pre-emption of the group is under way (R382). -/
  stopping : Bool := false
  /-- The stage key (R290). -/
  key      : Nat := 1
deriving DecidableEq, Repr

/-- A helper, or a recruiter in helper mode (R42, R180 to R187). -/
structure Helper where
  uid     : Nat := 0
  /-- The recruiter's slot and thread. -/
  slot    : Nat
  thread  : Nat
  /-- The slot and thread it borrows. -/
  lentSlot : Nat
  lentThread : Nat
  /-- It is the recruiter itself, in its group slot's recruiter frame (R184). -/
  self    : Bool := false
  /-- Its number within the grant (R449). -/
  num     : Nat := 0
  chunk   : Nat := 0
  v       : Assoc Word := []
  path    : Path := {}
  rings   : Rings := {}
  part : Option DWord := none
  /-- To be released at its next clause boundary (R186). -/
  leaving : Bool := false
  seq     : Nat := 1
deriving DecidableEq, Repr

/-- A scratchpad allocation (R206, R283). -/
structure Alloc where
  launch : Nat
  /-- First 4 KiB unit and number of units in the scratchpad part (R284). -/
  first  : Nat := 0
  units  : Nat := 0
  size   : Nat := 0
  bars   : Nat := 0
  /-- The index of its core unit within the launch (R283, R292). -/
  unit   : Nat := 0
  /-- The queue offsets and capacities of the stages, for the stage key (R289, R290). -/
  queues : List (Nat × Nat) := []
  bytes  : Memory := []
  /-- Per barrier object, the slots that have arrived in its current phase (R214). -/
  arrived : Assoc (BitVec 16) := []
deriving DecidableEq, Repr

/-- A waiting claim (R212). -/
structure Claim where
  slot : Nat
  path : Nat
  n    : Nat
deriving DecidableEq, Repr

/-- Units given back whose pending writes have not completed (R213). -/
structure Give where
  slot : Nat
  /-- The first of the given registers. -/
  reg  : Nat
  n    : Nat
  /-- The interlocked writes to them that were in flight. -/
  ops  : List Nat
deriving DecidableEq, Repr

/-- What a table held from one replacement to the next: the owner, the place of the replacement in the issue order, and the entries
(R256). -/
structure TableVersion where
  launch  : Nat
  seq     : Stamp := {}
  entries : List (BitVec 16)
deriving DecidableEq, Repr

/-- A Carousel pattern table or a stream-decode table (R255 to R257, R259). -/
structure Table where
  launch  : Nat
  entries : List (BitVec 16)
  /-- The place of its replacement in the issue order (R256). -/
  seq     : Stamp := {}
  /-- What it held before, newest first, as far as a path that issues in the cycle of a replacement sees it (R256). -/
  past    : List TableVersion := []
deriving DecidableEq, Repr

/-- A line of an L1, by its physical line number, or a decoded block by context and block number (R322). -/
inductive LineTag where
  | phys (line : Nat)
  /-- A borrowed line: the Booth entry and the line within the extent. -/
  | lent (entry line : Nat)
  | block (ctx : Nat) (block : Nat)
deriving DecidableEq, Repr

/-- A line held in an L1 (R309, R322). -/
structure L1Line where
  tag   : LineTag
  data  : Line
  /-- How it was filled: tracked by a coherence object up to a scope, or untracked (R310, R312). -/
  scope : Nat := 0
  untracked : Bool := false
deriving DecidableEq, Repr

/-- A cached translation (R271, R330). -/
structure TlbEntry where
  ctx   : Nat
  root  : DWord
  /-- VA page number. -/
  page  : Nat
  /-- The leaf and its level. -/
  leaf  : DWord
  level : Nat
deriving DecidableEq, Repr

/-! ## Accesses (R30, R64, R191, R200, R309) -/

/-- Atomic and reduction operations (R200). -/
inductive AtomOp where
  | add | minN | maxN | minS | maxS | and | or | xor | exch | cas | addF | minF | maxF
deriving DecidableEq, Repr

/-- Where a lane's access goes (R30, R64, R309, R318, R331). -/
inductive Target where
  /-- A physical address of HBM4E or the pool. -/
  | phys (pa : Nat)
  /-- A byte of a borrowed extent: the Booth entry and the offset (R353). -/
  | lent (entry off : Nat)
  /-- A decoded block: the window, the VA of the block, and the pieces of its encoding as physical address and length. -/
  | block (win : Window) (va : Nat) (pieces : List (Nat × Nat))
  /-- Scratchpad of an allocation of the core. -/
  | scratch (core alloc off : Nat)
deriving DecidableEq, Repr

/-- How L1 copies of an access's line are kept (R309 to R312). -/
inductive CacheMode where
  | undeclared | untracked | uncached
  /-- Of a coherence object with a sharing scope. -/
  | object (scope : Nat)
deriving DecidableEq, Repr

/-- The access of one lane. -/
structure Access where
  lane : Nat
  va   : Nat
  len  : Nat
  tgt  : Target
  mode : CacheMode := .undeclared
  /-- Store data, atomic data x; the scratchpad offset of an extent's part. -/
  x    : Nat := 0
  /-- The second datum y of `cas`. -/
  y    : Nat := 0
deriving DecidableEq, Repr

/-- An integer reduction held for combining (R328). -/
structure Combined where
  ctx   : Nat
  /-- The access that it makes at the home, with the combined datum. -/
  acc   : Access
  op    : AtomOp
  size  : Nat
  /-- The operations it carries, one entry for each of their contributions. -/
  ops   : List Nat
  /-- The core cycle of its first contribution. -/
  born  : Nat
deriving DecidableEq, Repr

/-- A monitor (R434). -/
structure Monitor where
  msel  : DWord := 0
  count : DWord := 0
  min   : Word := 0xFFFFFFFF
  max   : Word := 0
  bins  : List Word := []
deriving DecidableEq, Repr

/-- A SIMT core (R14, R29, R36, R42, R184, R211 to R214, R255, R322, R328, R330, R434). -/
structure Core where
  lscfg    : DWord := 0x4001
  free     : Nat := 112
  claims   : List Claim := []
  gives    : List Give := []
  slots    : Assoc Group := []
  allocs   : Assoc Alloc := []
  helpers  : Assoc Helper := []
  patterns : Assoc Table := []
  decoders : Assoc Table := []
  l1       : List L1Line := []
  tlb      : List TlbEntry := []
  combine  : List Combined := []
  monitors : Assoc Monitor := []
  /-- RUN and ROW of the tile engine (R236). -/
  run      : Nat := 0
  row      : Nat := 0
  /-- The rows that the tile engine does at a time (log 13). -/
  pace     : Nat := 512
  /-- A pre-emption of the core is pending (R382). -/
  preempt  : Bool := false
  /-- The launch that holds the core's cluster with a fused L1 (R287). -/
  fused    : Option Nat := none
  /-- Schedule slips counted in the current 1,024 cycles (R380, R434). -/
  slips    : Nat := 0
  /-- Selections made so far (R21, R376). -/
  picks    : Nat := 0
deriving DecidableEq, Repr

/-- A steward core (R45, R262, R273 to R276, R414). -/
structure Steward where
  path   : Path := {}
  v      : Assoc Word := []
  g      : Assoc DWord := []
  rings  : Rings := {}
  wth    : Nat := 0
  /-- At supervisor level. -/
  sup    : Bool := true
  /-- In the start wait (R414). -/
  start  : Bool := false
  svec   : DWord := 0
  sepc   : DWord := 0
  scause : Word := 0
  stval  : DWord := 0
  /-- UCTX, PIE, NEST, PL, IE (Table 3 of the system chapter). -/
  sstat  : DWord := 2
  sie    : DWord := 0
  ipi    : Bool := false
  /-- TIMER (R273). -/
  timer  : Bool := false
  stcmp  : DWord := 0xFFFFFFFFFFFFFFFF
  lsres  : DWord := 0
  deferred : List FaultInfo := []
  seq    : Nat := 1
  stamps : Assoc Stamp := []
deriving DecidableEq, Repr

/-! ## Contexts (R46, R216, R217, R276, R311, R394, R420) -/

/-- A completed service call kept for matching (R420). -/
structure CachedCall where
  svc    : Word
  token  : DWord
  status : Word
  args   : List DWord
deriving DecidableEq, Repr

/-- A context (Tables 4 and 5 of the machine-state chapter). -/
structure Context where
  installed : Bool := false
  /-- Ended by a trap-area fault (R400). -/
  ended    : Bool := false
  /-- Held under OP 3 (R381). -/
  held     : Bool := false
  /-- Images that `ctxload` has installed (R386). -/
  loads    : Nat := 0
  root     : DWord := 0
  handler  : DWord := 0
  tarea    : DWord := 0
  cmode    : DWord := 0
  watchdog : DWord := 0
  ranges   : List (BitVec 128) := []
  windows  : Assoc Window := []
  busy     : DWord := 0
  seq      : Word := 0
  swait    : Word := 0
  calls    : List CachedCall := []
deriving DecidableEq, Repr

/-- A coherence object (R216). -/
structure CohObj where
  ctx    : Nat
  base   : Nat
  rowb   : Nat
  rows   : Nat
  stride : Nat
  scope  : Nat
deriving DecidableEq, Repr

/-! ## Operations in flight and engine commands (R191 to R205, R221 to R244, R326) -/

/-- What an operation does when it performs. -/
inductive OpKind where
  | load
  | store
  | atom (op : AtomOp) (ret : Bool)
  | red (op : AtomOp)
  /-- `ldx` and `stx`, each access one part of the extent (R198). -/
  | ldx (alloc : Nat)
  | stx (alloc : Nat)
  /-- The update of one element by a kind-6 copy, with OPX and fmt of its record (R370). -/
  | pool (opx : Nat) (fmt : DWord)
deriving DecidableEq, Repr

/-- An operation in flight (R191, R192, R326). -/
structure Op where
  kind    : OpKind
  agent   : Agent
  /-- The group, helper or steward that issued it, by its name. -/
  uid     : Nat
  /-- The group, or steward, that its errors are held for (R194). -/
  owner   : Nat
  /-- What its accesses are logged as: a group, and a path or helper of it or its engine commands (R432). -/
  who     : Nat × Nat := (0, 0)
  core    : Nat
  /-- The threads in exec at its issue. -/
  mask    : Mask
  ctx     : Nat
  view    : View
  size    : Nat
  order   : Order
  scope   : Scope
  /-- Uniform: one access, to g registers. -/
  uni     : Bool := false
  dst     : Option Reg := none
  lanes   : List Access
  /-- The accesses that have not performed. -/
  todo    : List Access
  /-- The values that lanes have received. -/
  vals    : List (Nat × Nat) := []
  /-- Lanes with an error found after issue: cause and fault address. -/
  bad     : List (Nat × Byte × DWord) := []
  /-- Completions of writes to lenders, and combined contributions, still to come. -/
  awaits  : Nat := 0
  /-- The operations of an entry of a combining buffer on its way to the home, or the operation or command that it is made for:
  they wait for it. -/
  carries : List Nat := []
  /-- The core whose L1 copy of the line its write discards: that of the engine command it is made for (R244). -/
  discards : Option Nat := none
  /-- The fault address of its errors, where they are held as deferred errors in their own right and not handed to what it is made
  for: the counter block's (R343). -/
  report  : Option DWord := none
  pc      : PC := 0
  /-- NFP of the issuing path's fmt (R103). -/
  nfp     : Bool := false
  /-- Its place in the issue order of register writes (R21). -/
  seq     : Stamp := {}
  /-- The core cycle of its issue (R434). -/
  born    : Nat := 0
deriving DecidableEq, Repr

/-- A tile task, a copy request or a service call (R221 to R244, R266). -/
inductive CmdKind where
  | tile | copy | svc
deriving DecidableEq, Repr

/-- What the time of a tile task counts as (R238). -/
inductive Spell where
  | none | copyIn | operands | compute | copyOut
deriving DecidableEq, Repr

/-- An engine command (R221 to R244, R412, R417). -/
structure Cmd where
  kind   : CmdKind
  /-- The copied record. -/
  rec'   : List Byte
  fmt    : DWord
  /-- The enqueuing group, by its name; 0 for a command of a submission slot. -/
  uid    : Nat
  core   : Nat
  gid    : Nat
  ctx    : Nat
  launch : Nat
  alloc  : Nat := 0
  thread : Nat := 0
  /-- The enqueuing path of a call. -/
  path   : Nat := 0
  pc     : PC := 0
  view   : View := {}
  /-- Issued at trap level. -/
  lvl    : Bool := false
  /-- Operations of the group issued before it (R222). -/
  after  : List Nat := []
  /-- Commands it depends on (R227). -/
  deps   : List Nat := []
  /-- A dependence was on a faulted producer (R239). -/
  badDep : Bool := false
  started : Bool := false
  /-- Progress: the run and row of a tile task, or the bytes of a copy. -/
  run    : Nat := 0
  row    : Nat := 0
  bytes  : Nat := 0
  /-- Bytes written that the barrier has not counted yet (R243). -/
  owed   : Nat := 0
  /-- Its writes on their way to a home, whose completions are still to come. -/
  awaits : Nat := 0
  /-- Lines of borrowed entries that it has asked for to read, by entry and line, and those that have come for it; one that came
  poisoned has no data (R357, R359, R367). -/
  asked  : List (Nat × Nat) := []
  got    : List ((Nat × Nat) × Option Line) := []
  /-- Its number in the enqueue order of its group (R432). -/
  num    : Nat := 0
  /-- A tile task has made its acquire and its zeroing (R236); it keeps `run` and `row` where it stops (R237). -/
  entered : Bool := false
  /-- What the time of a tile task counts as, since which core cycle, and the counts of its stamp record: copy-in, operand wait,
  compute, copy-out (R238). -/
  spell  : Spell := .none
  mark   : Nat := 0
  counts : List Nat := [0, 0, 0, 0]
  /-- Stalled for service under a handle (R239). -/
  held   : Option (Nat × FaultInfo) := none
  /-- Referred: it stops with this fault at its next event (R239, R419). -/
  refer  : Option FaultInfo := none
  slot   : Option Nat := none
  /-- The instance of a collective (R412). -/
  inst   : Nat := 0
  result : Option (List Byte) := none
  /-- The handle of a call's event, and its arguments (R266, R418). -/
  handle : Nat := 0
  born   : Nat := 0
  begun  : Nat := 0
deriving DecidableEq, Repr

/-! ## The Booth and coherence with other packages (R347 to R372) -/

/-- A request at the home of a lent line (R361). -/
inductive HomeReq where
  | rds (pkg : Nat)
  | rdown (pkg : Nat) (data : Bool)
  /-- A write of the home's own operation, or command, by its name. -/
  | local (op : Nat)
  | wr (pkg : Nat) (bytes : Line) (mask : DWord)
deriving DecidableEq, Repr

/-- A lent entry (Table 1 of the lending chapter), with what the Booth keeps beside it. -/
structure Lent where
  lid   : Word
  bwc   : Nat := 0
  rgr   : Nat := 1
  /-- 1 granted, 2 recalling. -/
  st    : Nat := 1
  sz    : Nat
  nb    : Bool
  dur   : Nat
  bpk0  : Nat
  bpk1  : Nat := 0
  poff  : Nat
  bix0  : Nat
  bix1  : Nat := 0
  exp   : Nat := 0
  /-- Borrowers that remain. -/
  alive : List Nat
  /-- Borrowers whose GACK is awaited, with the time the GRANT was sent. -/
  acks  : List (Nat × Nat)
  /-- The time of the recall, and the borrowers whose RECALL-DONE is awaited. -/
  recallAt : Nat := 0
  /-- Bytes moved in the current microsecond, and the requests that wait for the next (R368). -/
  spentAt : Nat := 0
  spent   : Nat := 0
  waiting : List (Nat × HomeReq) := []
deriving DecidableEq, Repr

/-- A borrowed entry (Table 2 of the lending chapter), with what the Booth keeps beside it. -/
structure Borrowed where
  lid      : Word := 0
  lend     : Nat := 0
  sz       : Nat := 0
  st       : Nat := 0
  load     : Nat := 0
  recr     : Bool := false
  dur      : Nat := 0
  deadline : Nat := 0
  rbase    : Nat := 0
  /-- T0 of a renewal round, and the time of its last sending; none once it is answered (R356). -/
  renewal  : Option (Nat × Option Nat) := none
  /-- Its lines are being dropped: the ST to take then, and the type of the message that is sent, 0 for none (R352, R357,
  R363, R366). -/
  leaving  : Option (Nat × Nat) := none
deriving DecidableEq, Repr

/-- The states of a borrowed line (Table 3 of the lending chapter); an absent line is I. -/
inductive LineSt where
  | s | e | mm | is | im | sm | ei
deriving DecidableEq, Repr

/-- A line of the remote line cache (R324, R359, R360). -/
structure RlcLine where
  entry : Nat
  line  : Nat
  st    : LineSt
  data  : Line := 0
  /-- Its data came poisoned (R357). -/
  bad   : Bool := false
  /-- The operations whose Wr has no Cmp yet, oldest first, each with the time of its sending. -/
  wrs   : List (Nat × Nat) := []
  /-- A snoop that waits: true for BISnpInv. -/
  snoop : Option Bool := none
  /-- It is to be evicted when its Wrs have Cmp, or once its completion has arrived and been used. -/
  evict : Bool := false
  /-- BIConflict has been sent for its snoop, and BIConflictAck is awaited (R360). -/
  conflict : Bool := false
  /-- The time its request was sent, while it is in IS, IM, SM or EI (R367). -/
  since : Nat := 0
deriving DecidableEq, Repr

/-- The directory entry of a lent line (Table 4 of the lending chapter); an absent line is I. -/
structure DirLine where
  /-- The borrowers that share it, or its one owner. -/
  sharers : List Nat := []
  owner   : Option Nat := none
  /-- W: the borrowers whose answer is awaited, with the time of the snoop. -/
  wait    : List (Nat × Nat) := []
  /-- The requests that wait, the one being served first; W as long as there is one. -/
  queue   : List HomeReq := []
deriving DecidableEq, Repr

/-- A message this package sends (R358, R372, R408 to R412, R418). -/
inductive MsgBody where
  | lreq (bix sz : Nat)
  | grant (lid : Word) (sz dur pa bix : Nat)
  | gack (lid : Word) | reject (lid : Word)
  | renew (lid : Word) | renewed (lid : Word) | recalling (lid : Word) | gone (lid : Word)
  | recall (lid : Word) (rgr : Nat) | recallDone (lid : Word) | release (lid : Word)
  | rds (line : Nat) | rdown (line : Nat) (data : Bool) | wr (line : Nat) (bytes : Line) (mask : DWord) | evct (line : Nat)
  /-- A read answered with poisoned data has none (R357). -/
  | cmpS (line : Nat) (bytes : Option Line) (load : Nat)
  | cmpE (line : Nat) (bytes : Option Line) (load : Nat)
  /-- Whether the write has been discarded with an error (R357, R361). -/
  | cmp (line : Nat) (load : Nat) (err : Bool)
  | snpInv (line : Nat) (load : Nat) | snpShr (line : Nat) (load : Nat)
  | rspI (line : Nat) | rspS (line : Nat) | conflict (line : Nat) | conflictAck (line : Nat)
  | hello (prio : Option Nat) (pkg hops : Nat) | claim (prio pkg : Nat) | query
  | qreply (leases : List LentNews) (offered : List Nat)
  | offer (classes : List Nat) (bandwidth : Nat) | want (size : Nat) | wanted (lender : Option Nat)
  /-- The exact sum, or partial minimum or maximum, of a subtree: each element in units of 2^−160, with the flags 1 a NaN,
  2 a +∞, 4 a −∞ and 8 a finite value among its inputs. -/
  | sum (coll inst len opx : Nat) (sums : List (Int × Nat))
  | answer (coll inst : Nat) (answer : CollAnswer)
  | fmApi (command : FmCommand)
  /-- To the host on vsock port 1002 (R422). -/
  | toHost (bytes : List Byte)
  | spdm (block : Nat) (digest : List Byte)
  /-- Configuration Request Retry Status; else the device ids of the port's functions; and the answer to a BAR read (R421,
  R440). -/
  | retry | functions (ids : List Nat)
  | bar (function offset : Nat) (value : Byte)
deriving DecidableEq, Repr

/-- Where a message goes. -/
inductive Dest where
  | pkg (n : Nat)
  /-- The neighbour at a port. -/
  | port (n : Nat)
  /-- The host at a port, or at all of them. -/
  | host (port : Option Nat)
deriving DecidableEq, Repr

/-- A message and where it goes. -/
structure Msg where
  dst  : Dest
  body : MsgBody
deriving DecidableEq, Repr

/-- The Booth, the remote line cache and the home directory (R347 to R372). -/
structure Booth where
  lent     : Assoc Lent := []
  borrowed : Assoc Borrowed := []
  /-- The serial of the last lease id. -/
  serial   : Nat := 0
  rlc      : List RlcLine := []
  dir      : Assoc DirLine := []
  /-- Messages sent, oldest first. -/
  sent     : List Msg := []
  /-- The packages that have failed as borrowers, whose messages are discarded (R364; log 93). -/
  failed   : List Nat := []
deriving DecidableEq, Repr

/-! ## Launch engine (R245, R246, R284 to R295, R373, R381 to R385, R401, R416 to R420) -/

/-- Where a record of a queue stands: it is Queued only until its PRED words are seen to be zero or not (R291). -/
inductive RecState where
  | held | placing
deriving DecidableEq, Repr

/-- A launch record in a queue, with the copy of its kernel header (R245, R278). -/
structure LaunchRec where
  id     : Nat
  record : List Byte
  header : List Byte
  st     : RecState := .held
  /-- Groups already placed, in the order of R286. -/
  placed : Nat := 0
  /-- Operations of the issuing group before it, which it follows (R222). -/
  after  : List Nat := []
deriving DecidableEq, Repr

/-- The end of a launch under way (R401). -/
structure Ending where
  ecause : Byte
  en     : Byte := 0
  /-- Submission slots whose END command waits for it (R417). -/
  slots  : List Nat := []
  /-- An END command asked for it, so that no class-2 event is queued (R418). -/
  asked  : Bool := false
deriving DecidableEq, Repr

/-- How the groups of a launch are placed together (R280, R284 to R287). -/
structure Shape where
  /-- LSDIV. -/
  div     : Nat := 0x4001
  /-- Groups of a core unit, and of a gang. -/
  unit    : Nat := 1
  gang    : Nat := 1
  /-- The gang spreads over a cluster, whose L1s it fuses. -/
  cluster : Bool := false
  fused   : Bool := false
  /-- Groups of one unit bound to a die; 0 where no level is. -/
  die     : Nat := 0
deriving DecidableEq, Repr

/-- A launch whose groups have not all retired (R246, R401, R402). -/
structure Running where
  ctx    : Nat
  /-- LID (R245). -/
  lid    : DWord := 0
  /-- VA of DONE, 0 for none (R246). -/
  done   : Nat := 0
  prio   : Nat := 0
  shape  : Shape := {}
  /-- The dies of its die-level units (R280). -/
  dies   : Assoc Nat := []
  /-- Groups placed or to be placed and not yet retired. -/
  left   : Nat := 0
  ending : Option Ending := none
  ederr  : Nat := 0
  edaddr : DWord := 0
deriving DecidableEq, Repr

/-- A saved group (R382, R385, R292). -/
structure SavedGroup where
  group    : Group
  /-- The order of its pre-emption among all (R373). -/
  order    : Nat
  eligible : Bool
  /-- The core and the slot it was saved from. -/
  core     : Nat := 0
  slot     : Nat := 0
  /-- Its allocation, when it was the last of its unit to leave (R292). -/
  alloc    : Option Alloc := none
  patterns : Assoc Table := []
  decoders : Assoc Table := []
  /-- A recruiter frame in use (R184). -/
  frame    : Option Helper := none
deriving DecidableEq, Repr

/-- A pre-emption request under way (R381, R382): OP 1 or 3 of a slot's, or Fomar's own, as 4 (R432). -/
structure Preemption where
  op     : Nat
  ctx    : Nat
  donew  : Nat
  /-- The groups still to be saved. -/
  gids   : List Nat
deriving DecidableEq, Repr

/-- An event for steward code (R418). -/
structure QEvent where
  cls    : Nat
  handle : Nat
  ctx    : Nat
  /-- The bytes from 0x050. -/
  body   : List Byte
deriving DecidableEq, Repr

/-- What stood when a submission slot's command was submitted. -/
structure Submitted where
  /-- fmt of the submitting steward (R417). -/
  fmt   : DWord
  /-- Before bring-up stage 5 had completed (R440). -/
  early : Bool
deriving DecidableEq, Repr

/-- The launch engine (R245, R373, R416 to R420). -/
structure Engine where
  queues     : Assoc (List LaunchRec) := []
  /-- The queue served last (R373). -/
  last       : Nat := 63
  running    : Assoc Running := []
  saved      : Assoc SavedGroup := []
  requests   : List Preemption := []
  events     : List QEvent := []
  nextHandle : Nat := 1
  /-- Handles of fetched events that are outstanding: the class, and the call's command for class 1. -/
  fetched    : Assoc Nat := []
  /-- Submission slots whose command is not yet answered: CMDW as it was read (R416). -/
  slots      : Assoc Nat := []
  /-- What stood when a slot was submitted. -/
  submits    : Assoc Submitted := []
  /-- Slot images as the engine has read them, those of the host's commands under numbers from 32 (R416, R422). -/
  images     : Assoc (List Byte) := []
  /-- LAUNCH commands that wait for room in their queue, with the copies of record and header (R417). -/
  waiting    : Assoc LaunchRec := []
  nextLaunch : Nat := 1
deriving DecidableEq, Repr

/-! ## The fabric, bring-up, Fomar, virtio (R404 to R413, R421, R431 to R434, R439, R440) -/

/-- A live candidate: its priority and when its HELLO was last heard (R408). -/
structure Candidacy where
  /-- None is below every priority. -/
  prio  : Option Nat
  heard : Nat
deriving DecidableEq, Repr

/-- What the Ringmaster's directory holds of a package (R409, R410). -/
structure Listing where
  leases    : List LentNews := []
  offered   : List Nat := []
  bandwidth : Nat := 0
deriving DecidableEq, Repr

/-- An instance of a collective under way at this package (R412, R413). -/
structure Instance where
  coll  : Nat
  inst  : Nat
  /-- LEN and OPX of its first contribution. -/
  len   : Nat
  opx   : Nat
  /-- The local commands that have contributed. -/
  cmds  : List Nat := []
  /-- The packages whose sums have arrived. -/
  from' : List Nat := []
  /-- What they come to by element, as a message carries it. -/
  sums  : List (Int × Nat) := []
  /-- Its sum has been sent towards the root. -/
  sent  : Bool := false
  /-- When it began to wait. -/
  since : Nat := 0
  /-- It has been stopped, with this cause. -/
  broken : Option Byte := none
deriving DecidableEq, Repr

/-- Links, routes, the election and collectives (R405 to R413). -/
structure Fabric where
  /-- Ports whose link is up, and those in Axyen mode. -/
  up         : BitVec 16 := 0
  axyen      : BitVec 16 := 0
  routes     : Assoc (BitVec 16) := []
  colls      : Assoc DWord := []
  /-- Kind-7 commands so far, by collective. -/
  kicks      : Assoc Nat := []
  instances  : List Instance := []
  candidates : Assoc Candidacy := []
  ringmaster : Bool := false
  /-- Since when this package's pair has been higher than every live one. -/
  highest    : Option Nat := none
  /-- When HELLO was last sent. -/
  helloAt    : Option Nat := none
  directory  : Assoc Listing := []
  /-- What this package offers (R410). -/
  offer      : Listing := {}
  /-- Messages and writes dropped (R406, R425). -/
  dropped    : Nat := 0
deriving DecidableEq, Repr

/-- Bring-up (R439, R440): the stage that runs, 8 when all have completed. -/
structure Bringup where
  stage    : Nat := 1
  recovery : Bool := false
  /-- In reset, as 115 °C leaves it (R437). -/
  held     : Bool := false
deriving DecidableEq, Repr

/-- A virtio function (R421): the bytes the host has written, by their offset in the common configuration; the driver's
feature words and the registers of a queue have one place for each value of the selector. -/
structure Virtio where
  regs : Assoc Byte := []
deriving DecidableEq, Repr

/-- One entry of Fomar's log: the agent by its name, path and lane, the line, and the value returned (R432). -/
structure LogEntry where
  kind  : LogKind
  uid   : Nat
  idx   : Nat
  lane  : Nat
  line  : Nat
  value : Nat
  /-- The cause and the offset of its first failing byte, where it erred. -/
  err   : Option (Byte × Nat) := none
deriving DecidableEq, Repr

/-- A checkpoint: the pages written since the last one with their bytes, the saved groups with what they wait for, and where
the log stood (R432). -/
structure Checkpoint where
  pages    : List Nat
  mem      : Memory
  groups   : Assoc SavedGroup
  ops      : Assoc Op
  cmds     : Assoc Cmd
  launches : Assoc Running
  context  : Context
  logged   : Nat
deriving DecidableEq, Repr

/-- Fomar (R431 to R433). -/
structure Fomar where
  base   : DWord := 0
  size   : DWord := 0
  /-- CTX, PER, RPL and REC of FMCTL. -/
  ctl    : DWord := 0
  full   : Bool := false
  /-- Bytes of the region in use. -/
  used   : Nat := 0
  /-- NSC at the last checkpoint, or at the start. -/
  lastAt : Nat := 0
  /-- Memory when recording began. -/
  image  : Memory := []
  log    : List LogEntry := []
  /-- Pages written since the last checkpoint. -/
  dirty  : List Nat := []
  /-- The groups that a checkpoint under way has pre-empted. -/
  cut    : Option (List Nat) := none
  /-- Oldest first. -/
  cks    : List Checkpoint := []
  /-- A replay is under way, and what it has still to perform. -/
  active : Bool := false
  replay : List LogEntry := []
deriving DecidableEq, Repr

/-! ## Clocks, debug unit and the machine -/

/-- Clocks and bring-up (R265, R354, R437, R439). -/
structure Clocks where
  nsc    : Nat := 0
  /-- cyc of compute dies 0 to 3 and of the hub die. -/
  cyc    : List Nat := [0, 0, 0, 0, 0]
  /-- The part of a cycle that each has run beyond its last, in thousandths (R438). -/
  part   : List Nat := [0, 0, 0, 0, 0]
  throttle : List Nat := [0, 0, 0, 0]
  lastHot : List Nat := [0, 0, 0, 0]
deriving DecidableEq, Repr

/-- The debug unit's registers (R426 to R431). -/
structure Debug where
  bpaddr : List DWord := [0, 0, 0, 0, 0, 0, 0, 0]
  bpctl  : List DWord := [0, 0, 0, 0, 0, 0, 0, 0]
  dstat  : DWord := 0
  tbase  : DWord := 0
  tsize  : DWord := 0
  tptr   : DWord := 0
  tdrop  : DWord := 0
  trdp   : DWord := 0
  /-- TPTR as it will stand when every record begun has been written, and, for the writes of records still on their way, as it will stand
  after each (R430). -/
  tnext  : DWord := 0
  traces : List (Nat × DWord) := []
deriving DecidableEq, Repr

/-- What happens next, as the agenda gives it (log 4, 5, 7). -/
inductive Turn where
  /-- An agent becomes the one that issues. -/
  | agent (a : Agent)
  /-- An event of the opcode table. -/
  | event (i : Instr)
  /-- Time passes: so many nanoseconds. -/
  | elapse (ns : Nat)
  /-- A core's L1 replaces a line. -/
  | evictL1 (core : Nat) (n : Nat)
  /-- A core (4,096 for the hub) replaces a cached translation. -/
  | evictTlb (core : Nat) (n : Nat)
  /-- The remote line cache replaces a line (R324). -/
  | evictRlc (n : Nat)
  /-- The tile engine of a core does so many rows at a time (R236; log 13). -/
  | pace (core rows : Nat)
  /-- The host sends a slot image on vsock port 1002 (R422). -/
  | host (image : List Byte)
deriving DecidableEq, Repr

/-- The machine. -/
structure State where
  turn     : Agent := .steward 0
  agenda   : List Turn := []
  /-- The next name of an operation, command, allocation, group or helper; 0 to 31 are the stewards', and 32 is the hub's. -/
  nextId   : Nat := 33
  /-- Free values drawn so far (log 10). -/
  free     : Nat := 0
  clocks   : Clocks := {}
  mem      : Memory := []
  /-- Uncorrectable 8-byte words, with the bytes rewritten since (R345, R346). -/
  ecc      : Assoc (BitVec 8) := []
  cores    : Assoc Core := []
  stewards : Assoc Steward := []
  contexts : Assoc Context := []
  objects  : List CohObj := []
  ops      : Assoc Op := []
  /-- The combining units of the clusters (R328). -/
  clusters : Assoc (List Combined) := []
  cmds     : Assoc Cmd := []
  booth    : Booth := {}
  fabric   : Fabric := {}
  bringup  : Bringup := {}
  /-- Virtio functions, by 2·port + function. -/
  virtio   : Assoc Virtio := []
  fomar    : Fomar := {}
  hubTlb   : List TlbEntry := []
  /-- The lines that the steward cache holds, newest first: 1,048,576 at most (R325). -/
  stewardLines : List (LineTag × Line) := []
  engine   : Engine := {}
  /-- The boot configuration from bring-up stage 3 on; its values are the part's (R423; log 15). -/
  boot     : BootConfig := { pkgId := 0, fpid := 0, prio := 0, vports := 0, hmode := 0, rcap := [], ideKeys := [] }
  /-- SSTART (R414). -/
  sstart   : DWord := 0
  /-- HMODE (R422). -/
  hmode    : DWord := 0
  /-- Virtio doorbells pending: port and function (R273, R421). -/
  doorbells : List (Nat × Nat) := []
  /-- Recalls completed whose LEASE notice is pending (R273, R366). -/
  notices  : List Word := []
  dbg      : Debug := {}
  /-- The hub's monitors (R434). -/
  monitors : Assoc Monitor := []
deriving DecidableEq, Repr

/-- Faults: the step has no meaning in the state. -/
inductive Fault where
  /-- Raised by an instruction meaning where no agent stands at an instruction of its clause. The hardware issues no
  instruction there, so this is safe. -/
  | noIssuer
  /-- Raised by an event meaning in a state in which the rule of the event does not let it happen. Safe: the hardware
  has no such event there. -/
  | notEnabled
deriving DecidableEq, Repr

/-- Refusals. -/
inductive Refusal where
  /-- Raised by the dispatcher for a step without a meaning. Safe. -/
  | notModelled (mnemonic : String)
deriving DecidableEq, Repr

/-- A steward at package reset: only steward 0 runs (R414; log 1, 2). -/
def Steward.reset (k : Nat) : Steward :=
  { path := { exec := 1 }, start := k != 0 }

/-- The machine after package reset (R439; log 1, 2). -/
def State.reset : State :=
  { stewards := (List.range 32).map fun k => (k, Steward.reset k) }

end Sys2Proof.Machine
end

