-- ==== Sys2Proof/Machine/Memory.lean ====
section
/-! DEFINITION. Memory as bytes in canonical form, and wider accesses over it, little-endian (R3). -/
namespace Sys2Proof.Machine

/-- A byte of memory; an unlisted address reads 0 (log 3). -/
def Memory.read (m : Memory) (a : Nat) : Byte := (Assoc.get? m a).getD 0

/-- Memory with a byte written; writing 0 removes the entry. -/
def Memory.write (m : Memory) (a : Nat) (b : Byte) : Memory := Assoc.put 0 m a b

/-- The canonical form: addresses rise strictly and no entry holds what an unlisted address reads as. -/
def Memory.wf (m : Memory) : Bool := Assoc.sorted m && m.all fun p => p.2 != 0

/-- `n` bytes from an address upward. -/
def Memory.readN (m : Memory) (a n : Nat) : List Byte := (List.range n).map fun k => m.read (a + k)

/-- Memory with bytes written from an address upward. -/
def Memory.writeN : Memory → Nat → List Byte → Memory
  | m, _, [] => m
  | m, a, b :: bs => Memory.writeN (m.write a b) (a + 1) bs

/-- The value of `n` bytes from an address upward (R3). -/
def Memory.load (m : Memory) (a n : Nat) : Nat := ofBytes (m.readN a n)

/-- Memory with a value stored in `n` bytes (R3). -/
def Memory.store (m : Memory) (a n v : Nat) : Memory := m.writeN a (toBytes n v)

/-- Memory with `n` bytes of zero from an address upward. -/
def Memory.clear (m : Memory) (a n : Nat) : Memory := m.filter fun p => p.1 < a || a + n ≤ p.1

end Sys2Proof.Machine
end

