-- ==== Sys2Proof/Machine/Agents.lean ====
section
/-! DEFINITION. Reading and changing the parts of the state, and the issuing agent as an instruction sees it. -/
namespace Sys2Proof.Machine

/-! ## Cores, groups, helpers, stewards, contexts -/

/-- A SIMT core; one that nothing has changed is as after reset. -/
def State.core (s : State) (c : Nat) : Core := Assoc.getD s.cores c {}
/-- The state with a core changed. -/
def State.setCore (s : State) (c : Nat) (k : Core) : State := { s with cores := Assoc.set s.cores c k }
/-- The state with a core changed by a function. -/
def State.modCore (s : State) (c : Nat) (f : Core → Core) : State := s.setCore c (f (s.core c))

/-- The group in a slot of a core (R14). -/
def State.group? (s : State) (c sl : Nat) : Option Group := Assoc.get? (s.core c).slots sl
/-- The state with a group in a slot. -/
def State.setGroup (s : State) (c sl : Nat) (g : Group) : State :=
  s.modCore c fun k => { k with slots := Assoc.set k.slots sl g }
/-- The state with the group of a slot changed, if there is one. -/
def State.modGroup (s : State) (c sl : Nat) (f : Group → Group) : State :=
  match s.group? c sl with
  | some g => s.setGroup c sl (f g)
  | none => s

/-- A steward core (R45). -/
def State.steward (s : State) (k : Nat) : Steward := Assoc.getD s.stewards k (Steward.reset k)
/-- The state with a steward changed. -/
def State.modSteward (s : State) (k : Nat) (f : Steward → Steward) : State :=
  { s with stewards := Assoc.set s.stewards k (f (s.steward k)) }

/-- A helper of a core (R42). -/
def State.helper? (s : State) (c n : Nat) : Option Helper := Assoc.get? (s.core c).helpers n
/-- The state with a helper changed, if there is one. -/
def State.modHelper (s : State) (c n : Nat) (f : Helper → Helper) : State :=
  match s.helper? c n with
  | some h => s.modCore c fun k => { k with helpers := Assoc.set k.helpers n (f h) }
  | none => s

/-- A context; one never installed is as at reset (R46). -/
def State.context (s : State) (n : Nat) : Context := Assoc.getD s.contexts n {}
/-- The state with a context changed. -/
def State.modContext (s : State) (n : Nat) (f : Context → Context) : State :=
  { s with contexts := Assoc.set s.contexts n (f (s.context n)) }

/-- The allocation of a core (R283). -/
def State.alloc? (s : State) (c a : Nat) : Option Alloc := Assoc.get? (s.core c).allocs a
/-- The state with an allocation changed, if there is one. -/
def State.modAlloc (s : State) (c a : Nat) (f : Alloc → Alloc) : State :=
  s.modCore c fun k => { k with allocs := Assoc.update k.allocs a f }

/-! ## Paths -/

/-- The path of an agent: that of a group, the one of a helper, or the one of a steward. -/
def State.path? (s : State) : Agent → Option Path
  | .path c sl i => (s.group? c sl).bind fun g => Assoc.get? g.paths i
  | .helper c n => (s.helper? c n).map (·.path)
  | .steward k => if k < 32 then some (s.steward k).path else none

/-- The state with the path of an agent. -/
def State.setPath (s : State) (a : Agent) (p : Path) : State :=
  match a with
  | .path c sl i => s.modGroup c sl fun g => { g with paths := Assoc.set g.paths i p }
  | .helper c n => s.modHelper c n fun h => { h with path := p }
  | .steward k => s.modSteward k fun w => { w with path := p }

/-- The state with the path of an agent changed, if it has one. -/
def State.modPath (s : State) (a : Agent) (f : Path → Path) : State :=
  match s.path? a with
  | some p => s.setPath a (f p)
  | none => s

/-- The state with every path in the cores and of the stewards changed. -/
def State.mapPaths (s : State) (f : Path → Path) : State :=
  { s with
    cores := s.cores.mapVals fun k => { k with
      slots := k.slots.mapVals fun g => { g with paths := g.paths.mapVals f }
      helpers := k.helpers.mapVals fun h => { h with path := f h.path } }
    stewards := s.stewards.mapVals fun w => { w with path := f w.path } }

/-- The path with a line that has come for it, if it waits for that line (R359, R360). -/
def Path.land (p : Path) (e line : Nat) (data : Option Line) : Path :=
  if p.awaiting = some (e, line) then { p with awaiting := none, landed := p.landed ++ [((e, line), data)] } else p

/-- The state in which a line of a borrowed entry has come for the paths that wait for it. -/
def State.landAt (s : State) (e line : Nat) (data : Option Line) : State := s.mapPaths fun p => p.land e line data

/-- A line that has come for the access of the agent whose turn it is, as it came. -/
def State.landed? (s : State) (e line : Nat) : Option (Option Line) := (s.path? s.turn).bind fun p => p.landed.lookup (e, line)

/-- The part of a place that has come for the access of the agent whose turn it is, if it has: none for one that came poisoned. -/
def State.landedPart (s : State) (t : Target) (n : Nat) : Option (Option (List Byte)) :=
  match t with
  | .lent e off => (s.landed? e (off / 64)).map fun d => d.map fun l => ((toBytes 64 l.toNat).drop (off % 64)).take n
  | _ => none

/-- The line that a stall waits for. -/
def Stall.line? : Stall → Option (Nat × Nat)
  | .line e n => some (e, n)
  | _ => none

/-- The path that needs no line any more. -/
def Path.unlanded (p : Path) : Path := { p with awaiting := none, landed := [] }

/-- Threads of a group: T (R12). -/
def Group.width (g : Group) : Nat := if g.kernel.w32 then 32 else 128

/-- The group id (R14). -/
def gidOf (core slot : Nat) : Nat := core * 16 + slot

/-- The die of a core: 1,024 cores to a die (R1). -/
def dieOf (core : Nat) : Nat := if core < 4096 then core / 1024 else 4

/-- cyc of a core's clock domain; core numbers from 4,096 are the hub die's (R265). -/
def State.cyc (s : State) (core : Nat) : Nat := s.clocks.cyc.getD (dieOf core) 0

/-! ## The issuing agent -/

/-- What kind of agent issues. -/
inductive Kind where
  | simt | helper | steward
deriving DecidableEq, Repr

/-- An issuing agent as its instructions see it (R12, R22, R24, R42, R45). -/
structure Issuer where
  agent  : Agent
  /-- The name of its group, helper or steward. -/
  uid    : Nat
  kind   : Kind
  /-- The core number; 0x1000 + k for steward k (Table 2 of the system chapter). -/
  core   : Nat
  /-- The slot of the group it belongs to; a helper's is its recruiter's. -/
  slot   : Nat
  /-- The path index; 16 in a helper. -/
  idx    : Nat
  path   : Path
  /-- Threads: T, or 1. -/
  width  : Nat
  /-- The register window W. -/
  window : Nat
  /-- The group-register count G. -/
  gcount : Nat
  /-- A mask is one register (R25). -/
  w32    : Bool
  /-- The context of its accesses (R46, R273). -/
  ctx    : Nat
  /-- A steward at supervisor level. -/
  sup    : Bool
  /-- The launch of its group. -/
  launch : Nat
  /-- The poisoned lanes that wait to be raised in its group, helper or steward (R194). -/
  poison : List Poison := []
deriving DecidableEq, Repr

/-- The context a steward's accesses go through: context 0 at supervisor level, UCTX at user level (R273). -/
def Steward.ctx (w : Steward) : Nat := if w.sup then 0 else bits w.sstat.toNat 16 10

/-- An agent's view as an issuer, whatever its phase. -/
def State.issuer? (s : State) (a : Agent) : Option Issuer :=
  match a with
  | .path c sl i =>
    (s.group? c sl).bind fun g => (Assoc.get? g.paths i).map fun p =>
      { agent := a, uid := g.uid, kind := .simt, core := c, slot := sl, idx := i, path := p, width := g.width, window := g.w,
        gcount := g.kernel.gregs, w32 := g.kernel.w32, ctx := g.ctx, sup := false, launch := g.launch,
        poison := g.poison }
  | .helper c n =>
    (s.helper? c n).bind fun h => (s.group? c h.slot).map fun g =>
      { agent := a, uid := h.uid, kind := .helper, core := c, slot := h.slot, idx := 16, path := h.path, width := 1, window := 48,
        gcount := g.kernel.gregs, w32 := g.kernel.w32, ctx := g.ctx, sup := false, launch := g.launch,
        poison := h.path.poison }
  | .steward k =>
    if k < 32 then
      let w := s.steward k
      some { agent := a, uid := k, kind := .steward, core := 4096 + k, slot := 0, idx := 0, path := w.path, width := 1,
             window := 192, gcount := 64, w32 := false, ctx := w.ctx, sup := w.sup, launch := 0, poison := w.path.poison }
    else none

/-- The agent whose turn it is, if it stands at an instruction of its clause. -/
def State.issuing? (s : State) : Option Issuer :=
  match s.issuer? s.turn with
  | some u => if u.path.phase = .issuing && u.path.clause.idx < u.path.clause.words.length then some u else none
  | none => none

/-- The lanes of an issuer's exec, rising (R28). -/
def Issuer.lanes (u : Issuer) : List Nat := bitsOf u.path.exec u.width

/-- The address of the current instruction word (R16, R49). -/
def Path.wordAddr (p : Path) : PC := p.clause.addr + BitVec.ofNat 60 (8 * (p.clause.idx + 1))

/-- The address after a clause: its address plus 8·(N+2) (R56). -/
def Path.nextClause (p : Path) : PC := p.clause.addr + BitVec.ofNat 60 (8 * (p.clause.words.length + 1))

/-! ## Register files -/

/-- The value a v register holds for a lane, apart from writes not yet visible (R22, R42). -/
def State.baseV (s : State) (u : Issuer) (r lane : Nat) : Word :=
  match u.agent with
  | .path c sl _ => ((s.group? c sl).map fun g => Assoc.getD g.v (128 * r + lane) 0).getD 0
  | .helper c n =>
    match s.helper? c n with
    | none => 0
    | some h =>
      if r < 16 then Assoc.getD h.v r 0
      else
        match (s.group? c h.slot).bind fun g => Assoc.get? g.recruits h.thread with
        | some q => q.shared.getD (r - 16) 0
        | none => 0
  | .steward k => Assoc.getD (s.steward k).v r 0

/-- The value a g register holds, apart from writes not yet visible; g63 reads as zero (R24, R42). -/
def State.baseG (s : State) (u : Issuer) (r : Nat) : DWord :=
  if r = 63 then 0
  else match u.agent with
  | .path c sl _ => ((s.group? c sl).map fun g => Assoc.getD g.g r 0).getD 0
  | .helper c n =>
    match (s.helper? c n).bind fun h => (s.group? c h.slot).bind fun g => Assoc.get? g.recruits h.thread with
    | some q => Assoc.getD q.gregs r 0
    | none => 0
  | .steward k => Assoc.getD (s.steward k).g r 0

/-- The state with a v register of a lane written (R22). -/
def State.putV (s : State) (a : Agent) (r lane : Nat) (x : Word) : State :=
  match a with
  | .path c sl _ => s.modGroup c sl fun g => { g with v := Assoc.put 0 g.v (128 * r + lane) x }
  | .helper c n => if r < 16 then s.modHelper c n fun h => { h with v := Assoc.put 0 h.v r x } else s
  | .steward k => s.modSteward k fun w => { w with v := Assoc.put 0 w.v r x }

/-- A write stands no later in the issue order of a group than another. Paths of one selection issue together, and of two that issue
in one cycle the write of the higher path index is the later (R21); any other two stand in the order in which they were issued. -/
def Stamp.before (a b : Stamp) : Bool :=
  if a.pick != 0 && a.pick == b.pick && a.idx != b.idx then a.off < b.off || (a.off == b.off && a.idx < b.idx)
  else a.seq ≤ b.seq

/-- The place of a write whose core is another now, so that its selection there says nothing (R21). -/
def Stamp.settled (a : Stamp) : Stamp := { seq := a.seq }

/-- A write whose core is another now. -/
def PendWrite.settled (w : PendWrite) : PendWrite := { w with seq := w.seq.settled }

/-- An instruction that issues at a place sees what one that issued at another did: one of its own path, or in an earlier cycle (R256). -/
def Stamp.seenBy (a b : Stamp) : Bool := !(a.pick != 0 && a.pick == b.pick && a.idx != b.idx) || a.off < b.off

/-- The versions of a table, newest first. -/
def Table.versions (t : Table) : List TableVersion := { launch := t.launch, seq := t.seq, entries := t.entries } :: t.past

/-- A table as an instruction that issues at a place sees it (R256). -/
def Table.seenAt (t : Table) (seq : Stamp) : Option TableVersion := t.versions.find? fun v => v.seq.seenBy seq

/-- A table replaced at a place of the issue order: what paths that issue in the same cycle, or in one before it, still see is kept
beneath, and so is a replacement that a co-selected path has made later in that order (R256). -/
def replaceTable (t : Option Table) (launch : Nat) (seq : Stamp) (entries : List (BitVec 16)) : Table :=
  let vs := (t.map Table.versions).getD []
  let later := vs.takeWhile fun v => !v.seq.before seq
  let all := later ++ { launch := launch, seq := seq, entries := entries } :: vs.drop later.length
  let kept := all.takeWhile fun v => seq.pick != 0 && v.seq.pick == seq.pick
  match kept ++ (all.drop kept.length).take 1 with
  | v :: rest => { launch := v.launch, entries := v.entries, seq := v.seq, past := rest }
  | [] => { launch := launch, entries := entries, seq := seq }

/-- The group with a g register written, unless a write later in issue order already stands there (R21). -/
def Group.putG (g : Group) (r : Nat) (x : DWord) (seq : Stamp) : Group :=
  if (Assoc.getD g.stamps r {}).before seq then { g with g := Assoc.put 0 g.g r x, stamps := Assoc.set g.stamps r seq } else g

/-- The state with a g register written, unless a write later in issue order already stands there; g63 discards (R21, R24). -/
def State.putG (s : State) (a : Agent) (r : Nat) (x : DWord) (seq : Stamp) : State :=
  if r = 63 then s
  else match a with
  | .path c sl _ => s.modGroup c sl fun g => g.putG r x seq
  | .helper _ _ => s
  | .steward k => s.modSteward k fun w => { w with g := Assoc.put 0 w.g r x }

/-- WTH of an agent's group or steward (R40). A helper reads its recruiter's. -/
def State.wth (s : State) : Agent → Nat
  | .path c sl _ => ((s.group? c sl).map (·.wth)).getD 0
  | .helper c n => (((s.helper? c n).bind fun h => s.group? c h.slot).map (·.wth)).getD 0
  | .steward k => (s.steward k).wth

/-- The completion rings of an agent: those of its group, helper or steward (R40, R45, R181). -/
def State.rings (s : State) : Agent → Rings
  | .path c sl _ => ((s.group? c sl).map (·.rings)).getD {}
  | .helper c n => ((s.helper? c n).map (·.rings)).getD {}
  | .steward k => (s.steward k).rings

/-- The state with the rings of an agent changed. -/
def State.modRings (s : State) (a : Agent) (f : Rings → Rings) : State :=
  match a with
  | .path c sl _ => s.modGroup c sl fun g => { g with rings := f g.rings }
  | .helper c n => s.modHelper c n fun h => { h with rings := f h.rings }
  | .steward k => s.modSteward k fun w => { w with rings := f w.rings }

/-- One of the rings. -/
def Rings.get (r : Rings) : Ctr → List (Nat × Bool)
  | .ld => r.ld | .st => r.st | .am => r.am | .cp => r.cp | .tt => r.tt | .sv => r.sv

/-- The rings with one changed. -/
def Rings.set (r : Rings) (c : Ctr) (l : List (Nat × Bool)) : Rings :=
  match c with
  | .ld => { r with ld := l } | .st => { r with st := l } | .am => { r with am := l }
  | .cp => { r with cp := l } | .tt => { r with tt := l } | .sv => { r with sv := l }

/-- The value of a counter: the length of its ring (R40, R327). -/
def Rings.count (r : Rings) (c : Ctr) : Nat := (r.get c).length

/-- The rings with an operation entered at its issue (R40). -/
def Rings.enter (r : Rings) (c : Ctr) (id : Nat) : Rings := r.set c (r.get c ++ [(id, false)])

/-- The rings with an operation completed: the counter falls past every oldest completed entry (R327). -/
def Rings.complete (r : Rings) (c : Ctr) (id : Nat) : Rings :=
  r.set c (((r.get c).map fun e => if e.1 = id then (id, true) else e).dropWhile (·.2))

/-- The next place in the issue order of an agent's group (R21). -/
def State.seqOf (s : State) : Agent → Stamp
  | .path c sl i =>
    match s.group? c sl with
    | none => {}
    | some g => match Assoc.get? g.paths i with
      | none => { seq := g.seq }
      | some p => { seq := g.seq, pick := p.pick, off := p.spent - p.pickAt, idx := i }
  | .helper c n => { seq := ((s.helper? c n).map (·.seq)).getD 0 }
  | .steward k => { seq := (s.steward k).seq }

/-- The state with that place taken. -/
def State.bumpSeq (s : State) : Agent → State
  | .path c sl _ => s.modGroup c sl fun g => { g with seq := g.seq + 1 }
  | .helper c n => s.modHelper c n fun h => { h with seq := h.seq + 1 }
  | .steward k => s.modSteward k fun w => { w with seq := w.seq + 1 }

/-- The place of a group, helper or steward. -/
inductive Unit' where
  | slot (core slot : Nat)
  | helper (core num : Nat)
  | steward (k : Nat)
  | saved
  /-- The recruiter frame saved with a group, by the group's name (R184, R382). -/
  | frame (group : Nat)
deriving DecidableEq, Repr

/-- Where the group, helper or steward with a name is. -/
def State.unit? (s : State) (uid : Nat) : Option Unit' :=
  if uid < 32 then some (.steward uid)
  else match s.cores.findSome? fun k => (k.2.slots.find? fun p => p.2.uid = uid).map fun p => (k.1, p.1) with
  | some (c, sl) => some (.slot c sl)
  | none =>
    match s.cores.findSome? fun k => (k.2.helpers.find? fun p => p.2.uid = uid).map fun p => (k.1, p.1) with
    | some (c, n) => some (.helper c n)
    | none =>
      if (Assoc.get? s.engine.saved uid).isSome then some .saved
      else (s.engine.saved.find? fun v => v.2.frame.any fun h => h.uid = uid).map fun v => .frame v.1

/-- The group with a name, in a slot or saved. -/
def State.groupNamed? (s : State) (uid : Nat) : Option Group :=
  match s.unit? uid with
  | some (.slot c sl) => s.group? c sl
  | some .saved => (Assoc.get? s.engine.saved uid).map (·.group)
  | _ => none

/-- The state with the group of a name changed, in its slot or in its saved image (R382). -/
def State.modGroupNamed (s : State) (uid : Nat) (f : Group → Group) : State :=
  match s.unit? uid with
  | some (.slot c sl) => s.modGroup c sl f
  | some .saved =>
    { s with engine := { s.engine with saved := Assoc.update s.engine.saved uid fun v => { v with group := f v.group } } }
  | _ => s

/-- The state with the recruiter frame changed that is saved with a group (R184, R382). -/
def State.modFrame (s : State) (uid : Nat) (f : Helper → Helper) : State :=
  { s with engine := { s.engine with saved := Assoc.update s.engine.saved uid fun v => { v with frame := v.frame.map f } } }

/-- The state with the helper changed that stands at a place, on its core or in a saved frame. -/
def State.modHelperAt (s : State) (p : Unit') (f : Helper → Helper) : State :=
  match p with
  | .helper c n => s.modHelper c n f
  | .frame uid => s.modFrame uid f
  | _ => s

/-- The state with the completion rings of a name changed. -/
def State.modRingsNamed (s : State) (uid : Nat) (f : Rings → Rings) : State :=
  match s.unit? uid with
  | some (.helper c n) => s.modHelper c n fun h => { h with rings := f h.rings }
  | some (.frame g) => s.modFrame g fun h => { h with rings := f h.rings }
  | some (.steward k) => s.modSteward k fun w => { w with rings := f w.rings }
  | _ => s.modGroupNamed uid fun g => { g with rings := f g.rings }

/-! ## Waiting on counters (R40, R52, R53, R375) -/

/-- A WAIT code of a header holds (R50, R40). -/
def waitHolds (r : Rings) (wth code : Nat) (c : Ctr) : Bool :=
  if code = 1 then r.count c == 0 else if code = 2 then r.count c ≤ wth else true

/-- The WAIT codes of a header, counter by counter (Table 1 of the format chapter). -/
def waitCodes (h : DWord) : List (Ctr × Nat) :=
  [(.ld, bits h.toNat 47 2), (.st, bits h.toNat 45 2), (.am, bits h.toNat 43 2), (.cp, bits h.toNat 41 2),
   (.tt, bits h.toNat 39 2), (.sv, bits h.toNat 37 2)]

/-- Every WAIT condition of a header holds for an agent (R52 step 2). -/
def State.waitsHold (s : State) (a : Agent) (h : DWord) : Bool :=
  (waitCodes h).all fun w => waitHolds (s.rings a) (s.wth a) w.2 w.1

/-- The state with the ready paths of a group, at a boundary, that wait again on a WAIT code of their header: they are ready no
more (R375). -/
def State.recheckWaits (s : State) : Agent → State
  | .path c sl _ =>
    let late := fun (p : Path) => (p.phase = .armed || p.phase = .missed) && !((waitCodes p.clause.header).all fun w =>
      waitHolds (s.rings (.path c sl 0)) (s.wth (.path c sl 0)) w.2 w.1)
    s.modGroup c sl fun g => { g with paths := g.paths.mapVals fun p => if late p then { p with phase := .waiting, aged := false } else p }
  | _ => s

/-- The state with an operation or command entered on its counter at its issue (R40, R375). -/
def State.enterRing (s : State) (a : Agent) (c : Ctr) (id : Nat) : State :=
  (s.modRings a fun r => r.enter c id).recheckWaits a

/-- A fresh identifier of an operation, command or allocation. -/
def State.freshId (s : State) : Nat × State := (s.nextId, { s with nextId := s.nextId + 1 })

end Sys2Proof.Machine
end

