-- ==== Sys2Proof/Machine/Operands.lean ====
section
/-! DEFINITION. Operand positions: which registers they may name, how they are read and written, and the visibility of
writes inside a clause (R22 to R27, R63 to R71, R86, R116). -/
namespace Sys2Proof

/-- An order with an acquire. -/
def Order.acquires (o : Order) : Bool := o == .acq || o == .ar
/-- An order with a release. -/
def Order.releases (o : Order) : Bool := o == .rel || o == .ar

namespace Machine

/-- What an operand position takes. -/
inductive Role where
  /-- One 32-bit register: a v register, or a g register of any index (R115). -/
  | w32
  /-- 64 bits: a v pair, or a g register of any index (R23, R115). -/
  | w64
  /-- 128 bits: four v registers from a multiple of 4, or an even g register and the next (R63). -/
  | w128
  /-- A mask: g registers only, an even one and the next in native mode (R25). -/
  | mask
  /-- One g register of any index. -/
  | greg
  /-- A v register only. -/
  | vreg
  /-- A v pair only. -/
  | vpair
  /-- Four v registers from a multiple of 4 only. -/
  | vquad
  /-- The number of consecutive 32-bit v registers from a given one, or of g registers: the data of an atomic (R86). -/
  | vrun (n align : Nat)
deriving DecidableEq, Repr

/-- An operand as an instruction uses it. -/
structure Use where
  o     : Opnd
  role  : Role
  write : Bool := false
deriving DecidableEq, Repr

/-- The registers an operand position names. -/
def Use.regs (u : Issuer) (x : Use) : List Reg :=
  match x.o with
  | .v n =>
    let k := match x.role with
      | .w64 => 2 | .vpair => 2 | .w128 => 4 | .vquad => 4 | .vrun k _ => k | _ => 1
    (List.range k).map fun j => .v (n.val + j)
  | .g n =>
    match x.role with
    | .w128 => [.g n.val, .g (n.val + 1)]
    | .mask => if u.w32 then [.g n.val] else [.g n.val, .g (n.val + 1)]
    | _ => [.g n.val]

/-- A g register that the issuer has: below its count, or g63 (R24). -/
def Issuer.hasG (u : Issuer) (n : Nat) : Bool := n < u.gcount || n == 63

/-- Step 2 of R66 for one operand: window, pairs, masks and uniform operands (R22 to R27), and the register writes a
helper may not make (R42). -/
def Use.ok (u : Issuer) (uni : Bool) (x : Use) : Bool :=
  match x.o with
  | .v n =>
    let inWindow := fun k align => n.val % align == 0 && n.val + k ≤ u.window
    !uni && (!x.write || u.kind != .helper || n.val < 16) &&
    (match x.role with
     | .w32 => inWindow 1 1
     | .vreg => inWindow 1 1
     | .w64 => inWindow 2 2
     | .vpair => inWindow 2 2
     | .w128 => inWindow 4 4
     | .vquad => inWindow 4 4
     | .vrun k al => inWindow k al
     | .mask => false
     | .greg => false)
  | .g n =>
    let one := u.hasG n.val
    let pair := n.val % 2 == 0 && u.hasG n.val && u.hasG (n.val + 1)
    (!x.write || u.kind != .helper || n.val == 63) &&
    (match x.role with
     | .w32 => one
     | .w64 => one
     | .greg => one
     | .w128 => pair
     | .mask => if u.w32 then one else pair
     | .vrun _ _ => one
     | .vreg => false
     | .vpair => false
     | .vquad => false)

/-! ## Reading registers (R68) -/

/-- The last write to a register, in program order, that is visible at a path's position for a lane. -/
def Path.visible? (p : Path) (r : Reg) (lane : Nat) : Option DWord :=
  p.pend.foldl (fun acc w =>
    if w.reg = r && w.visAt ≤ p.dist then
      match w.vals.lookup lane with
      | some x => some x
      | none => acc
    else acc) none

/-- The value of a v register for a lane (R26, R68). -/
def State.readV (s : State) (u : Issuer) (r lane : Nat) : Word :=
  match u.path.visible? (.v r) lane with
  | some x => x.setWidth 32
  | none => s.baseV u r lane

/-- The write to a g register by the path that a path split from, as long as the group has neither it nor a later one (R71). -/
def State.seenG? (s : State) (u : Issuer) (r : Nat) : Option DWord :=
  match u.agent with
  | .path c sl _ => (s.group? c sl).bind fun g =>
    let mine := u.path.seen.filter fun w => w.reg = .g r && !(w.seq.before (Assoc.getD g.stamps r {}))
    (mine.foldl (fun acc w => match acc with
      | some (l : PendWrite) => if w.seq.before l.seq then some l else some w
      | none => some w) none).bind fun w => w.vals.head?.map (·.2)
  | _ => none

/-- The value of a g register (R24, R68, R71; log 86). -/
def State.readG (s : State) (u : Issuer) (r : Nat) : DWord :=
  if r = 63 then 0 else (u.path.visible? (.g r) 0).getD ((s.seenG? u r).getD (s.baseG u r))

/-- The fmt an instruction uses (R105). -/
def Issuer.fmt (u : Issuer) : DWord := (u.path.visible? .fmt 0).getD u.path.fmt

/-- The 32 bits an operand gives a lane (R115). -/
def State.read32 (s : State) (u : Issuer) (o : Opnd) (lane : Nat) : Word :=
  match o with
  | .v n => s.readV u n.val lane
  | .g n => (s.readG u n.val).setWidth 32

/-- The 64 bits an operand gives a lane (R23, R115). -/
def State.read64 (s : State) (u : Issuer) (o : Opnd) (lane : Nat) : DWord :=
  match o with
  | .v n => s.readV u (n.val + 1) lane ++ s.readV u n.val lane
  | .g n => s.readG u n.val

/-- The value of the low `bytes` bytes that an operand gives a lane: 1 to 16 (R63). -/
def State.readBytes (s : State) (u : Issuer) (o : Opnd) (lane bytes : Nat) : Nat :=
  match o with
  | .v n =>
    ((List.range 4).foldl (fun acc j =>
      if 4 * j < bytes then acc + (s.readV u (n.val + j) lane).toNat * 2 ^ (32 * j) else acc) 0) % 2 ^ (8 * bytes)
  | .g n =>
    ((s.readG u n.val).toNat + (if 8 < bytes then (s.readG u (n.val + 1)).toNat * 2 ^ 64 else 0)) % 2 ^ (8 * bytes)

/-- The mask an operand names (R25). -/
def State.readMask (s : State) (u : Issuer) (o : Opnd) : Mask :=
  match o with
  | .v _ => 0
  | .g n =>
    if u.w32 then ((s.readG u n.val).setWidth 32).setWidth 128
    else s.readG u (n.val + 1) ++ s.readG u n.val

/-! ## Writing registers (R21, R68) -/

/-- The path with a write in flight inside its clause. -/
def Path.pushWrite (p : Path) (r : Reg) (vals : List (Nat × DWord)) (lat : Nat) (seq : Stamp) : Path :=
  { p with pend := p.pend ++ [{ reg := r, vals := vals, visAt := p.dist + lat, seq := seq }] }

/-- The state with writes of an issuer in flight, with the latency of R67. -/
def State.pushWrites (s : State) (u : Issuer) (ws : List (Reg × List (Nat × DWord))) (lat : Nat) : State :=
  let seq := s.seqOf u.agent
  (s.modPath u.agent fun p => ws.foldl (fun p w => p.pushWrite w.1 w.2 lat seq) p).bumpSeq u.agent

/-- The register writes that give lanes a result of up to 64 bits: one register, or a pair when `wide`; a g register
takes the first value (R116). -/
def resultWrites (d : Opnd) (wide : Bool) (vals : List (Nat × DWord)) : List (Reg × List (Nat × DWord)) :=
  match d with
  | .v n =>
    if wide then
      [(.v n.val, vals.map fun p => (p.1, (p.2.setWidth 32).setWidth 64)), (.v (n.val + 1), vals.map fun p => (p.1, (p.2.extractLsb' 32 32).setWidth 64))]
    else [(.v n.val, vals.map fun p => (p.1, (p.2.setWidth 32).setWidth 64))]
  | .g n => match vals with
    | [] => []
    | p :: _ => [(.g n.val, [(0, p.2)])]

/-- The register writes of a mask result (R25, R124). -/
def maskWrites (u : Issuer) (d : Opnd) (m : Mask) : List (Reg × List (Nat × DWord)) :=
  match d with
  | .v _ => []
  | .g n =>
    if u.w32 then [(.g n.val, [(0, (m.setWidth 32).setWidth 64)])]
    else [(.g n.val, [(0, m.setWidth 64)]), (.g (n.val + 1), [(0, m.extractLsb' 64 64)])]

/-- A steward out of its start wait, at SSTART (R414). -/
def Steward.wake (w : Steward) (sstart : DWord) : Steward :=
  { w with
    start := false, sup := true, svec := sstart, sie := 0, ipi := false, timer := false, sstat := 2
    path := { w.path with pc := sstart.setWidth 60, exec := 1, phase := .boundary } }

/-- A write of a special register takes effect; reserved bits are discarded (R264, Tables 2 to 4 of the system
chapter). -/
def State.applySys (s : State) (a : Agent) (code : Nat) (x : DWord) : State :=
  match a with
  | .path c sl _ =>
    if code = 0x18 then (s.modGroup c sl fun g => { g with wth := bits x.toNat 0 10 }).recheckWaits a
    else if code = 0x22 then s.modPath a fun q => { q with handler := q.handler.map fun h => { h with tstk := x } }
    else s
  | .helper _ _ => s
  | .steward k =>
    if code = 0x38 then s.modSteward (bits x.toNat 0 5) fun w => if w.start then w.wake s.sstart else { w with ipi := true }
    else s.modSteward k fun w =>
      if code = 0x18 then { w with wth := bits x.toNat 0 10 }
      else if code = 0x30 then { w with svec := x }
      else if code = 0x31 then { w with sepc := x }
      else if code = 0x32 then { w with scause := x.setWidth 32 }
      else if code = 0x33 then { w with stval := x }
      else if code = 0x34 then { w with sstat := x &&& 0x3FF000F }
      else if code = 0x35 then { w with sie := x &&& 0x3F }
      else if code = 0x36 then { w with ipi := w.ipi && !x.getLsbD 5 }
      else if code = 0x37 then { w with stcmp := x, timer := w.timer && x.toNat ≤ s.cyc (4096 + k) }
      else w

/-- One write taken into the register file (R21, R71). -/
def State.commitWrite (s : State) (a : Agent) (w : PendWrite) : State :=
  match w.reg with
  | .v n => w.vals.foldl (fun s p => s.putV a n p.1 (p.2.setWidth 32)) s
  | .g n => w.vals.foldl (fun s p => s.putG a n p.2 w.seq) s
  | .fmt => match w.vals with
    | [] => s
    | p :: _ => s.modPath a fun q => { q with fmt := p.2 }
  | .sys code => match w.vals with
    | [] => s
    | p :: _ => s.applySys a code p.2

/-- Every write of a path made visible: the end of a clause (R71). -/
def State.commit (s : State) (a : Agent) : State :=
  match s.path? a with
  | none => s
  | some p =>
    let s := p.pend.foldl (fun s w => s.commitWrite a w) s
    let known := fun (w : PendWrite) => match a, w.reg with
      | .path c sl _, .g r => ((s.group? c sl).map fun g => w.seq.before (Assoc.getD g.stamps r {})).getD true
      | _, _ => true
    s.modPath a fun q => { q with pend := [], dist := 0, spent := 0, pickAt := 0, seen := q.seen.filter fun w => !known w }

/-- A steward's writes of special registers take effect where its position makes them visible (R68, R264). -/
def State.reach (s : State) (a : Agent) : State :=
  match a, s.path? a with
  | .steward _, some p =>
    let now := fun (w : PendWrite) => w.visAt ≤ p.dist && (match w.reg with
      | .sys code => code != 0x18
      | _ => false)
    ((p.pend.filter now).foldl (fun s w => s.commitWrite a w) s).modPath a fun q => { q with pend := q.pend.filter fun w => !now w }
  | _, _ => s

/-- Registers an instruction may not touch yet: with a write in flight that is not visible at its position (R69); a
discarded write to g63 is one (log 106). -/
def Path.early (p : Path) (r : Reg) : Bool := p.pend.any fun w => w.reg = r && p.dist < w.visAt

/-- A register that an operation in flight will write in a lane of a path; a g register for every path of the group (R70; log 88). -/
def State.interlocked (s : State) (u : Issuer) (r : Reg) : Bool :=
  s.ops.any fun p =>
    match p.2.dst with
    | none => false
    | some d =>
      p.2.uid == u.uid &&
      (match d, r with
       | .v n, .v m => n ≤ m && m < n + (p.2.size + 3) / 4 && p.2.lanes.any fun l => u.path.exec.getLsbD l.lane
       | .g n, .g m => n ≤ m && m < n + (p.2.size + 7) / 8
       | _, _ => false)

end Machine
end Sys2Proof
end

