-- ==== Sys2Proof/Machine/Flags.lean ====
section
/-! DEFINITION. Integer types, the narrowing of exact results, and the conditions of the compares. The machine has no
flags: a compare writes a mask (R94 to R96, R117, R124). -/
namespace Sys2Proof.Machine

/-- The width of a type in bits (Table 5 of the format chapter). -/
def typeWidth : DType → Nat
  | .s32 => 32 | .n32 => 32 | .s64 => 64 | .n64 => 64 | .s16 => 16 | .n16 => 16 | .s8 => 8 | .n8 => 8
  | .b32 => 32 | .b64 => 64 | .f32 => 32 | .f64 => 64 | .f16 => 16 | .bf16 => 16 | .f16x2 => 32 | .blk => 0

/-- A type of kind .s. -/
def isSigned : DType → Bool
  | .s32 => true | .s64 => true | .s16 => true | .s8 => true
  | _ => false

/-- A type of 64 bits: its v operands are pairs (R23). -/
def isWide (t : DType) : Bool := typeWidth t == 64

/-- The low `w` bits of an integer as a signed or unsigned value (R94). -/
def wrapInt (w : Nat) (signed : Bool) (r : Int) : Int :=
  let m := r % (2 ^ w : Nat)
  if signed && (2 ^ (w - 1) : Nat) ≤ m then m - (2 ^ w : Nat) else m

/-- The least value of a width (R95). -/
def minInt (w : Nat) (signed : Bool) : Int := if signed then -((2 ^ (w - 1) : Nat) : Int) else 0
/-- The greatest value of a width (R95). -/
def maxInt (w : Nat) (signed : Bool) : Int := if signed then ((2 ^ (w - 1) : Nat) : Int) - 1 else ((2 ^ w : Nat) : Int) - 1

/-- An exact result clamped to a range (R95). -/
def clampInt (w : Nat) (signed : Bool) (r : Int) : Int :=
  if r < minInt w signed then minInt w signed else if maxInt w signed < r then maxInt w signed else r

/-- An exact result as the destination type holds it, extended to 64 bits (R94, R116, R117). -/
def intResult (t : DType) (sat : Bool) (r : Int) : DWord :=
  BitVec.ofInt 64 (if sat then clampInt (typeWidth t) (isSigned t) r else wrapInt (typeWidth t) (isSigned t) r)

/-- The exact value of a source of an integer type in the low bits of a register value (R94, R115). -/
def intValue (t : DType) (x : DWord) : Int := wrapInt (typeWidth t) (isSigned t) x.toNat

/-- The six conditions of `cmp` and of `fcmp` on ordered values (R85, R124). -/
inductive Cond where
  | eq | ne | lt | le | gt | ge
deriving DecidableEq, Repr

/-- A condition on two integers (R124). -/
def Cond.holds (c : Cond) (a b : Int) : Bool :=
  match c with
  | .eq => a == b | .ne => a != b | .lt => a < b | .le => a ≤ b | .gt => a > b | .ge => a ≥ b

/-- The mask with a bit for each lane where a condition holds, every other bit 0 (R124). -/
def maskWhere (lanes : List Nat) (p : Nat → Bool) : Mask := maskOf (lanes.filter p)

end Sys2Proof.Machine
end

