-- ==== Sys2Proof/Machine/Lease.lean ====
section
/-! DEFINITION. What the homes hold: address classes, registers of the hub area, lease entries, the borrower's lines and their
messages, and reads at homes (R318, R321, R324, R330, R345, R346, R347 to R359, R407, R414, R426, R434). -/
namespace Sys2Proof.Machine

/-! ## Classes of physical addresses -/

/-- The classes of physical addresses (Table 1 of the memory-hierarchy chapter). -/
inductive PaClass where
  | hbm | pool | borrowed | hole
deriving DecidableEq, Repr

/-- The first byte of the hub area (R415). -/
def hubArea : Nat := 0x5FFF0000000

/-- The class of a physical address (R318). -/
def paClass (pa : Nat) : PaClass :=
  if pa < 0x14000000000 then .hbm
  else if 0x40000000000 ≤ pa && pa < 0x60000000000 then .pool
  else if 0x8000000000000 ≤ pa && pa < 0x10000000000000 then .borrowed
  else .hole


/-! ## Booth entries and messages -/

/-- A borrowed entry (R351). -/
def State.borrowed (s : State) (e : Nat) : Borrowed := Assoc.getD s.booth.borrowed e {}
/-- The state with a borrowed entry changed. -/
def State.modBorrowed (s : State) (e : Nat) (f : Borrowed → Borrowed) : State :=
  { s with booth := { s.booth with borrowed := Assoc.put {} s.booth.borrowed e (f (s.borrowed e)) } }
/-- The state with a lent entry changed, if there is one. -/
def State.modLent (s : State) (e : Nat) (f : Lent → Lent) : State :=
  { s with booth := { s.booth with lent := Assoc.update s.booth.lent e f } }

/-- The borrowed entry that a lease slot names in the page tables of a context (R353). -/
def entryOf (ctx slot : Nat) : Nat := if ctx = 0 then 4096 + slot else slot

/-- The lease check of an access (R353): the cause where it fails. -/
def State.leaseCause (s : State) (ctx e off len : Nat) (write : Bool) : Option Byte :=
  let b := s.borrowed e
  if b.st = 2 then (if off + len ≤ 2 ^ b.sz then none else some 0x04)
  else if b.st = 3 then (if ctx = 0 && !write then none else some 0x22)
  else if b.st = 4 then some 0x21
  else if b.st = 5 then some 0x23
  else some 0x04

/-- The package sends messages and accepts them: bring-up has completed (R440). -/
def State.onFabric (s : State) : Bool := 8 ≤ s.bringup.stage && !s.bringup.held

/-- A message arrives: it is acted on, or not accepted before bring-up is complete (R372, R440). -/
def State.receive (s : State) (act : State → Host.Outcome State Fault Refusal) : Host.Outcome State Fault Refusal :=
  if s.onFabric then act s else .next s

/-- The port a message to a package leaves on (R407, R440). -/
def State.route? (s : State) (pkg : Nat) : Option Nat :=
  if !s.onFabric then none else
  let r := Assoc.getD s.fabric.routes pkg 0
  let port := bits r.toNat 0 4
  let alt := bits r.toNat 4 4
  if r.getLsbD 8 && s.fabric.up.getLsbD port then some port
  else if r.getLsbD 8 && r.getLsbD 9 && s.fabric.up.getLsbD alt then some alt
  else none

/-- The state with a message sent, or not sent where no route reaches its package (R372, R407). -/
def State.send (s : State) (dst : Nat) (body : MsgBody) : State :=
  if (s.route? dst).isSome then
    { s with booth := { s.booth with sent := s.booth.sent ++ [{ dst := .pkg dst, body := body }] } }
  else s

/-- The state with a message sent to the neighbour at a port, if its link is up (R408, R412). -/
def State.sendPort (s : State) (port : Nat) (body : MsgBody) : State :=
  if s.onFabric && s.fabric.up.getLsbD port then
    { s with booth := { s.booth with sent := s.booth.sent ++ [{ dst := .port port, body := body }] } }
  else s

/-! ## What waits on a borrowed line -/

/-- The state with one completion of an operation or command arrived, and its error if it has one (R326, R357, R367). -/
def State.ack (s : State) (id : Nat) (err : Option (Byte × DWord)) : State :=
  match Assoc.get? s.ops id with
  | some o =>
    let lane := match err with
      | some x => ((o.lanes.find? fun a => a.va ≤ x.2.toNat && x.2.toNat < a.va + a.len).map (·.lane)).getD 0
      | none => 0
    { s with ops := Assoc.set s.ops id { o with
        awaits := o.awaits - 1, bad := o.bad ++ err.toList.map fun x => (lane, x.1, x.2) } }
  | none => { s with
      cmds := Assoc.update s.cmds id fun c =>
        { c with awaits := c.awaits - 1, refer := match c.refer, err with
            | some f, _ => some f
            | none, some x => some { cause := x.1, faddr := x.2, pc := c.pc, engine := true, deferred := true, global := true }
            | none, none => none } }

/-- The state in which an operation or command waits for one more completion (R326). -/
def State.expect (s : State) (id : Nat) : State :=
  if (Assoc.get? s.ops id).isSome then { s with ops := Assoc.update s.ops id fun o => { o with awaits := o.awaits + 1 } }
  else { s with cmds := Assoc.update s.cmds id fun c => { c with awaits := c.awaits + 1 } }

/-- The address an operation uses in a line of a borrowed entry. -/
def State.vaOf (s : State) (id e line : Nat) : DWord :=
  match Assoc.get? s.ops id with
  | some o => BitVec.ofNat 64 (((o.lanes.find? fun a => match a.tgt with
      | .lent f off => f = e && off / 64 = line
      | _ => false).map (·.va)).getD 0)
  | none => 0

/-! ## The remote line cache (R324, R359) -/

/-- A line of the remote line cache. -/
def State.line? (s : State) (e line : Nat) : Option RlcLine :=
  s.booth.rlc.find? fun l => l.entry = e && l.line = line

/-- The state with a line removed from the remote line cache, and from the steward cache with it (R325). -/
def State.dropLine (s : State) (e line : Nat) : State :=
  { s with
    stewardLines := s.stewardLines.filter fun l => l.1 != .lent e line
    booth := { s.booth with rlc := s.booth.rlc.filter fun l => !(l.entry = e && l.line = line) } }

/-- The state with a line of the remote line cache as given. -/
def State.setLine (s : State) (l : RlcLine) : State :=
  let s := s.dropLine l.entry l.line
  { s with booth := { s.booth with rlc := l :: s.booth.rlc } }

/-- The lender's line number of a line of a borrowed entry. -/
def State.lenderLine (s : State) (e line : Nat) : Nat := (s.borrowed e).rbase / 64 + line

/-- The state without the copies of a borrowed entry's lines in L1s and in the steward cache. -/
def State.dropLentCopies (s : State) (e : Nat) : State :=
  { s with
    stewardLines := s.stewardLines.filter fun l => match l.1 with
      | .lent f _ => f != e
      | _ => true
    cores := s.cores.mapVals fun k => { k with l1 := k.l1.filter fun l => match l.tag with
      | .lent f _ => f != e
      | _ => true } }

/-- The command with a line that has come for it, if it has asked for it; one that came poisoned has no data. -/
def Cmd.receive (c : Cmd) (e line : Nat) (data : Option Line) : Cmd :=
  if c.asked.contains (e, line) then { c with asked := c.asked.erase (e, line), got := c.got ++ [((e, line), data)] } else c

/-- The command to which every line of an entry that it has asked for comes poisoned. -/
def Cmd.lose (c : Cmd) (e : Nat) : Cmd := (c.asked.filter fun l => l.1 = e).foldl (fun c l => c.receive e l.2 none) c

/-- The lender of an entry is lost: ST 5, the lines go at once, and what was outstanding completes with errors (R367). -/
def State.lenderLost (s : State) (e : Nat) : State :=
  let gone := s.booth.rlc.filter fun l => l.entry = e
  let lose := fun (p : Path) => match p.awaiting with
    | some l => if l.1 = e then p.land e l.2 none else p
    | none => p
  let s := { s.mapPaths lose with cmds := s.cmds.mapVals fun c => c.lose e }
  let s := s.modBorrowed e fun b => { b with st := 5, renewal := none, leaving := none }
  let s := { s with booth := { s.booth with rlc := s.booth.rlc.filter fun l => l.entry != e } }
  let s := gone.foldl (fun s l => l.wrs.foldl (fun s w => s.ack w.1 (some (0x0A, s.vaOf w.1 e l.line))) s) s
  s.dropLentCopies e

/-- Lines that the remote line cache holds: 128 MiB (R324). -/
def rlcLines : Nat := 2097152

/-- The state with a request of a line sent to its lender; the lender is lost where no route reaches it (R359, R367,
R407). -/
def State.ask (s : State) (e : Nat) (body : MsgBody) (l : RlcLine) : State :=
  let dst := (s.borrowed e).lend
  if (s.route? dst).isNone then s.lenderLost e
  else (s.setLine l).send dst body

/-- The borrowed line that a load finds (R359). -/
def State.lentRead? (s : State) (e line : Nat) : Option RlcLine :=
  (s.line? e line).bind fun l => if l.st = .s || l.st = .e || l.st = .mm || l.st = .sm then some l else none

/-- A line with bytes from an offset replaced. -/
def Line.patch (l : Line) (off : Nat) (bs : List Byte) : Line :=
  let old := toBytes 64 l.toNat
  BitVec.ofNat 512 (ofBytes (old.take off ++ bs ++ old.drop (off + bs.length)))

/-- The byte mask of a store. -/
def byteMask (off n : Nat) : DWord := BitVec.ofNat 64 ((2 ^ n - 1) * 2 ^ off)

/-- A borrowed line that the package may write: held in E or Mm, and no snoop of it waits for its Wrs (R358, R359). -/
def State.writable (s : State) (e line : Nat) : Bool :=
  (s.line? e line).any fun l => (l.st = .e || l.st = .mm) && (l.snoop.isNone || l.conflict)

/-- The state with a store made to a line held in E or Mm and its Wr sent (R358, R359); none where the line is not so
held, or a snoop of it waits for its Wrs. -/
def State.lentWrite? (s : State) (id e off : Nat) (bs : List Byte) : Option State :=
  match s.line? e (off / 64) with
  | none => none
  | some l =>
    if s.writable e (off / 64) then
      let l := { l with data := Line.patch l.data (off % 64) bs, st := .mm, wrs := l.wrs ++ [(id, s.clocks.nsc)], bad := l.bad && bs.length < 64 }
      some (s.ask e (.wr (s.lenderLine e l.line) (Line.patch 0 (off % 64) bs) (byteMask (off % 64) bs.length)) l)
    else none

/-- The state with a line that is held evicted (the eviction column of Table 3). -/
def State.evictLine (s : State) (l : RlcLine) : State :=
  let asks := s.ask l.entry (.evct (s.lenderLine l.entry l.line)) { l with st := .ei, since := s.clocks.nsc }
  match l.st with
  | .s => s.dropLine l.entry l.line
  | .e => asks
  | .mm => if l.wrs.isEmpty then asks else s.setLine { l with evict := true }
  | _ => s

/-- The state with a line evicted, where it is held. -/
def State.evict (s : State) (e line : Nat) : State :=
  match s.line? e line with
  | none => s
  | some l => s.evictLine l

/-- A route leads to the lender of a borrowed entry (R407). -/
def State.lenderNear (s : State) (e : Nat) : Bool := (s.route? (s.borrowed e).lend).isSome

/-- The state in which a full remote line cache makes room: it evicts the line that has been unchanged the longest among those whose
eviction loses nothing (R324; log 7). -/
def State.makeRoom (s : State) : State :=
  match (s.booth.rlc.filter fun l =>
      (l.st = .s || ((l.st = .e || (l.st = .mm && !l.evict)) && s.lenderNear l.entry)) && l.snoop.isNone).getLast? with
  | some l => s.evictLine l
  | none => s

/-- The state in which a line is on its way for a load (Table 3 of the lending chapter). An expired entry keeps no line past
its use (R357). -/
def State.wantRead (s : State) (e line : Nat) : State :=
  match s.line? e line with
  | some _ => s
  | none => if rlcLines ≤ s.booth.rlc.length then s.makeRoom else s.ask e (.rds (s.lenderLine e line))
      { entry := e, line := line, st := .is, since := s.clocks.nsc, evict := (s.borrowed e).st = 4 }

/-- The state in which a line is on its way for a store (Table 3 of the lending chapter). -/
def State.wantWrite (s : State) (e line : Nat) : State :=
  match s.line? e line with
  | none => if rlcLines ≤ s.booth.rlc.length then s.makeRoom else s.ask e (.rdown (s.lenderLine e line) true)
      { entry := e, line := line, st := .im, since := s.clocks.nsc, evict := (s.borrowed e).st = 4 }
  | some l =>
    if l.st = .s then s.ask e (.rdown (s.lenderLine e line) false) { l with st := .sm, since := s.clocks.nsc } else s

/-! ## The directory of the home (R320, R361) -/

/-- The granted or recalling lent entry that holds a physical address of the pool (R348, R350). -/
def State.lentAt? (s : State) (pa : Nat) : Option (Nat × Lent) :=
  s.booth.lent.find? fun p =>
    0x40000000000 ≤ pa && p.2.poff * 4096 ≤ pa - 0x40000000000 && pa - 0x40000000000 < p.2.poff * 4096 + 2 ^ p.2.sz

/-- The directory entry of a line; absent is I. -/
def State.dirLine (s : State) (line : Nat) : DirLine := Assoc.getD s.booth.dir line {}
/-- The state with the directory entry of a line. -/
def State.setDir (s : State) (line : Nat) (d : DirLine) : State :=
  { s with booth := { s.booth with dir := Assoc.put {} s.booth.dir line d } }

/-- A write of the home's own operation or command to a line may be made: no borrower holds it, or its turn has come
(Table 4, the local-write column). -/
def State.localTurn (s : State) (id line : Nat) : Bool :=
  match Assoc.get? s.booth.dir line with
  | none => true
  | some d => d.wait.isEmpty && (d.queue.head? = some (.local id) || (d.queue.isEmpty && d.owner.isNone && d.sharers.isEmpty))

/-! ## Registers of the hub area (R414, R426, R431, R434) -/

/-- A path of a group, resident or saved, is marked by HALT or STEP (R429). -/
def State.marked (s : State) : Bool :=
  let inGroup := fun (g : Group) => g.paths.any fun p => p.2.halt || p.2.step || p.2.stepping
  (s.cores.any fun k => k.2.slots.any fun g => inGroup g.2) || s.engine.saved.any fun v => inGroup v.2.group

/-- BUSY of DSTAT: a command whose marked path has not been held yet (R429). -/
def State.dbgBusy (s : State) : Bool := s.dbg.dstat.getLsbD 2 && s.marked

/-- A 64-bit register of the hub area. -/
inductive HubWord where
  | sstart
  | bpaddr (n : Nat) | bpctl (n : Nat) | dcmd | dstat | tbase | tsize | tptr | tdrop | trdp
  | fmctl | fmbase | fmsize | fmstat
  /-- Monitor m, the word at 8·k. -/
  | monitor (m k : Nat)
deriving DecidableEq, Repr

/-- The register at a physical address that is a multiple of 8 (R414, Table 1 of the debug chapter, R431, R434). -/
def hubWordAt (pa : Nat) : Option HubWord :=
  if pa < hubArea || hubArea + 0x10000000 ≤ pa then none
  else
    let o := pa - hubArea
    if o = 0x30000 then some .sstart
    else if 0x2000000 ≤ o && o < 0x2000000 + 0x200 * 16400 then
      if (o - 0x2000000) % 0x200 < 0x58 then some (.monitor ((o - 0x2000000) / 0x200) ((o - 0x2000000) % 0x200 / 8)) else none
    else if o < 0x1000000 then none
    else
      let d := o - 0x1000000
      if d < 0x80 then some (if d % 16 = 0 then .bpaddr (d / 16) else .bpctl (d / 16))
      else if d = 0x100 then some .dcmd
      else if d = 0x108 then some .dstat
      else if d = 0x110 then some .tbase
      else if d = 0x118 then some .tsize
      else if d = 0x120 then some .tptr
      else if d = 0x128 then some .tdrop
      else if d = 0x130 then some .trdp
      else if d = 0x140 then some .fmctl
      else if d = 0x148 then some .fmbase
      else if d = 0x150 then some .fmsize
      else if d = 0x158 then some .fmstat
      else none

/-- The monitor of a number: of a core, or of the hub (R434). -/
def State.monitor (s : State) (m : Nat) : Monitor :=
  if m < 16384 then Assoc.getD (s.core (m / 4)).monitors (m % 4) {} else Assoc.getD s.monitors (m - 16384) {}

/-- The value of a monitor's word (R434). -/
def Monitor.word (m : Monitor) (k : Nat) : DWord :=
  if k = 0 then m.msel
  else if k = 1 then m.count
  else if k = 2 then m.max ++ m.min
  else m.bins.getD (2 * (k - 3) + 1) 0 ++ m.bins.getD (2 * (k - 3)) 0

/-- The value of a register of the hub area; a write-only field reads as zero (R5, R426, R431). -/
def State.hubRead (s : State) : HubWord → DWord
  | .sstart => s.sstart
  | .bpaddr n => s.dbg.bpaddr.getD n 0
  | .bpctl n => s.dbg.bpctl.getD n 0
  | .dcmd => 0
  | .dstat => if s.dbgBusy then s.dbg.dstat else if s.dbg.dstat.getLsbD 2 then 0 else s.dbg.dstat &&& 3
  | .tbase => s.dbg.tbase
  | .tsize => s.dbg.tsize
  | .tptr => s.dbg.tptr
  | .tdrop => s.dbg.tdrop
  | .trdp => s.dbg.trdp
  | .fmctl => s.fomar.ctl
  | .fmbase => s.fomar.base
  | .fmsize => s.fomar.size
  | .fmstat => BitVec.ofNat 64 (s.fomar.cks.length % 2 ^ 32 * 2 ^ 32 + s.fomar.full.toNat)
  | .monitor m k => (s.monitor m).word k

/-! ## Reads at homes (R321, R330, R345, R346, R353) -/

/-- Why a place is not reached: a cause, with the lease that its record names; or a borrowed line that has to be waited for, by its
entry and line. -/
structure Miss where
  cause : Byte := 0
  lease : Word := 0
  waits : Option (Nat × Nat) := none
deriving DecidableEq, Repr

/-- A byte whose word is uncorrectable and that nothing has rewritten since (R345, R346). -/
def State.poisonedAt (s : State) (pa : Nat) : Bool :=
  match Assoc.get? s.ecc (pa / 8) with
  | some m => !m.getLsbD (pa % 8)
  | none => false

/-- The byte at a physical address of HBM4E or the pool (R321, R426). -/
def State.physByte (s : State) (pa : Nat) : Byte :=
  match hubWordAt (pa / 8 * 8) with
  | some r => (toBytes 8 (s.hubRead r).toNat).getD (pa % 8) 0
  | none => s.mem.read pa

/-- The bytes from a physical address upward. -/
def State.physRead (s : State) (pa n : Nat) : List Byte := (List.range n).map fun k => s.physByte (pa + k)

/-- The first byte of a range that an uncorrectable word poisons (R346). -/
def State.poisonIn (s : State) (pa n : Nat) : Option Nat := (List.range n).find? fun k => s.poisonedAt (pa + k)

/-- The parts of a range that lie in one unit of a size each: a line, a page. -/
def partsOf (unit a n : Nat) : List (Nat × Nat) :=
  (List.range ((a % unit + n + unit - 1) / unit)).map fun k =>
    let b := Nat.max a ((a / unit + k) * unit)
    (b, Nat.min (a + n) (b / unit * unit + unit) - b)

/-- Bytes of a borrowed extent in lines that are at hand, whose entry is checked; else the first part that is not reached, or that came
poisoned, with its place in the range. A line that has come for the agent's own access is taken as it came (R353, R357, R359, R360,
R367). -/
def State.lentBytes (s : State) (ctx e off n : Nat) : Except (Miss × Nat) (List Byte) :=
  (partsOf 64 off n).foldl (fun acc p => match acc with
    | .error x => .error x
    | .ok bs =>
      let cut := fun (l : Line) => bs ++ ((toBytes 64 l.toNat).drop (p.1 % 64)).take p.2
      match s.landed? e (p.1 / 64) with
      | some none => .error ({ cause := 0x09 }, p.1 - off)
      | some (some l) => .ok (cut l)
      | none => match s.leaseCause ctx e p.1 p.2 false with
        | some c => .error ({ cause := c, lease := (s.borrowed e).lid }, p.1 - off)
        | none => match s.lentRead? e (p.1 / 64) with
          | none => .error ({ waits := some (e, p.1 / 64) }, p.1 - off)
          | some l => if l.bad then .error ({ cause := 0x09 }, p.1 - off) else .ok (cut l.data)) (.ok [])

/-- Bytes at the home of a physical address that a page table gives with a lease slot: registers of the hub area, HBM4E and the
pool, or the lender's memory through the remote line cache, whose entry is checked (R318, R330, R346, R353); else why not, and the
place of the first failing byte (log 42). -/
def State.homeRead (s : State) (ctx slot pa n : Nat) : Except (Miss × Nat) (List Byte) :=
  match paClass pa with
  | .hole => .error ({ cause := 0x04 }, 0)
  | .borrowed => s.lentBytes ctx (entryOf ctx slot) (pa - 0x8000000000000) n
  | _ => match s.poisonIn pa n with
    | some k => .error ({ cause := 0x09 }, k)
    | none => .ok (s.physRead pa n)

/-- The state in which what a miss waits for has been asked for. -/
def State.fetchMiss (s : State) (m : Miss) : State :=
  match m.waits with
  | some (e, line) => s.wantRead e line
  | none => s

end Sys2Proof.Machine
end

