-- ==== Sys2Proof/Machine/Translate.lean ====
section
/-! DEFINITION. Physical address classes, page walks, permissions and cached translations (R318 to R321, R330). -/
namespace Sys2Proof.Machine

/-- The L2 slice that homes an HBM4E address (R319). -/
def sliceOf (pa : Nat) : Nat :=
  let d := pa / 0x5000000000
  let n := (pa - d * 0x5000000000) / 4096
  160 * d + n % 160

/-- The byte within the slice's channel (R319). -/
def channelAddr (pa : Nat) : Nat :=
  let d := pa / 0x5000000000
  let n := (pa - d * 0x5000000000) / 4096
  n / 160 * 4096 + pa % 4096

/-- The pool controller that homes a pool address (R320). -/
def poolController (pa : Nat) : Nat := bits pa 12 4

/-- What an access asks of a leaf (R330). -/
inductive Need where
  | read | write | modify | fetch
deriving DecidableEq, Repr

/-- A translation: the physical address and the lease slot. -/
structure Xlate where
  pa    : Nat
  slot  : Nat
  leaf  : Nat
  level : Nat
deriving DecidableEq, Repr

/-- Bytes a leaf maps at a level (Table 4; 64 KiB at level 0 with G64). -/
def leafSize (level leaf : Nat) : Nat :=
  if level = 2 then 2 ^ 30 else if level = 1 then 2 ^ 21 else if bits leaf 7 1 = 1 then 2 ^ 16 else 2 ^ 12

/-- OA of an entry (Table 5). -/
def entryOa (e : Nat) : Nat := bits e 12 40 * 4096

/-- An entry with V = 1 is malformed at a level (R330). -/
def malformed (level e : Nat) : Bool :=
  bits e 8 4 != 0 || bits e 6 1 != 0 || bits e 1 1 != 0 ||
  (bits e 2 1 == 1 && 3 ≤ level) || (bits e 2 1 == 0 && level == 0) ||
  (bits e 7 1 == 1 && level != 0) ||
  (bits e 2 1 == 1 && entryOa e % leafSize level e != 0) ||
  paClass (entryOa e) == .hole ||
  (bits e 52 12 != 0 && paClass (entryOa e) != .borrowed)

/-- The index of a VA at a level (Table 4). -/
def levelIndex (level va : Nat) : Nat := if level = 4 then bits va 48 12 else bits va (12 + 9 * level) 9

/-- An entry of a page table, read at its home (R330). -/
def State.entryAt (s : State) (ctx slot pa : Nat) : Except Miss Nat :=
  match s.homeRead ctx slot pa 8 with
  | .ok bs => .ok (ofBytes bs)
  | .error e => .error e.1

/-- An entry that is used: not valid, malformed, or read. -/
def usable (level e : Nat) : Except Miss Nat :=
  if bits e 0 1 = 0 then .error { cause := 0x20 } else if malformed level e then .error { cause := 0x04 } else .ok e

/-- The level-0 entry for a VA. `pick` settles which entry of a 64 KiB page whose sixteen entries do not agree is used. -/
def State.lastEntry (s : State) (ctx pick slot table va : Nat) : Except Miss Nat :=
  let i := bits va 12 9
  match s.entryAt ctx slot (table + 8 * i) with
  | .error m => .error m
  | .ok e =>
    let group := (List.range 16).map fun k => s.entryAt ctx slot (table + 8 * (i / 16 * 16 + k))
    let value := fun (x : Except Miss Nat) => match x with
      | .ok v => v
      | .error _ => 0
    if group.any (fun x => bits (value x) 0 1 == 1 && bits (value x) 7 1 == 1) && group.any (fun x => value x != e)
    then group.getD pick (.ok e) else .ok e

/-- The walk from a table at a level, whose entry came with a lease slot: the leaf and its level, or why there is none (R330). -/
def State.walkFrom (s : State) (ctx pick slot table va : Nat) : Nat → Except Miss (Nat × Nat)
  | 0 => match s.lastEntry ctx pick slot table va with
    | .error m => .error m
    | .ok e => (usable 0 e).map fun e => (e, 0)
  | level + 1 => match s.entryAt ctx slot (table + 8 * levelIndex (level + 1) va) with
    | .error m => .error m
    | .ok e => match usable (level + 1) e with
      | .error m => .error m
      | .ok e =>
        if bits e 2 1 = 1 then .ok (e, level + 1)
        else s.walkFrom ctx pick (bits e 52 12) (entryOa e) va level

/-- A leaf grants what an access needs (R330). -/
def leafGrants (leaf : Nat) : Need → Bool
  | .read => bits leaf 3 1 == 1
  | .write => bits leaf 4 1 == 1
  | .modify => bits leaf 3 1 == 1 && bits leaf 4 1 == 1
  | .fetch => bits leaf 5 1 == 1

/-- The cached translations of a core, or of the hub for a number from 4,096 (R271). -/
def State.tlb (s : State) (core : Nat) : List TlbEntry := if core < 4096 then (s.core core).tlb else s.hubTlb

/-- The state with the cached translations of a core, or of the hub, changed. -/
def State.modTlb (s : State) (core : Nat) (f : List TlbEntry → List TlbEntry) : State :=
  if core < 4096 then s.modCore core fun k => { k with tlb := f k.tlb } else { s with hubTlb := f s.hubTlb }

/-- The leaf for a VA of a context under a root: a cached one, or one that a walk gives. -/
def State.leafFor (s : State) (core ctx : Nat) (root : DWord) (va : Nat) : Except Miss (Nat × Nat) :=
  match (s.tlb core).find? fun e => e.ctx = ctx && e.root = root && e.page = va / 4096 with
  | some e => .ok (e.leaf.toNat, e.level)
  | none => s.walkFrom ctx (Config.pageEntry s.free).val 0 root.toNat va 4

/-- The translation of one byte's VA: cause 0x20 or 0x04 where it fails, or what the read of a table entry fails with (R330, R346, R353;
step 3 of R390). -/
def State.located (s : State) (core ctx : Nat) (root : DWord) (va : Nat) : Except Miss Xlate :=
  if 2 ^ 60 ≤ va then .error { cause := 0x04 }
  else match s.leafFor core ctx root va with
  | .error m => .error m
  | .ok (leaf, level) =>
    let pa := entryOa leaf + va % leafSize level leaf
    if paClass pa = .hole then .error { cause := 0x04 }
    else .ok { pa := pa, slot := bits leaf 52 12, leaf := leaf, level := level }

/-- The translation of one byte's VA with its permission check, which fails with cause 0x05 (R330, R415; steps 3 and 4 of R390). -/
def State.translate (s : State) (core ctx : Nat) (root : DWord) (va : Nat) (need : Need) : Except Miss Xlate :=
  match s.located core ctx root va with
  | .error m => .error m
  | .ok x =>
    if ctx != 0 && hubArea ≤ x.pa && x.pa < hubArea + 0x10000000 then .error { cause := 0x05 }
    else if leafGrants x.leaf need then .ok x
    else .error { cause := 0x05 }

/-- The state after a translation: it is cached (R330), and a free value is drawn where a walk was made. -/
def State.cacheXlate (s : State) (core ctx : Nat) (root : DWord) (va : Nat) (x : Xlate) : State :=
  if (s.tlb core).any fun e => e.ctx = ctx && e.root = root && e.page = va / 4096 then s
  else { s.modTlb core (fun l =>
    { ctx := ctx, root := root, page := va / 4096, leaf := BitVec.ofNat 64 x.leaf, level := x.level } :: l)
    with free := s.free + 1 }

/-- The state after the pages of a range have been translated: each is cached. -/
def State.cacheRange (s : State) (core ctx : Nat) (root : DWord) (va len : Nat) (need : Need) : State :=
  (partsOf 4096 va len).foldl (fun s p => match s.translate core ctx root p.1 need with
    | .error _ => s
    | .ok x => s.cacheXlate core ctx root p.1 x) s

/-- Bytes read at the homes of a range of VAs, page by page; else why not, and the first failing byte (R330, R353). -/
def State.readRange (s : State) (core ctx : Nat) (root : DWord) (va len : Nat) (need : Need) : Except (Miss × Nat) (List Byte) :=
  (partsOf 4096 va len).foldl (fun acc p => match acc with
    | .error x => .error x
    | .ok bs => match s.translate core ctx root p.1 need with
      | .error m => .error (m, p.1)
      | .ok x => match s.homeRead ctx x.slot x.pa p.2 with
        | .error (m, k) => .error (m, p.1 + k)
        | .ok new => .ok (bs ++ new)) (.ok [])

/-- The places of a range of VAs, line by line, for an agent that reads or writes them at their homes; else why not, and the first
failing byte (R330, R353). -/
def State.placesOf (s : State) (core ctx : Nat) (root : DWord) (va len : Nat) (need : Need) : Except (Miss × Nat) (List Access) :=
  (partsOf 64 va len).foldl (fun acc p => match acc with
    | .error x => .error x
    | .ok as => match s.translate core ctx root p.1 need with
      | .error m => .error (m, p.1)
      | .ok x =>
        if paClass x.pa != .borrowed then .ok (as ++ [{ lane := 0, va := p.1, len := p.2, tgt := .phys x.pa }])
        else
          let e := entryOf ctx x.slot
          let off := x.pa - 0x8000000000000
          match s.leaseCause ctx e off p.2 (need != .read) with
          | some c => .error ({ cause := c, lease := (s.borrowed e).lid }, p.1)
          | none => .ok (as ++ [{ lane := 0, va := p.1, len := p.2, tgt := .lent e off }])) (.ok [])

end Sys2Proof.Machine
end

