-- ==== Sys2Proof/Machine/Home.lean ====
section
/-! DEFINITION. Reads and writes at the home of a line, the copies that a write removes, and accesses that the
hardware itself makes (R310, R322, R325, R345, R346, R394). -/
namespace Sys2Proof.Machine

/-- The state with a byte written at its home: a word whose 8 bytes have all been rewritten is good again (R346). -/
def State.pokeByte (s : State) (pa : Nat) (b : Byte) : State :=
  { s with
    mem := s.mem.write pa b
    ecc := match Assoc.get? s.ecc (pa / 8) with
      | none => s.ecc
      | some m =>
        let m' := m ||| (1#8 <<< (pa % 8))
        if m' = 0xFF then Assoc.erase s.ecc (pa / 8) else Assoc.set s.ecc (pa / 8) m' }

/-- The state with bytes written at their homes. -/
def State.pokeBytes : State → Nat → List Byte → State
  | s, _, [] => s
  | s, pa, b :: bs => State.pokeBytes (s.pokeByte pa b) (pa + 1) bs

/-- The state without the tracked L1 copies of a line in cores other than the writing one (R310). -/
def State.dropTracked (s : State) (line : Nat) (by' : Option Nat) : State :=
  { s with cores := s.cores.map fun p =>
      if some p.1 = by' then p
      else (p.1, { p.2 with l1 := p.2.l1.filter fun l => !(l.tag == .phys line && 0 < l.scope) }) }

/-- The steward cache without a line (R325). -/
def State.dropStewardLine (s : State) (tag : LineTag) : State :=
  { s with stewardLines := s.stewardLines.filter fun l => l.1 != tag }

/-- The steward cache after a write of a line at its home: another agent's write removes the copy, and one of a steward's or of the hub die
is made in it (R325). -/
def State.trackStewards (s : State) (line : Nat) (by' : Option Nat) : State :=
  if (by'.getD 0) < 4096 then s.dropStewardLine (.phys line)
  else
    let now : Line := BitVec.ofNat 512 (ofBytes (s.mem.readN (64 * line) 64))
    { s with stewardLines := s.stewardLines.map fun l => if l.1 = .phys line then (l.1, now) else l }

/-- A context is being recorded (R432). -/
def State.recorded (s : State) (ctx : Nat) : Bool := s.fomar.ctl.getLsbD 0 && bits s.fomar.ctl.toNat 32 10 == ctx

/-- A context is being replayed. -/
def State.replayed (s : State) (ctx : Nat) : Bool := s.fomar.active && bits s.fomar.ctl.toNat 32 10 == ctx

/-- What the log names an access by: the kind and the line. -/
def Target.logged : Target → LogKind × Nat
  | .phys pa => (.mem, pa / 64)
  | .lent e off => (.borrowed e, off / 64)
  | .block _ _ ps => (.mem, (ps.head?.map (·.1)).getD 0 / 64)
  | .scratch _ a off => (.scratch a, off / 64)

/-- A place in borrowed memory. -/
def Target.isLent : Target → Bool
  | .lent _ _ => true
  | _ => false

/-- The lines that a place of so many bytes touches, as the log names them (R432). -/
def Target.lines (t : Target) (n : Nat) : List (LogKind × Nat) :=
  match t with
  | .scratch _ a off => (partsOf 64 off n).map fun p => (.scratch a, p.1 / 64)
  | t => [t.logged]

/-- The log's next entry for a place lets an access perform: it is this access's own (R433). -/
def State.replayEntry? (s : State) (ctx : Nat) (kind : LogKind) (line : Nat) : Option LogEntry :=
  if s.replayed ctx then s.fomar.replay.find? fun e => e.kind = kind && e.line = line else none

/-- An access is in turn under replay (R433). -/
def State.inTurn (s : State) (ctx uid idx lane : Nat) (kind : LogKind) (line : Nat) : Bool :=
  !s.replayed ctx || (match s.replayEntry? ctx kind line with
    | some e => e.uid == uid && e.idx == idx && e.lane == lane
    | none => false)

/-- Every line that one agent's lane touches is in turn under replay (R433). -/
def State.linesInTurn (s : State) (ctx : Nat) (who : Nat × Nat) (lane : Nat) (lines : List (LogKind × Nat)) : Bool :=
  lines.all fun l => s.inTurn ctx who.1 who.2 lane l.1 l.2

/-- What a log entry of Fomar names an agent of a group by: the path index, or a helper's thread and chunk (R432; log 71). -/
def State.logIdx (s : State) : Agent → Nat
  | .path _ _ i => i
  | .helper c n => 64 + ((s.helper? c n).map fun h => h.chunk * 128 + h.thread).getD 0
  | .steward _ => 0
/-- The same of an engine command, whose number stands for the lane. -/
def commandIdx : Nat := 32

/-- The name that an issuer's errors are held under: its group, or the steward (R194, R298). -/
def State.ownerOf (s : State) (u : Issuer) : Nat :=
  match u.agent with
  | .steward k => k
  | _ => ((s.group? u.core u.slot).map (·.uid)).getD 0

/-- What an issuer's accesses are logged as (R432). -/
def State.whoOf (s : State) (u : Issuer) : Nat × Nat := (s.ownerOf u, s.logIdx u.agent)

/-- The log of a replay has accesses of an issuer's group to a borrowed line still to come, so that the hub supplies its outcome (R433; log 105). -/
def State.supplies (s : State) (u : Issuer) (e line : Nat) : Bool :=
  s.replayed u.ctx && s.fomar.replay.any fun x =>
    x.kind = .borrowed e && x.line = line && (x.uid = u.uid || x.uid = s.ownerOf u)

/-- The state with a page marked as written by the context that Fomar records (R432). -/
def State.markDirty (s : State) (ctx pa : Nat) : State :=
  if s.recorded ctx && !s.fomar.dirty.contains (pa / 4096) then
    { s with fomar := { s.fomar with dirty := pa / 4096 :: s.fomar.dirty } }
  else s

/-- The state with bytes written at the home of a line by a core, or by another agent, whose tracked copies go first
(R310, R322, R325). -/
def State.homeWrite (s : State) (by' : Option Nat) (pa : Nat) (bs : List Byte) : State :=
  let s := s.pokeBytes pa bs
  ((List.range ((pa % 64 + bs.length + 63) / 64)).map fun k => pa / 64 + k).foldl (fun s l => (s.dropTracked l by').trackStewards l by') s

/-! ## Accesses of the hub's own (R246, R325, R361, R392, R394, R401, R430) -/

/-- The hub's name as the source of operations. -/
def hubName : Nat := 32

/-- An operation of the hub's own; those wait for one another, in the order in which the hub makes them. -/
def hubOp (ctx : Nat) (kind : OpKind) (as : List Access) : Op :=
  { kind := kind, agent := .steward 0, uid := hubName, owner := hubName, core := 4096, mask := 1, ctx := ctx, view := {}
    size := 8, order := .acq, scope := .pkg, lanes := as, todo := as }

/-- Operations of the hub's own are in flight. -/
def State.hubBusy (s : State) : Bool := s.ops.any fun p => p.2.uid == hubName

/-- The state with the hub's own writes made: at once at homes of the package that no borrower holds the line of, else by an operation
that takes its turn or goes to the lender (R358, R361; log 42). -/
def State.hubStore (s : State) (ctx : Nat) (as : List Access) : State :=
  if !s.hubBusy && as.all fun a => match a.tgt with
      | .phys pa => s.localTurn hubName (pa / 64)
      | _ => false then
    as.foldl (fun s a => match a.tgt with
      | .phys pa => (s.homeWrite none pa (toBytes a.len a.x)).markDirty ctx pa
      | _ => s) s
  else
    let (id, s) := s.freshId
    { s with ops := Assoc.set s.ops id (hubOp ctx .store as) }

/-- The state with bytes stored by the hardware at a VA of a context, or none where an access fails (R394, R400). -/
def State.hwStore (s : State) (ctx va : Nat) (bs : List Byte) : Option State :=
  match s.placesOf 4096 ctx (s.context ctx).root va bs.length .write with
  | .error _ => none
  | .ok as => some (s.hubStore ctx (as.map fun a => { a with x := ofBytes ((bs.drop (a.va - va)).take a.len) }))

/-- Bytes that the hardware reads at a VA of a context; else why not (R246). -/
def State.hwLoad (s : State) (ctx va len : Nat) : Except (Miss × Nat) (List Byte) :=
  s.readRange 4096 ctx (s.context ctx).root va len .read

/-- The state without any L1 copy of the lines of some places (R392). -/
def State.dropPlaces (s : State) (as : List Access) : State :=
  let hit := fun (l : L1Line) => as.any fun a => match a.tgt with
    | .phys pa => l.tag == .phys (pa / 64)
    | .lent e off => l.tag == .lent e (off / 64)
    | _ => false
  { s with cores := s.cores.mapVals fun k => { k with l1 := k.l1.filter fun l => !hit l } }

/-- A write of the hub's own for a context is on its way, which the handler paths of the context wait for (R392). -/
def State.hubWritesFor (s : State) (ctx : Nat) : Bool := s.ops.any fun p => p.2.uid == hubName && p.2.ctx == ctx

/-- A trace record of a path: written to the ring, or dropped when the ring is full; TSIZE 0 disables tracing. TPTR advances once the record is
written (R430). -/
def State.trace (s : State) (type c sl idx : Nat) (pc : PC) (exec : Mask) : State :=
  let d := s.dbg
  if d.tsize = 0 then s
  else if d.tsize.toNat ≤ (d.tnext - d.trdp).toNat then
    { s with dbg := { d with tdrop := if d.tdrop = 0xFFFFFFFFFFFFFFFF then d.tdrop else d.tdrop + 1 } }
  else
    let rec' := toBytes 1 type ++ toBytes 1 idx ++ toBytes 2 (gidOf c sl) ++ toBytes 4 (s.cyc c) ++ toBytes 8 pc.toNat
      ++ toBytes 16 exec.toNat
    let id := s.nextId
    let s := (s.hwStore 0 (d.tbase.toNat + d.tnext.toNat % d.tsize.toNat) rec').getD s
    let flies := (Assoc.get? s.ops id).isSome
    let next := d.tnext + 32
    { s with
      dbg := { s.dbg with
        tnext := next, tptr := if flies then d.tptr else next, traces := if flies then d.traces ++ [(id, next)] else d.traces } }

/-- The state in which a write of the hub's own has performed: TPTR follows a trace record (R430). -/
def State.traced (s : State) (id : Nat) : State :=
  match s.dbg.traces.lookup id with
  | some v => { s with dbg := { s.dbg with tptr := v, traces := s.dbg.traces.filter fun t => t.1 != id } }
  | none => s

end Sys2Proof.Machine
end

