-- ==== Sys2Proof/Machine/Lifecycle.lean ====
section
/-! DEFINITION. Barrier objects and their waking, the start of draining, the killing of groups and the end of a launch
(R206 to R209, R294 to R296, R401, R402). -/
namespace Sys2Proof.Machine

/-! ## Barrier objects (Table 3 of the memory-access chapter) -/

/-- A barrier object (R206). -/
structure Barrier where
  pend  : Nat
  init  : Nat
  pmask : Nat
  kind  : Bool
  brk   : Bool
  phase : Word
deriving DecidableEq, Repr

/-- The barrier object at index i of an allocation (R206). -/
def Alloc.barrier (a : Alloc) (i : Nat) : Barrier :=
  { pend := a.bytes.load (16 * i) 4, init := a.bytes.load (16 * i + 4) 4, pmask := a.bytes.load (16 * i + 8) 2,
    kind := bits (a.bytes.load (16 * i + 10) 1) 0 1 == 1, brk := bits (a.bytes.load (16 * i + 10) 1) 1 1 == 1,
    phase := BitVec.ofNat 32 (a.bytes.load (16 * i + 12) 4) }

/-- The allocation with a barrier object written (R206). -/
def Alloc.setBarrier (a : Alloc) (i : Nat) (b : Barrier) : Alloc :=
  { a with
    bytes := a.bytes.writeN (16 * i)
      (toBytes 4 b.pend ++ toBytes 4 b.init ++ toBytes 2 b.pmask
        ++ toBytes 1 (b.kind.toNat + 2 * b.brk.toNat) ++ [0] ++ toBytes 4 b.phase.toNat) }

/-- A path parked on an object that a change lets go: BRK is 1 or PHASE has left the value it waits on (R207). -/
def Path.wakeFor (p : Path) (i : Nat) (b : Barrier) (forced : Bool) : Path :=
  match p.parked with
  | some (j, ph) =>
    if i = j && p.woken.isNone && (forced || b.brk || b.phase != ph) then { p with woken := some (forced || b.brk) }
    else p
  | none => p

/-- The state with the helpers that a test picks marked to leave at their next clause boundary (R186). -/
def State.releaseHelpers (s : State) (c : Nat) (pick : Helper → Bool) : State :=
  s.modCore c fun k => { k with helpers := k.helpers.mapVals fun h => if pick h then { h with leaving := true } else h }

/-- A group is parked: every path of it waits in `bar.wait` or `rclaim` (R180, R209). -/
def Group.parked (g : Group) : Bool :=
  !g.paths.isEmpty && g.paths.all fun p =>
    p.2.woken.isNone && (p.2.phase = .stalled .barrier || p.2.phase = .stalled .claim)

/-- A group, as it stood before, wakes with one of its paths: where it was parked, the helpers that borrow its threads leave at their next
clause boundary (R186, R209). -/
def State.groupWoke (s : State) (c sl : Nat) (before : Option Group) : State :=
  if before.any Group.parked then s.releaseHelpers c fun h => h.lentSlot = sl && !h.self else s

/-! ## Claims (R212) -/

/-- The state with `n` units granted to the group of a slot (R212). -/
def State.grantUnits (s : State) (c sl n : Nat) : State :=
  (s.modCore c fun k => { k with free := k.free - n }).modGroup c sl fun g => { g with w := g.w + 8 * n }

/-- The state with the oldest waiting claim of a core granted; none where too few units are free (R212). -/
def State.grantOldest (s : State) (core : Nat) : Option State :=
  match (s.core core).claims with
  | [] => none
  | cl :: rest =>
    if cl.n ≤ (s.core core).free then
      let before := s.group? core cl.slot
      let s := (s.modCore core fun k => { k with claims := rest }).grantUnits core cl.slot cl.n
      some ((s.modPath (.path core cl.slot cl.path) fun p => { p with woken := some false }).groupWoke core cl.slot before)
    else none

/-- The state with the waiting claims of a core granted in order as far as the free units go, at most so many (R212, R295). -/
def State.grantClaims (s : State) (core : Nat) : Nat → State
  | 0 => s
  | n + 1 => match s.grantOldest core with
    | some s' => s'.grantClaims core n
    | none => s

/-! ## Waking -/

/-- The state with the paths parked on an object checked again after a change to it; `forced` wakes them all with BRK
seen as 1, as `bar.init` does (R207). -/
def State.wakeBarrier (s : State) (c al i : Nat) (b : Barrier) (forced : Bool) : State :=
  (s.core c).slots.foldl (fun s e =>
    if e.2.alloc = al && e.2.paths.any fun p => (p.2.wakeFor i b forced).woken != p.2.woken then
      (s.modGroup c e.1 fun g => { g with paths := g.paths.mapVals fun p => p.wakeFor i b forced }).groupWoke c e.1 (some e.2)
    else s) s

/-- The state with a barrier object changed, and the paths parked on it checked again. -/
def State.setBarrier (s : State) (c al i : Nat) (b : Barrier) : State :=
  (s.modAlloc c al fun a => a.setBarrier i b).wakeBarrier c al i b false

/-- An object after `n` arrivals or bytes: at zero the phase advances (R207). -/
def Barrier.arrive (b : Barrier) (n : Nat) : Barrier :=
  if b.brk || b.pend = 0 then b
  else if b.pend ≤ n then { b with pend := b.init, phase := b.phase + 1 }
  else { b with pend := b.pend - n }

/-! ## Draining (R294) and killing (R296) -/

/-- The state with every object that a slot takes part in broken (R208). -/
def State.breakBarriers (s : State) (c sl : Nat) (g : Group) : State :=
  match s.alloc? c g.alloc with
  | none => s
  | some a => (List.range a.bars).foldl (fun s i =>
      let b := a.barrier i
      if b.pmask.testBit sl && !b.brk then s.setBarrier c g.alloc i { b with brk := true } else s) s

/-- The state with errors of a launch counted while it drains: EDERR, and EDADDR for the first (R402). -/
def State.countErrors (s : State) (launch : Nat) (fs : List FaultInfo) : State :=
  match fs with
  | [] => s
  | f :: _ => { s with
    engine := { s.engine with
      running := Assoc.update s.engine.running launch fun r =>
      { r with ederr := r.ederr + fs.length, edaddr := if r.ederr = 0 then f.faddr else r.edaddr } } }

/-- The error of a load whose poisoned lanes have not been raised (R194, R402). -/
def Poison.error? (q : Poison) : Option FaultInfo :=
  q.lanes.head?.map fun x => { cause := x.2.1, faddr := x.2.2, pc := q.pc, deferred := true }

/-- A group of a core enters Draining (R294, R397, R399). -/
def State.enterDraining (s : State) (c sl : Nat) : State :=
  match s.group? c sl with
  | none => s
  | some g =>
    let s := s.releaseHelpers c fun h => h.lentSlot = sl && !h.self
    let s := s.breakBarriers c sl g
    let s := s.modCore c fun k => { k with claims := k.claims.filter fun cl => cl.slot != sl }
    let s := s.countErrors g.launch (g.deferred ++ g.poison.filterMap Poison.error?)
    s.modGroup c sl fun g => { g with life := .draining, stopping := false, acc := [], deferred := [], poison := [], uip := 0, live := 0 }

/-- A group without a valid path, and without a helper that still runs for it, enters Draining (R165, R181, R296). -/
def State.checkDraining (s : State) (c sl : Nat) : State :=
  match s.group? c sl with
  | some g =>
    if g.paths.isEmpty && g.life = .resident && !((s.core c).helpers.any fun h => h.2.slot = sl) then s.enterDraining c sl else s
  | none => s

/-- A killed path that a kill leaves to the end of its clause: it is issuing its words (R296). -/
def Path.finishesClause (p : Path) : Bool := p.phase = .issuing

/-- The ring slots still held by handler paths of a context. -/
def State.heldSlots (s : State) (ctx : Nat) : List Nat :=
  let ofGroup := fun (g : Group) => if g.ctx = ctx then g.paths.vals.filterMap fun p => p.handler.map (·.slot) else []
  (s.cores.vals.flatMap fun k => k.slots.vals.flatMap ofGroup) ++ s.engine.saved.vals.flatMap fun v => ofGroup v.group

/-- The state with BUSY of a context holding exactly the slots of its handler paths, its word written again when it
changes (R394). -/
def State.refreshBusy (s : State) (ctx : Nat) : State :=
  let held := s.heldSlots ctx
  let busy : DWord := BitVec.ofNat 64 ((List.range 64).foldl (fun n i => if held.contains i then n + 2 ^ i else n) 0)
  if busy = (s.context ctx).busy then s
  else
    let s := s.modContext ctx fun k => { k with busy := busy }
    (s.hwStore ctx (s.context ctx).tarea.toNat (toBytes 8 busy.toNat)).getD s

/-- The state with a group of a core killed (R296): paths not inside a clause go at once, and no chunk of its recruitments is taken any
more (R186). -/
def State.killGroup (s : State) (c sl : Nat) : State :=
  match s.group? c sl with
  | none => s
  | some g =>
    if g.life = .draining then s.modGroup c sl fun g => { g with killed := true }
    else
      let s := s.releaseHelpers c fun h => h.slot = sl
      let s := s.modCore c fun k => { k with claims := k.claims.filter fun cl => cl.slot != sl }
      -- a helper inside its clause issues the rest of it too, and one at a boundary or stalled is removed, with errors to be counted
      let lost := ((s.core c).helpers.vals.filter fun h => h.slot = sl && !h.path.finishesClause).flatMap fun h =>
        h.path.poison.filterMap Poison.error?
      let s := s.modCore c fun k => { k with helpers := k.helpers.filter fun h => h.2.slot != sl || h.2.path.finishesClause }
      let s := s.modGroup c sl fun g =>
        { g with
          killed := true
          deferred := g.deferred ++ lost
          recruits := g.recruits.mapVals fun r => { r with failed := true }
          paths := g.paths.filter fun p => p.2.finishesClause }
      (s.refreshBusy g.ctx).checkDraining c sl

/-- A field of a command's record. -/
def Cmd.field (c : Cmd) (off n : Nat) : Nat := valueAt c.rec' off n

/-- A command of a submission slot (R417). -/
def Cmd.ofSlot (c : Cmd) : Bool := c.slot.isSome

/-- The output tag of a command, if it produces one (R226). -/
def Cmd.outTag (c : Cmd) : List Nat :=
  match c.kind with
  | .tile => if bits (c.field 0x2D 1) 3 1 = 1 then [c.field 0x2C 1] else []
  | .copy => if !c.ofSlot && bits (c.field 3 1) 3 1 = 1 then [c.field 8 1] else []
  | .svc => []

/-- A copy that neither touches scratchpad nor signals a barrier: it runs on while its group is off the core (R382). -/
def Cmd.runsOn (c : Cmd) : Bool := c.kind = .copy && bits (c.field 1 1) 0 3 = 0 && c.field 0 1 != 3

/-- The groups of a launch in slots of cores. -/
def State.groupsOf (s : State) (pick : Group → Bool) : List (Nat × Nat) :=
  s.cores.flatMap fun k => (k.2.slots.filter fun p => pick p.2).map fun p => (k.1, p.1)

/-- LID of a launch, which is running as long as a group of it has not retired (R245, R396). -/
def State.lidOf (s : State) (launch : Nat) : Nat := ((Assoc.get? s.engine.running launch).map fun r => r.lid.toNat).getD 0

/-- The end of a launch begins: the end fields are written, its groups killed, its saved groups and waiting units
dropped (R401). A launch already ending only notes who asked. -/
def State.endLaunch (s : State) (launch : Nat) (ecause en : Byte) (egid : Nat) (epc : PC) (slot : Option Nat) : State :=
  match Assoc.get? s.engine.running launch with
  | none => s
  | some r =>
    match r.ending with
    | some e =>
      { s with
        engine := { s.engine with
          running := Assoc.set s.engine.running launch
            { r with ending := some { e with slots := e.slots ++ slot.toList } } } }
    | none =>
      let base := (s.context r.ctx).tarea.toNat
      let s := (s.hwStore r.ctx (base + 0x10)
        (toBytes 8 r.lid.toNat ++ [ecause, en] ++ toBytes 2 egid)).getD s
      let s := (s.hwStore r.ctx (base + 0x20) (toBytes 8 epc.toNat)).getD s
      let saved := s.engine.saved.filter fun v => v.2.group.launch = launch
      let gone := saved.length
      let waiting := s.engine.queues.vals.flatMap fun q => q.filter fun l => l.id = launch
      -- groups of the record that are not placed leave the count with the record
      let placedOnly := (s.groupsOf fun g => g.launch = launch).length
      -- the commands of a discarded group go with it, but for its running copies (R385)
      let s := { s with
        cmds := s.cmds.filter fun p => p.2.runsOn || !saved.any fun v => v.1 = p.2.uid
        engine := { s.engine with
        saved := s.engine.saved.filter fun v => v.2.group.launch != launch
        queues := s.engine.queues.mapVals fun q => q.filter fun l => l.id != launch
        running := Assoc.set s.engine.running launch
          { r with
            left := if waiting.isEmpty then r.left - gone else placedOnly
            ending := some { ecause := ecause, en := en, slots := slot.toList, asked := slot.isSome } } } }
      ((s.groupsOf fun g => g.launch = launch).foldl (fun s p => s.killGroup p.1 p.2) s).refreshBusy r.ctx

/-- Every launch of a context ends (R276, R400, R401). -/
def State.endLaunches (s : State) (ctx : Nat) (ecause : Byte) : State :=
  (s.engine.running.filter fun r => r.2.ctx = ctx).foldl (fun s r => s.endLaunch r.1 ecause 0 0 0 none) s

end Sys2Proof.Machine
end

