-- ==== Sys2Proof/Machine/Ops.lean ====
section
/-! DEFINITION. Advancing, ending and stalling a clause; taking an exception on a path, a helper or a steward, and
returning from one; the checks of R66 before an instruction takes effect. -/
namespace Sys2Proof.Machine

/-! ## Advancing (R52, R54, R56, R71, R377, R379) -/

/-- A path that yields, or whose group does: ready from the next cycle and not aged (R377). -/
def Path.yielded (p : Path) (cycle : Nat) : Path := { p with readyAt := cycle + 1, aged := false }

/-- The state after a yield of a path or a helper of the group in a slot: each path of the group, and each helper that runs for it,
has yielded (R298, R377). -/
def State.yieldSlot (s : State) (c sl : Nat) : State :=
  s.modCore c fun k => { k with
    slots := Assoc.update k.slots sl fun g => { g with paths := g.paths.mapVals fun p => p.yielded (s.cyc c) }
    helpers := k.helpers.mapVals fun h => if h.slot = sl then { h with path := h.path.yielded (s.cyc c) } else h }

/-- The state after a yield of an agent (R54, R377). -/
def State.yieldGroup (s : State) (a : Agent) : State :=
  match a with
  | .path c sl _ => s.yieldSlot c sl
  | .helper c n => match s.helper? c n with
    | some h => s.yieldSlot c h.slot
    | none => s
  | .steward _ => s

/-- A word with bytes replaced. -/
def patchWord (w : Word) (lo : Nat) (bs : List Byte) : Word :=
  let old := toBytes 4 w.toNat
  BitVec.ofNat 32 (ofBytes ((old.take lo ++ bs ++ old.drop (lo + bs.length)).take 4))

/-- The state with the stores held for the registers of some threads applied, in the order in which they performed (R34). -/
def State.applyHeld (s : State) (c sl : Nat) (members : Mask) : State :=
  match s.group? c sl with
  | none => s
  | some g =>
    let mine := g.heldStores.filter fun h => members.getLsbD h.thread
    let v := mine.foldl (fun v h =>
      let key := 128 * h.reg + h.thread
      Assoc.put 0 v key (patchWord (Assoc.getD v key 0) h.lo h.bytes)) g.v
    s.setGroup c sl { g with v := v, heldStores := g.heldStores.filter fun h => !members.getLsbD h.thread }

/-- The threads that are members of a path: in exec or waiting in its stack (R17). -/
def Path.members (p : Path) : Mask := p.recon.foldl (fun m e => m ||| e.mask) p.exec

/-- An agent's path leaves its clause, for good or at a stall halt: its writes are visible, and the stores held for its threads are
applied after them (R34, R51, R71). -/
def State.leaveClause (s : State) (a : Agent) : State :=
  match a, s.path? a with
  | .path c sl _, some p => (s.commit a).applyHeld c sl p.members
  | _, _ => s.commit a

/-- The state at the end of an agent's clause: its writes are visible, the PC is at a header, and the clause is left
(R56, R71); a clause with Y set yields (R54). -/
def State.endClause (s : State) (u : Issuer) (next : PC) : State :=
  let s := (s.leaveClause u.agent).modPath u.agent fun p =>
    { p.unlanded with pc := next, phase := .boundary, clause := {}, present := false, parked := none, woken := none, counted := false }
  if u.path.clause.header.getLsbD 36 then s.yieldGroup u.agent else s

/-- The passes in which an instruction issues: one for each eighth that has a thread in exec (R13). -/
def passes (exec : Mask) : Nat := ((List.range 8).filter fun e => bits exec.toNat (16 * e) 16 != 0).length

/-- The path at the next word of its clause, `sc + 1` slots on (R13, R68). -/
def Path.nextWord (p : Path) (sc : Nat) : Path :=
  let p := { p with dist := p.dist + sc + 1, spent := p.spent + passes p.exec + sc, clause := { p.clause with idx := p.clause.idx + 1 } }
  { p.unlanded with pc := p.wordAddr, phase := .issuing, parked := none, woken := none, counted := false }

/-- The state after an instruction that does not transfer control: the next word, or the end of the clause (R56, R68). -/
def State.retire (s : State) (u : Issuer) (sc : Fin 16) : State :=
  if u.path.clause.idx + 1 < u.path.clause.words.length then (s.modPath u.agent fun p => p.nextWord sc.val).reach u.agent
  else s.endClause u u.path.nextClause

/-- The group of a path, or of a recruiter in helper mode, is being pre-empted, so that the path goes no further (R382). -/
def State.stopped (s : State) : Agent → Bool
  | .path c sl _ => ((s.group? c sl).map fun g => g.stopping && !g.killed).getD false
  | .helper c n => match s.helper? c n with
    | some h => h.self && ((s.group? c h.slot).map fun g => g.stopping && !g.killed).getD false
    | none => false
  | .steward _ => false

/-- The state with a path stalled where it stands. Under a pre-emption of its group it halts there: with its region committed that is a
stall halt, else the saving discards its work since region entry (R51, R379, R382; State.saveGroup). -/
def State.stallAt (s : State) (a : Agent) (why : Stall) : State :=
  let s := s.modPath a fun p => { p with phase := .stalled why, awaiting := (why.line? <|> p.awaiting) }
  if s.stopped a then s.leaveClause a else s

/-! ## Fault records (R389, R394, R396) -/

/-- A cause that is restartable where its region has not committed (R389). -/
def FaultInfo.restartable (f : FaultInfo) : Bool := 0x20 ≤ f.cause.toNat && f.cause.toNat ≤ 0x24 && !f.deferred

/-- The fault a lane takes on a path: a restartable cause in a committed region becomes non-restartable region (R177). -/
def FaultInfo.settle (f : FaultInfo) (rgc : Bool) : FaultInfo :=
  if f.restartable && rgc then { f with cause := 0x0E, ucause := f.cause } else f

/-- The fields of a record beside the fault itself (Table 3 of the fault chapter). -/
structure RecordOf where
  flags  : Nat
  path   : Nat
  thread : Nat
  gid    : Nat
  rgpc   : PC
  launch : Nat
  mask   : Mask
deriving DecidableEq, Repr

/-- The 64 bytes of a fault record (R396). -/
def recordBytes (f : FaultInfo) (r : RecordOf) : List Byte :=
  [f.cause, BitVec.ofNat 8 r.flags, BitVec.ofNat 8 r.path, BitVec.ofNat 8 r.thread] ++ toBytes 2 r.gid
    ++ [f.ucause, 0] ++ toBytes 8 f.pc.toNat ++ toBytes 8 f.faddr.toNat ++ toBytes 8 r.rgpc.toNat
    ++ toBytes 4 f.lease.toNat ++ toBytes 4 (f.chunk.getD 0xFFFFFFFF) ++ toBytes 8 r.launch ++ toBytes 16 r.mask.toNat

/-- The lowest clear ring slot of a context (R394). -/
def State.freeSlot (s : State) (ctx : Nat) : Option Nat :=
  (List.range 64).find? fun i => !(s.context ctx).busy.getLsbD i

/-- The state with BUSY, SEQ and SWAIT of a context written to its trap area; none where a write fails (R394). -/
def State.writeTrapWords (s : State) (ctx : Nat) : Option State :=
  let k := s.context ctx
  s.hwStore ctx k.tarea.toNat (toBytes 8 k.busy.toNat ++ toBytes 4 k.seq.toNat ++ toBytes 4 k.swait.toNat)

/-- The state with a record in a ring slot, which it takes; none where a write fails (R392, R394). -/
def State.writeRecord (s : State) (ctx slot : Nat) (rec' : List Byte) : Option State :=
  let va := (s.context ctx).tarea.toNat + 0x1000 + 64 * slot
  match s.placesOf 4096 ctx (s.context ctx).root va 64 .write, s.hwStore ctx va rec' with
  | .ok as, some s =>
    ((s.dropPlaces as).modContext ctx fun k => { k with busy := k.busy ||| (1#64 <<< slot), seq := k.seq + 1 }).writeTrapWords ctx
  | _, _ => none

/-- A context ends with trap-area fault: a last record, then the end of all its launches (R400). -/
def State.endContext (s : State) (ctx : Nat) (nested : Bool) (f : FaultInfo) (r : RecordOf) : State :=
  if (s.context ctx).ended then s
  else
    let slot := (s.freeSlot ctx).getD 0
    let fatal := { f with cause := 0x12, ucause := f.cause }
    let flags := (if nested then 4 else 0) + (if f.deferred then 8 else 0)
    let s := s.modContext ctx fun k => { k with ended := true }
    let s := match s.hwStore ctx ((s.context ctx).tarea.toNat + 0x1000 + 64 * slot) (recordBytes fatal { r with flags := flags }) with
      | none => s
      | some s =>
        let s := s.modContext ctx fun k => { k with seq := k.seq + 1 }
        (s.writeTrapWords ctx).getD s
    s.endLaunches ctx 0x12

/-- An address in the trap area of a context (R394, R395). -/
def State.inTrapArea (s : State) (ctx va : Nat) : Bool :=
  let base := (s.context ctx).tarea.toNat
  base ≤ va && va < base + 0x420000

/-! ## Events (R418) -/

/-- A message to the host on vsock port 1002 (R422). -/
def State.tellHost (s : State) (bytes : List Byte) : State :=
  { s with booth := { s.booth with sent := s.booth.sent ++ [{ dst := .host none, body := .toHost bytes }] } }

/-- An event as FETCH gives it (R418). -/
def QEvent.bytes (e : QEvent) : List Byte := toBytes 4 e.cls ++ toBytes 4 e.handle ++ toBytes 8 e.ctx ++ e.body

/-- An event queued under a fresh handle (R418), or sent to the host as FETCH would give it, where its function is
host-assisted (R422). -/
def State.postEvent (s : State) (cls ctx : Nat) (body : List Byte) (host : Bool) : State :=
  let e : QEvent := { cls := cls, handle := s.engine.nextHandle, ctx := ctx, body := body }
  let s := { s with engine := { s.engine with nextHandle := s.engine.nextHandle + 1 } }
  if host then { s with engine := { s.engine with fetched := Assoc.set s.engine.fetched e.handle cls } }.tellHost e.bytes
  else { s with engine := { s.engine with events := s.engine.events ++ [e] } }

/-- A restartable fault queued for service (R418). -/
def State.postFault (s : State) (ctx : Nat) (rec' : List Byte) : State :=
  s.postEvent 0 ctx (List.replicate 0x30 0 ++ rec') (s.hmode.getLsbD 0)

/-! ## Taking an exception on a steward (R273) -/

/-- A steward enters supervisor level: the level and IE are saved in SSTAT, the PC in SEPC, and it goes on at SVEC
(R273). -/
def State.stewardEnter (s : State) (k : Nat) (epc : DWord) (cause : Nat) (tval : DWord) : State :=
  let s := s.commit (.steward k)
  s.modSteward k fun w =>
    let ie := bits w.sstat.toNat 0 1
    let uctx := bits w.sstat.toNat 16 10
    { w with
      sstat := BitVec.ofNat 64 (uctx * 2 ^ 16 + ie * 8 + w.sup.toNat * 4 + w.sup.toNat * 2)
      sepc := epc
      scause := BitVec.ofNat 32 cause
      stval := tval
      sup := true
      path := { w.path with pc := w.svec.setWidth 60, phase := .boundary, clause := {}, present := false, parked := none, woken := none } }

/-! ## Taking an exception on a path (R177, R391 to R394, R400) -/

/-- The state with the writes of a path to its v registers in some lanes taken into the register file (R71). -/
def State.commitLanes (s : State) (a : Agent) (p : Path) (lanes : List Nat) : State :=
  p.pend.foldl (fun s w => match w.reg with
    | .v n => (w.vals.filter fun x => lanes.contains x.1).foldl (fun s x => s.putV a n x.1 (x.2.setWidth 32)) s
    | _ => s) s

/-- fmt with every `fmtset` issued so far applied (R71, R106). -/
def Path.lastFmt (p : Path) : DWord :=
  p.pend.foldl (fun f w => if w.reg = .fmt then (w.vals.head?.map (·.2)).getD f else f) p.fmt

/-- The writes to g registers that a path that splits off sees from its first instruction (R71; log 20). -/
def Path.groupWrites (p : Path) : List PendWrite :=
  p.seen ++ p.pend.filter fun w => match w.reg with | .g _ => true | _ => false

/-- Where the threads that split off a path come from: of a load that its clause issued before the split they see the result too
(R71). -/
def Path.springs (p : Path) (idx seq : Nat) : List (Nat × Nat × Nat) :=
  if p.clause.words.isEmpty then p.sprung else p.sprung ++ [(idx, p.began, seq)]

/-- The writes that stay in flight on a path some lanes of which have split off. -/
def Path.withoutLanes (p : Path) (lanes : List Nat) : Path :=
  { p with pend := p.pend.map fun w => match w.reg with
      | .v _ => { w with vals := w.vals.filter fun x => !lanes.contains x.1 }
      | _ => w }

/-- What a handler path saves of the faulting path (R270). -/
def Path.saved (p : Path) : Saved :=
  { fmt := p.lastFmt, loops := p.loops, rgpc := p.rgpc, rgc := p.rgc, snap := p.snap }

/-- A handler path at its entry (R392, R394). -/
def handlerPath (k : Context) (p : Path) (mask : Mask) (slot : Nat) (sprung : List (Nat × Nat × Nat)) : Path :=
  { pc := k.handler.setWidth 60, exec := mask, fmt := p.lastFmt, lvl := true, rgpc := k.handler.setWidth 60,
    snap := { fmt := p.lastFmt, loops := [] },
    handler := some { slot := slot, tfr := k.tarea + BitVec.ofNat 64 (0x1000 + 64 * slot),
                      tstk := k.tarea + BitVec.ofNat 64 (0x30000 + 0x10000 * slot), saved := p.saved },
    phase := .boundary, view := p.view, seen := p.groupWrites, sprung := sprung, stepping := p.step || p.stepping }

/-- A restartable path that waits for service (R177): it keeps the region state of the path it left. -/
def heldPath (p : Path) (mask : Mask) (handle : Nat) (f : FaultInfo) (sprung : List (Nat × Nat × Nat)) : Path :=
  { p with
    exec := mask, recon := [], phase := .held handle f, clause := {}, pend := [], seen := p.groupWrites, sprung := sprung, dist := 0, spent := 0,
    fmt := p.lastFmt, parked := none, woken := none, present := false, counted := false }

/-- The path a serviced restartable path becomes: at its region entry with its snapshot (R177 step 2). -/
def Path.restart (p : Path) : Path :=
  { p.unlanded with
    pc := p.rgpc, fmt := p.snap.fmt, loops := p.snap.loops, phase := .boundary, clause := {}, dist := 0, spent := 0, parked := none
    woken := none, present := false, counted := false, pend := [], passed := false }

/-- A helper restarted: at its region entry, with its v registers kept (R177); at the entry point of its chunk the chunk starts
again, with v0 to v15 zero (R181, R187; log 84). -/
def Helper.restart (h : Helper) (g : Option Group) : Helper :=
  let again := ((g.bind fun g => Assoc.get? g.recruits h.thread).map fun q => decide (q.entry = h.path.rgpc)).getD false
  { h with path := h.path.restart, v := if again then [] else h.v, part := if again then none else h.part }

/-- The state with a path of a group, or a helper, restarted (R177, R187). -/
def State.restart (s : State) (a : Agent) : State :=
  match a with
  | .helper c n => s.modHelper c n fun h => h.restart (s.group? c h.slot)
  | _ => s.modPath a Path.restart

/-- What remains of a path whose exec has split off while threads wait in its reconvergence stack: at a boundary with
an empty exec (R391). -/
def Path.emptied (p : Path) : Path :=
  { p with exec := 0, phase := .boundary, clause := {}, pend := [], dist := 0, spent := 0, parked := none, woken := none,
           present := false, counted := false }

/-- How a split of the faulting lanes of a path comes out. -/
inductive SplitPlan where
  /-- No split: the path stalls until so many entries, and a ring slot if the flag says so, are free (R391). -/
  | wait (entries : Nat) (slot : Bool)
  /-- The whole path becomes the restartable path (R177, R391). -/
  | whole
  /-- The entries of the restartable and of the handler path, and the ring slot. -/
  | go (restart handler : Option Nat) (slot : Nat)
deriving DecidableEq, Repr

/-- Which path entries and which ring slot a split takes (R391). -/
def planSplit (paths : Assoc Path) (idx : Nat) (emptyRecon wholeExec anyRestart anyHandler : Bool)
    (slot : Option Nat) : SplitPlan :=
  let gives := emptyRecon && wholeExec
  let free := (List.range 16).filter fun i => (Assoc.get? paths i).isNone
  let rNew := anyRestart && !gives
  let hNew := anyHandler && !(gives && !anyRestart)
  let need := rNew.toNat + hNew.toNat
  if anyHandler && (free.length < need || slot.isNone) then .wait need true
  else if free.length < need then (if emptyRecon then .whole else .wait need false)
  else
    let r := if !anyRestart then none else if rNew then free.head? else some idx
    let h := if !anyHandler then none else if !hNew then some idx else if rNew then free[1]? else free.head?
    .go r h (slot.getD 0)

/-- FLAGS of a record of a path's fault (R396). -/
def recordFlags (f : FaultInfo) (helper nested restart : Bool) : Nat :=
  (if restart then 1 else 0) + (if helper then 2 else 0) + (if nested then 4 else 0) + (if f.deferred then 8 else 0)
    + (if f.mixed then 16 else 0) + (if f.engine then 32 else 0)

/-- The fault that the record of some lanes describes, marked where others have another cause (R393). -/
def mixedFault (l : List (Nat × FaultInfo)) (f : FaultInfo) : FaultInfo := { f with mixed := f.mixed || l.any fun y => y.2.cause != f.cause }

/-- The fields of the record of a path's fault beside the fault itself (R239, R391, R396, R398; log 77). -/
def State.recordOf (s : State) (u : Issuer) (c sl : Nat) (lanes : List Nat) (x : Nat × FaultInfo) : RecordOf :=
  let helper := x.2.chunk.isSome
  { flags := recordFlags x.2 helper u.path.lvl (!u.path.rgc && 0x20 ≤ x.2.cause.toNat && x.2.cause.toNat ≤ 0x24)
    path := if helper then 16 else x.2.origin.getD u.idx, thread := if x.2.engine then x.2.thread else x.1, gid := gidOf c sl
    rgpc := u.path.rgpc, launch := s.lidOf u.launch, mask := maskOf (if helper then [x.1] else lanes) }

/-- The restartable lanes of a path become a path that waits for service (R177, R418). -/
def State.holdLanes (s : State) (u : Issuer) (c sl entry : Nat) (lanes : List Nat) (f : FaultInfo) : State :=
  let mask := maskOf lanes
  let f := { f with origin := some u.idx }
  let rec' := recordBytes f (s.recordOf u c sl lanes (lanes.headD 0, f))
  let handle := s.engine.nextHandle
  (s.modGroup c sl fun g => { g with
    paths := Assoc.set g.paths entry { heldPath u.path mask handle f (u.path.springs u.idx (s.seqOf u.agent).seq) with halt := entry = u.idx && u.path.halt } }).postFault u.ctx rec'

/-- A fault of a killed group is dropped, and the faulting lanes leave their path with it; the flag says that other lanes go
on (R296, R401). -/
def State.dropLanes (s : State) (u : Issuer) (c sl : Nat) (out : List Nat) : State × Bool :=
  let rest := (bitsOf u.path.exec u.width).filter fun t => !out.contains t
  if (s.path? u.agent).isNone then (s, false)
  else if rest.isEmpty then
    ((((s.commit u.agent).modGroup c sl fun g => { g with paths := Assoc.erase g.paths u.idx }).refreshBusy u.ctx).checkDraining c sl, false)
  else ((s.commitLanes u.agent u.path out).setPath u.agent { u.path.withoutLanes out with exec := maskOf rest }, true)

/-- The state in which a path waits for a ring slot for a handler split: SWAIT counts it, once (R391, R394). -/
def State.countWait (s : State) (a : Agent) (ctx : Nat) : State :=
  if (s.freeSlot ctx).isSome || (s.path? a).all (·.counted) then s
  else
    let s := (s.modPath a fun p => { p with counted := true }).modContext ctx fun k =>
      { k with swait := if k.swait = 0xFFFFFFFF then k.swait else k.swait + 1 }
    (s.writeTrapWords ctx).getD s

/-- Lanes of a path of a group fault: they split into a restartable and a handler path, or the path stalls, or the
context ends (R177, R391 to R393, R400); in a killed group they are dropped (R401). The flag says that the other lanes go on
with the instruction. -/
def State.splitGroup (s : State) (u : Issuer) (c sl : Nat) (faults : List (Nat × FaultInfo)) (refer : Bool) :
    State × Bool :=
  match s.group? c sl with
  | none => (s, false)
  | some g =>
    let faults := faults.map fun x => (x.1, if refer then x.2 else x.2.settle u.path.rgc)
    let rs := faults.filter fun x => x.2.restartable && !refer
    let hs := faults.filter fun x => !(x.2.restartable && !refer)
    let restLanes := (bitsOf u.path.exec u.width).filter fun t => !faults.any fun x => x.1 == t
    let sprung := u.path.springs u.idx (s.seqOf u.agent).seq
    let bad := fun (x : Nat × FaultInfo) =>
      (u.path.lvl && (!x.2.restartable || refer)) || (x.2.global && s.inTrapArea u.ctx x.2.faddr.toNat)
    if g.killed then s.dropLanes u c sl (faults.map (·.1))
    else match faults.find? bad with
    | some x =>
      (s.endContext u.ctx u.path.lvl x.2 (s.recordOf u c sl ((faults.filter bad).map (·.1)) x)).dropLanes u c sl (faults.map (·.1))
    | none =>
      match planSplit g.paths u.idx u.path.recon.isEmpty restLanes.isEmpty (!rs.isEmpty) (!hs.isEmpty) (s.freeSlot u.ctx) with
      | .wait entries slot =>
        let s := s.stallAt u.agent (.split entries slot)
        (if slot then s.countWait u.agent u.ctx else s, false)
      | .whole =>
        let lanes := bitsOf u.path.exec u.width
        let s := s.leaveClause u.agent
        match rs.head? with
        | none => (s, false)
        | some x => (s.holdLanes u c sl u.idx lanes (mixedFault rs x.2), false)
      | .go r h slot =>
        let out := faults.map (·.1)
        let s := (s.commitLanes u.agent u.path out).applyHeld c sl (maskOf out)
        -- the issuing path keeps the other lanes, or its waiting threads, or gives up its entry
        let s :=
          if !restLanes.isEmpty then
            s.setPath u.agent { u.path.withoutLanes out with exec := maskOf restLanes, counted := false }
          else
            let s := s.leaveClause u.agent
            if u.path.recon.isEmpty then s.modGroup c sl fun g => { g with paths := Assoc.erase g.paths u.idx }
            else s.modPath u.agent Path.emptied
        let s := match r, rs.head? with
          | some e, some x => (s.holdLanes u c sl e (rs.map (·.1)) (mixedFault rs x.2)).trace 4 c sl e u.path.rgpc (maskOf (rs.map (·.1)))
          | _, _ => s
        match h, hs.head? with
        | some e, some x =>
          let lanes := hs.map (·.1)
          let meta' := s.recordOf u c sl lanes (x.1, mixedFault hs x.2)
          match s.writeRecord u.ctx slot (recordBytes x.2 meta') with
          | some s =>
            let p := { handlerPath (s.context u.ctx) u.path (maskOf lanes) slot sprung with halt := e = u.idx && u.path.halt }
            ((s.modGroup c sl fun g => { g with paths := Assoc.set g.paths e p }).trace 6 c sl e p.pc p.exec, true)
          | none => (s.endContext u.ctx u.path.lvl x.2 meta', false)
        | _, _ => (s, true)

/-- The state without a helper; its group may drain once its last path and helper have gone (R181, R296), and the errors of its loads
are counted then where the group is killed (R402). -/
def State.dropHelper (s : State) (c n slot : Nat) : State :=
  let lost := ((s.helper? c n).map fun h => h.path.poison.filterMap Poison.error?).getD []
  let s := s.modGroup c slot fun g => if g.killed then { g with deferred := g.deferred ++ lost } else g
  (s.modCore c fun k => { k with helpers := Assoc.erase k.helpers n }).checkDraining c slot

/-- A helper meets a fault: in a killed group it is dropped with its fault (R401); on the trap area the context ends (R400); a
restartable one is held for service, any other ends the chunk as faulted (R187, R398). -/
def State.helperFault (s : State) (u : Issuer) (c n : Nat) (f : FaultInfo) : State :=
  match s.helper? c n with
  | none => s
  | some h =>
    let f := { f.settle u.path.rgc with chunk := some h.chunk }
    let meta' : RecordOf :=
      { flags := recordFlags f true false f.restartable, path := 16, thread := h.thread, gid := gidOf c h.slot,
        rgpc := u.path.rgpc, launch := s.lidOf u.launch, mask := maskOf [h.thread] }
    if ((s.group? c h.slot).map (·.killed)).getD false then s.dropHelper c n h.slot
    else if f.global && s.inTrapArea u.ctx f.faddr.toNat then (s.endContext u.ctx false f meta').dropHelper c n h.slot
    else if f.restartable then
      let handle := s.engine.nextHandle
      ((s.commit u.agent).modPath u.agent fun p => heldPath p p.exec handle f []).postFault u.ctx (recordBytes f meta')
    else
      let s := s.modGroup c h.slot fun g =>
        { g with recruits := Assoc.update g.recruits h.thread fun r =>
            { r with failed := true, chunks := modifyAt r.chunks h.chunk fun _ => .faulted f } }
      s.dropHelper c n h.slot

/-- TAKING AN EXCEPTION: some lanes of an issuer fault before their instruction takes effect for them (R273, R187,
R391). A steward's fault keeps its own cause, whatever RGC is (log 108). The flag says that the issuer's other lanes go on with the instruction. -/
def State.raiseLanes (s : State) (u : Issuer) (faults : List (Nat × FaultInfo)) : State × Bool :=
  match faults with
  | [] => (s, true)
  | x :: _ =>
    match u.agent with
    | .path c sl _ => s.splitGroup u c sl faults false
    | .helper c n => (s.helperFault u c n x.2, false)
    | .steward k => (s.stewardEnter k (x.2.pc.setWidth 64) x.2.cause.toNat x.2.faddr, false)

/-- Faulting lanes split off first; the issuer's other lanes, if any, go on with the instruction (R391). -/
def State.withFaults (s : State) (u : Issuer) (faults : List (Nat × FaultInfo)) (go : State → Issuer → State) : State :=
  if faults.isEmpty then go s u
  else
    let r := s.raiseLanes u faults
    if r.2 && u.lanes.any fun t => !faults.any fun x => x.1 == t then
      match r.1.issuer? u.agent with
      | some u' => go r.1 u'
      | none => r.1
    else r.1

/-- The whole exec of an issuer faults (R391). -/
def State.raise (s : State) (u : Issuer) (f : FaultInfo) : State := (s.raiseLanes u (u.lanes.map fun t => (t, f))).1

/-- A fault of the current instruction with its own word as the fault address (R66, R88). -/
def State.raiseHere (s : State) (u : Issuer) (cause : Byte) : State :=
  s.raise u { cause := cause, faddr := u.path.wordAddr.setWidth 64, pc := u.path.wordAddr }

/-- A helper runs for a thread of a path, or the recruiter itself does in helper mode (R181, R184). -/
def State.helped (s : State) (u : Issuer) : Bool :=
  u.kind = .simt && (s.core u.core).helpers.any fun h => h.2.slot = u.slot && u.path.members.getLsbD h.2.thread

/-- A path waits at a fault split (R391). -/
def Path.splitWaits (p : Path) : Bool :=
  match p.phase with
  | .stalled (.split _ _) => true
  | _ => false

/-- The state without the claim that a path waits for (R212). -/
def State.withdrawClaim (s : State) (a : Agent) : State :=
  match a with
  | .path c sl i => s.modCore c fun k => { k with claims := k.claims.filter fun x => !(x.slot = sl && x.path = i) }
  | _ => s

/-- The watchdog is raised on a path at a halt point, once no helper runs for it: in an uncommitted region its work is discarded. A
split that waits keeps it pending (R382, R388, R391). -/
def State.bite (s : State) (u : Issuer) : State :=
  if s.helped u then s
  else
    let before := match u.agent with
      | .path c sl _ => s.group? c sl
      | _ => none
    let s := if !u.path.clause.words.isEmpty && !u.path.rgc then (s.leaveClause u.agent).modPath u.agent Path.restart else s
    match (s.modPath u.agent fun p => { p with bite := false }).issuer? u.agent with
    | none => s
    | some u =>
      let s := s.withdrawClaim u.agent
      let s' := (s.modPath u.agent fun p => { p with bite := false }).raise u { cause := 0x0F, faddr := 0, pc := u.path.pc }
      let s' := match u.agent with
        | .path c sl _ => s'.groupWoke c sl before
        | _ => s'
      s'.modPath u.agent fun p => { p with bite := p.splitWaits }

/-- The state with a path stalled at its instruction, which has had no effect (R379). A killed path is removed at once (R296), and
a path that the watchdog waits for takes it there (R388). -/
def State.stall (s : State) (u : Issuer) (why : Stall) : State :=
  match u.agent with
  | .path c sl i =>
    match s.group? c sl with
    | none => s
    | some g =>
      if g.killed then
        ((s.modGroup c sl fun g => { g with paths := Assoc.erase g.paths i }).refreshBusy g.ctx).checkDraining c sl
      else
        let s := s.stallAt u.agent why
        if u.path.bite then s.bite u else s
  | .helper c n =>
    if ((s.group? c u.slot).map (·.killed)).getD false then s.dropHelper c n u.slot else s.stallAt u.agent why
  | .steward _ => s.stallAt u.agent why

/-! ## Returning from an exception (R270, R274) -/

/-- The path at user level again with its saved state, at the address given (R270). -/
def Path.return' (p : Path) (target : PC) : Path :=
  match p.handler with
  | none => p
  | some h =>
    { p with
      fmt := h.saved.fmt, loops := h.saved.loops, rgpc := h.saved.rgpc, rgc := h.saved.rgc, snap := h.saved.snap,
      lvl := false, pc := target, handler := none }

/-- A steward returns from supervisor level, by the SSTAT that the instruction reads (R274). -/
def Steward.return' (w : Steward) (status : DWord) (target : PC) : Steward :=
  { w with
    sup := status.getLsbD 1
    sstat := BitVec.ofNat 64 (w.sstat.toNat / 2 * 2 + bits status.toNat 3 1)
    path := { w.path with pc := target } }

/-! ## The checks before an instruction takes effect (R66, R70, R194) -/

/-- The execution classes, by their bit in the clause header (R50). -/
def Cls.alu : Nat := 54
/-- CLS.FP. -/
def Cls.fp : Nat := 53
/-- CLS.SFU. -/
def Cls.sfu : Nat := 52
/-- CLS.MEM. -/
def Cls.mem : Nat := 51
/-- CLS.ASYNC. -/
def Cls.async : Nat := 50
/-- CLS.CTRL. -/
def Cls.ctrl : Nat := 49

/-- The deferred store errors of an agent (R194): those of its group or steward. -/
def State.deferredOf (s : State) : Agent → List FaultInfo
  | .path c sl _ => ((s.group? c sl).map (·.deferred)).getD []
  | .helper c n => (((s.helper? c n).bind fun h => s.group? c h.slot).map (·.deferred)).getD []
  | .steward k => (s.steward k).deferred

/-- The state with the deferred faults of an agent changed. -/
def State.modDeferred (s : State) (a : Agent) (f : List FaultInfo → List FaultInfo) : State :=
  match a with
  | .path c sl _ => s.modGroup c sl fun g => { g with deferred := f g.deferred }
  | .helper c n => match s.helper? c n with
    | some h => s.modGroup c h.slot fun g => { g with deferred := f g.deferred }
    | none => s
  | .steward k => s.modSteward k fun w => { w with deferred := f w.deferred }

/-- A deferred fault that a test picks is raised on the whole exec, oldest first; none when there is none (R194, R397). -/
def State.raiseDeferred (s : State) (u : Issuer) (pick : FaultInfo → Bool) (pc : PC) : Option State :=
  match (s.deferredOf u.agent).find? pick with
  | none => none
  | some f =>
    let s' := s.raise u { f with pc := pc, deferred := true }
    -- a split that waits keeps the fault pending (R391)
    some (if (s'.path? u.agent).any Path.splitWaits then s' else s'.modDeferred u.agent fun l => l.erase f)

/-- A deferred store error, as against a fault of an engine command (R194, R239). -/
def FaultInfo.isStoreError (f : FaultInfo) : Bool := !f.engine

/-- The deferred faults of the group that an instruction raises (R194, R210, R239). -/
inductive Defers where
  | none
  /-- A release: every one. -/
  | all
  /-- A wait on the st path. -/
  | stores
  /-- A wait on the cp or the tt counter. -/
  | copies | tasks
  /-- A wait for a tag, an access to a tile. -/
  | tag (t : Nat) | tile (t : Nat)
deriving DecidableEq, Repr

/-- A deferred fault is raised by an instruction. -/
def FaultInfo.raisedAt (f : FaultInfo) : Defers → Bool
  | .none => false
  | .all => true
  | .stores => f.isStoreError
  | .copies => f.engine && f.onCp
  | .tasks => f.engine && f.onTt
  | .tag t => f.engine && f.tags.contains t
  | .tile t => f.engine && f.tiles.contains t

/-- What an instruction of an order raises. -/
def orderDefers (o : Order) : Defers := if o.releases then .all else .none

/-- What an instruction asks of its issuer. -/
structure Req where
  /-- Its class bit in the clause header (R55). -/
  cls    : Nat
  /-- It ends its clause (R56). -/
  ends   : Bool := false
  /-- The core type and level may issue it (R90, R91, R181, R262). -/
  may    : Bool := true
  /-- U = 1 (R27). -/
  uni    : Bool := false
  uses   : List Use
  /-- Further conditions of step 2 of R66. -/
  valid  : Bool := true
  /-- It reads fmt (R105). -/
  fmt    : Bool := false
  /-- The special registers it reads or writes (R264). -/
  sys    : List Nat := []
  /-- The registers that it reads without naming them (R42, R181). -/
  more   : List Reg := []
  /-- The deferred faults it raises. -/
  defers : Defers := .none
deriving DecidableEq, Repr

/-- What the checks give. -/
inductive Gate where
  /-- Every check passes. -/
  | go
  /-- A check of R66 fails with a cause. -/
  | trap (cause : Byte)
  /-- An interlocked register (R70). -/
  | wait
  /-- Poisoned lanes of a load whose destination the instruction touches (R194). -/
  | poison (faults : List (Nat × FaultInfo))
deriving DecidableEq, Repr

/-- The registers an instruction reads or writes. -/
def Req.regs (r : Req) (u : Issuer) : List Reg :=
  (r.uses.flatMap fun x => x.regs u) ++ (if r.fmt then [.fmt] else []) ++ r.sys.map Reg.sys ++ r.more

/-- The poisoned lanes in an issuer's exec of a load whose destination is among the registers, or of any at a boundary: those of
the load that completed first, for deferred faults are raised one at a time, in the order in which they arose (R194, R397). -/
def Issuer.poisoned (u : Issuer) (regs : Option (List Reg)) : List (Nat × FaultInfo) :=
  (u.poison.findSome? fun q =>
    let hit := match regs with
      | none => true
      | some l => l.any fun r => match r with
        | .v n => q.reg ≤ n && n < q.reg + q.width
        | .g n => q.reg ≤ 192 + n && 192 + n < q.reg + q.width
        | _ => false
    let lanes := q.lanes.filter fun x => u.path.exec.getLsbD x.1
    if hit && !lanes.isEmpty then some (lanes.map fun x =>
      (x.1, ({ cause := x.2.1, faddr := x.2.2, pc := q.pc, deferred := true, global := q.global, cmd := q.id, arose := q.arose } : FaultInfo)))
    else none).getD []

/-- The checks of R66 in order, then the interlocks of R70 and the poisoned lanes of R194; an older deferred fault that the
instruction also raises goes before them (R397). -/
def State.gate (s : State) (u : Issuer) (i : Instr) (r : Req) : Gate :=
  let last := u.path.clause.idx + 1 == u.path.clause.words.length
  if i.illFormed.isSome || !u.path.clause.header.getLsbD r.cls || (r.ends && !last) || !r.may then .trap 0x01
  else if !(r.uses.all fun x => x.ok u r.uni) || !r.valid then .trap 0x02
  else if u.path.view.cmode.getLsbD 0 && (r.regs u).any u.path.early then .trap 0x03
  else if (r.regs u).any fun x => s.interlocked u x then .wait
  else match u.poisoned (some (r.regs u)) with
    | [] => .go
    | x :: l =>
      if (s.deferredOf u.agent).any fun f => f.raisedAt r.defers && f.arose < x.2.arose then .go else .poison (x :: l)

/-- Poisoned lanes without those of a load that are raised. -/
def dropPoison (id : Nat) (lanes : List Nat) (l : List Poison) : List Poison :=
  (l.map fun q => if q.id = id then { q with lanes := q.lanes.filter fun x => !lanes.contains x.1 } else q).filter
    fun q => !q.lanes.isEmpty

/-- The state with poisoned lanes of a load taken off an agent's group, or off the helper or steward. -/
def State.dropPoison (s : State) (a : Agent) (id : Nat) (lanes : List Nat) : State :=
  match a with
  | .path c sl _ => s.modGroup c sl fun g => { g with poison := Sys2Proof.Machine.dropPoison id lanes g.poison }
  | _ => s.modPath a fun p => { p with poison := Sys2Proof.Machine.dropPoison id lanes p.poison }

/-- The state with the poisoned lanes of a load raised: they are taken off it (R194). -/
def State.raisePoison (s : State) (u : Issuer) (faults : List (Nat × FaultInfo)) : State :=
  match faults with
  | [] => s
  | x :: _ =>
    let s' := (s.raiseLanes u faults).1
    match s'.path? u.agent with
    | some p => if p.splitWaits then s' else s'.dropPoison u.agent x.2.cmd (faults.map (·.1))
    | none => s'.dropPoison u.agent x.2.cmd (faults.map (·.1))

/-- ISSUING AN INSTRUCTION: the checks, and where they pass, the instruction's own effect. -/
def issue (s : State) (i : Instr) (req : Issuer → Req) (body : Issuer → State) : Host.Outcome State Fault Refusal :=
  match s.issuing? with
  | none => .fault .noIssuer
  | some u =>
    match s.gate u i (req u) with
    | .trap c => .next (s.raiseHere u c)
    | .wait => .next (s.stall u (.interlock ((req u).regs u)))
    | .poison l => .next (s.raisePoison u l)
    | .go => .next (body u)

/-- An instruction stands at the checks' end: its issuer, where every check passes. -/
def State.ready? (s : State) (i : Instr) (req : Issuer → Req) : Option Issuer :=
  match s.issuing? with
  | none => none
  | some u => if s.gate u i (req u) = .go then some u else none

end Sys2Proof.Machine
end

