-- ==== Sys2Proof/Machine/Alu.lean ====
section
/-! DEFINITION. Integer, bit and address instructions (opcodes 0x00 to 0x06, 0x08, 0x09; R115 to R131). -/
namespace Sys2Proof.Machine

/-! ## Shared: sources, destinations, the per-thread frame of R119 -/

/-- A source position of a type (R115). -/
def srcUse (wide : Bool) (o : Opnd) : Use := { o := o, role := if wide then .w64 else .w32 }
/-- A result position: a v register or pair, or a g register where U = 1 (R116). -/
def dstUse (uni wide : Bool) (o : Opnd) : Use :=
  { o := o, role := if uni then .greg else if wide then .vpair else .vreg, write := true }

/-- The register bits an operand of a width gives a lane (R115). -/
def State.src (s : State) (u : Issuer) (wide : Bool) (o : Opnd) (lane : Nat) : DWord :=
  if wide then s.read64 u o lane else (s.read32 u o lane).setWidth 64

/-- The lanes an instruction runs over: exec, or once where U = 1 (R27, R119). -/
def Issuer.over (u : Issuer) (uni : Bool) : List Nat := if uni then [0] else u.lanes

/-- The state after an instruction that gives each lane a result at a latency (R119, R67). -/
def State.result (s : State) (u : Issuer) (uni : Bool) (d : Opnd) (wide : Bool) (lat : Nat) (sc : Fin 16)
    (f : Nat → DWord) : State :=
  (s.pushWrites u (resultWrites d wide ((u.over uni).map fun t => (t, f t))) lat).retire u sc

/-- The state after an instruction that writes a condition per lane: a mask, or 0 or 1 where U = 1 (R124). -/
def State.condResult (s : State) (u : Issuer) (uni : Bool) (d : Opnd) (lat : Nat) (sc : Fin 16) (p : Nat → Bool) : State :=
  let ws := if uni then resultWrites d false [(0, if p 0 then 1 else 0)]
    else maskWrites u d (maskWhere u.lanes p)
  (s.pushWrites u ws lat).retire u sc

/-- Latency of an ALU result: 2, or 4 where a 64-bit type is involved (Table 7 of the format chapter, R83). -/
def aluLat (wide : Bool) : Nat := if wide then 4 else 2

/-- Checks of an instruction with one source. -/
def req1 (cls : Nat) (f : F3) (wd wa : Bool) : Req :=
  { cls := cls, uni := f.u, uses := [dstUse f.u wd f.d, srcUse wa f.a] }
/-- Checks of an instruction with two sources. -/
def req2 (cls : Nat) (f : F3) (wd wa wb : Bool) : Req :=
  { cls := cls, uni := f.u, uses := [dstUse f.u wd f.d, srcUse wa f.a, srcUse wb f.b] }
/-- Checks of an instruction with three sources. -/
def req3 (cls : Nat) (f : F3) (wd wa wb wc : Bool) : Req :=
  { cls := cls, uni := f.u, uses := [dstUse f.u wd f.d, srcUse wa f.a, srcUse wb f.b, srcUse wc f.c] }

/-- One exact integer operation on sources of TY under R119. -/
def State.intOp2 (s : State) (u : Issuer) (f : F3) (lat : Nat) (op : Int → Int → Int) : State :=
  let w := isWide f.ty
  s.result u f.u f.d w lat f.sc fun t =>
    intResult f.ty f.s (op (intValue f.ty (s.src u w f.a t)) (intValue f.ty (s.src u w f.b t)))

/-- One exact integer operation on one source of TY. -/
def State.intOp1 (s : State) (u : Issuer) (f : F3) (lat : Nat) (op : Int → Int) : State :=
  let w := isWide f.ty
  s.result u f.u f.d w lat f.sc fun t => intResult f.ty f.s (op (intValue f.ty (s.src u w f.a t)))

/-- A bitwise operation on two sources of .b32 or .b64 (R125). -/
def State.bitOp2 (s : State) (u : Issuer) (f : F3) (op : DWord → DWord → DWord) : State :=
  let w := isWide f.ty
  s.result u f.u f.d w (aluLat w) f.sc fun t => op (s.src u w f.a t) (s.src u w f.b t)

/-- The checks of a two-source instruction all of whose operands have TY. -/
def alu2 (f : F3) : Req := let w := isWide f.ty; req2 Cls.alu f w w w

/-! ## Opcode 0x00 (R120, R121, R127) -/

/-- `add` (R120). -/
def execAdd (f : F3) (s : State) : Host.Outcome State Fault Refusal :=
  issue s (.add f) (fun _ => alu2 f) fun u => s.intOp2 u f (aluLat (isWide f.ty)) fun a b => a + b

/-- `sub` (R120). -/
def execSub (f : F3) (s : State) : Host.Outcome State Fault Refusal :=
  issue s (.sub f) (fun _ => alu2 f) fun u => s.intOp2 u f (aluLat (isWide f.ty)) fun a b => a - b

/-- `min` (R120). -/
def execMin (f : F3) (s : State) : Host.Outcome State Fault Refusal :=
  issue s (.min f) (fun _ => alu2 f) fun u => s.intOp2 u f (aluLat (isWide f.ty)) fun a b => if b < a then b else a

/-- `max` (R120). -/
def execMax (f : F3) (s : State) : Host.Outcome State Fault Refusal :=
  issue s (.max f) (fun _ => alu2 f) fun u => s.intOp2 u f (aluLat (isWide f.ty)) fun a b => if a < b then b else a

/-- `abs` (R120). -/
def execAbs (f : F3) (s : State) : Host.Outcome State Fault Refusal :=
  issue s (.abs f) (fun _ => req1 Cls.alu f (isWide f.ty) (isWide f.ty)) fun u =>
    s.intOp1 u f (aluLat (isWide f.ty)) fun a => a.natAbs

/-- `neg` (R120). -/
def execNeg (f : F3) (s : State) : Host.Outcome State Fault Refusal :=
  issue s (.neg f) (fun _ => req1 Cls.alu f (isWide f.ty) (isWide f.ty)) fun u =>
    s.intOp1 u f (aluLat (isWide f.ty)) fun a => -a

/-- `sel`: C is a mask, or one g register where U = 1 (R121). -/
def execSel (f : F3) (s : State) : Host.Outcome State Fault Refusal :=
  let w := isWide f.ty
  issue s (.sel f)
    (fun _ => { cls := Cls.alu, uni := f.u
                uses := [dstUse f.u w f.d, srcUse w f.a, srcUse w f.b, { o := f.c, role := if f.u then .greg else .mask }] })
    fun u => s.result u f.u f.d w (aluLat w) f.sc fun t =>
      let c := if f.u then s.read64 u f.c 0 != 0 else (s.readMask u f.c).getLsbD t
      intResult f.ty false (intValue f.ty (if c then s.src u w f.a t else s.src u w f.b t))

/-- `lea` (R127): a 64-bit address; B is read under TY. -/
def execLea (f : F3) (s : State) : Host.Outcome State Fault Refusal :=
  let wb := isWide f.ty
  issue s (.lea f) (fun _ => req2 Cls.alu f true true wb) fun u =>
    s.result u f.u f.d true 4 f.sc fun t =>
      BitVec.ofInt 64 ((s.read64 u f.a t).toNat + intValue f.ty (s.src u wb f.b t) * (2 ^ f.x.toNat : Nat))

/-! ## Opcode 0x01 (R122, R123) -/

/-- `mul` (R122). -/
def execMul (f : F3) (s : State) : Host.Outcome State Fault Refusal :=
  issue s (.mul f) (fun _ => alu2 f) fun u => s.intOp2 u f 4 fun a b => a * b

/-- `mulhi`: the high half of the product (R122). -/
def execMulhi (f : F3) (s : State) : Host.Outcome State Fault Refusal :=
  issue s (.mulhi f) (fun _ => alu2 f) fun u =>
    s.intOp2 u f 4 fun a b => Int.fdiv (a * b) (2 ^ typeWidth f.ty : Nat)

/-- `mad`: the exact a·b + c wraps or clamps once (R122). -/
def execMad (f : F3) (s : State) : Host.Outcome State Fault Refusal :=
  let w := isWide f.ty
  issue s (.mad f) (fun _ => req3 Cls.alu f w w w w) fun u =>
    s.result u f.u f.d w 4 f.sc fun t =>
      intResult f.ty f.s (intValue f.ty (s.src u w f.a t) * intValue f.ty (s.src u w f.b t)
        + intValue f.ty (s.src u w f.c t))

/-- The exact sum of `dp4` on the bytes of two words (R123). -/
def dp4Sum (t : DType) (a b : Word) (c : Int) : Int :=
  (List.range 4).foldl (fun r i =>
    r + wrapInt 8 (isSigned t) (bits a.toNat (8 * i) 8) * wrapInt 8 (isSigned t) (bits b.toNat (8 * i) 8)) c

/-- `dp4`: the bytes are of TY, C and D of the 32-bit type of the same kind (R123). -/
def execDp4 (f : F3) (s : State) : Host.Outcome State Fault Refusal :=
  let t32 : DType := if isSigned f.ty then .s32 else .n32
  issue s (.dp4 f) (fun _ => req3 Cls.alu f false false false false) fun u =>
    s.result u f.u f.d false 4 f.sc fun t =>
      intResult t32 f.s (dp4Sum f.ty (s.read32 u f.a t) (s.read32 u f.b t) (intValue t32 (s.src u false f.c t)))

/-! ## Opcode 0x02 (R125) -/

/-- `and` (R125). -/
def execAnd (f : F3) (s : State) : Host.Outcome State Fault Refusal :=
  issue s (.and f) (fun _ => alu2 f) fun u => s.bitOp2 u f fun a b => a &&& b

/-- `or` (R125). -/
def execOr (f : F3) (s : State) : Host.Outcome State Fault Refusal :=
  issue s (.or f) (fun _ => alu2 f) fun u => s.bitOp2 u f fun a b => a ||| b

/-- `xor` (R125). -/
def execXor (f : F3) (s : State) : Host.Outcome State Fault Refusal :=
  issue s (.xor f) (fun _ => alu2 f) fun u => s.bitOp2 u f fun a b => a ^^^ b

/-- `andn` (R125). -/
def execAndn (f : F3) (s : State) : Host.Outcome State Fault Refusal :=
  issue s (.andn f) (fun _ => alu2 f) fun u => s.bitOp2 u f fun a b => a &&& ~~~b

/-- `not` (R125). -/
def execNot (f : F3) (s : State) : Host.Outcome State Fault Refusal :=
  let w := isWide f.ty
  issue s (.not f) (fun _ => req1 Cls.alu f w w) fun u =>
    s.result u f.u f.d w (aluLat w) f.sc fun t => intResult f.ty false (~~~(s.src u w f.a t)).toNat

/-- The number of 1 bits among the low `w` bits. -/
def popCount (w : Nat) (x : DWord) : Nat := ((List.range w).filter fun i => x.getLsbD i).length
/-- The number of 0 bits above the highest 1 bit of the low `w` bits; `w` for zero. -/
def leadingZeros (w : Nat) (x : DWord) : Nat := ((List.range w).takeWhile fun i => !x.getLsbD (w - 1 - i)).length
/-- The number of 0 bits below the lowest 1 bit of the low `w` bits; `w` for zero. -/
def trailingZeros (w : Nat) (x : DWord) : Nat := ((List.range w).takeWhile fun i => !x.getLsbD i).length

/-- A bit count into a single 32-bit destination (R125). -/
def State.countOp (s : State) (u : Issuer) (f : F3) (count : Nat → DWord → Nat) : State :=
  let w := isWide f.ty
  s.result u f.u f.d false (aluLat w) f.sc fun t => BitVec.ofNat 64 (count (typeWidth f.ty) (s.src u w f.a t))

/-- `popc` (R125). -/
def execPopc (f : F3) (s : State) : Host.Outcome State Fault Refusal :=
  issue s (.popc f) (fun _ => req1 Cls.alu f false (isWide f.ty)) fun u => s.countOp u f popCount

/-- `clz` (R125). -/
def execClz (f : F3) (s : State) : Host.Outcome State Fault Refusal :=
  issue s (.clz f) (fun _ => req1 Cls.alu f false (isWide f.ty)) fun u => s.countOp u f leadingZeros

/-- `ctz` (R125). -/
def execCtz (f : F3) (s : State) : Host.Outcome State Fault Refusal :=
  issue s (.ctz f) (fun _ => req1 Cls.alu f false (isWide f.ty)) fun u => s.countOp u f trailingZeros

/-! ## Opcode 0x03 (R126) -/

/-- Shift left: 0 from the width upward. -/
def shiftLeft (w a n : Nat) : Nat := if w ≤ n then 0 else a * 2 ^ n % 2 ^ w
/-- Shift right, filling with zeros. -/
def shiftRight (w a n : Nat) : Nat := if w ≤ n then 0 else a / 2 ^ n
/-- Shift right, filling with the top bit. -/
def shiftArith (w a n : Nat) : Nat := (wrapInt w true (Int.fdiv (wrapInt w true a) (2 ^ Nat.min n w : Nat)) % (2 ^ w : Nat)).toNat
/-- Rotate left. -/
def rotateLeft (w a n : Nat) : Nat := (a * 2 ^ (n % w) % 2 ^ w) + a / 2 ^ (w - n % w)

/-- Position and clipped length of a field; none for an empty one (R126). -/
def fieldOf (w n : Nat) : Option (Nat × Nat) :=
  let pos := bits n 0 8
  let len := bits n 8 8
  if len = 0 || w ≤ pos then none else some (pos, Nat.min len (w - pos))

/-- `bfx` on the low `w` bits: sign- or zero-extended (R126). -/
def extractField (w : Nat) (signed : Bool) (a n : Nat) : Int :=
  match fieldOf w n with
  | none => 0
  | some (pos, len) => wrapInt len signed (bits a pos len)

/-- `bfi` (R126). -/
def insertField (w a b n : Nat) : Nat :=
  match fieldOf w n with
  | none => a
  | some (pos, len) => a - bits a pos len * 2 ^ pos + b % 2 ^ len * 2 ^ pos

/-- `brev` (R126). -/
def reverseBits (w a : Nat) : Nat := (List.range w).foldl (fun r i => r + bits a (w - 1 - i) 1 * 2 ^ i) 0

/-- A shift by a single 32-bit register of any index (R126). -/
def State.shiftOp (s : State) (u : Issuer) (f : F3) (op : Nat → Nat → Nat → Nat) : State :=
  let w := isWide f.ty
  s.result u f.u f.d w (aluLat w) f.sc fun t =>
    intResult f.ty false (op (typeWidth f.ty) (s.src u w f.a t).toNat (s.read32 u f.b t).toNat)

/-- The checks of a shift. -/
def shiftReq (f : F3) : Req := let w := isWide f.ty; req2 Cls.alu f w w false

/-- `shl` (R126). -/
def execShl (f : F3) (s : State) : Host.Outcome State Fault Refusal :=
  issue s (.shl f) (fun _ => shiftReq f) fun u => s.shiftOp u f shiftLeft

/-- `shr` (R126). -/
def execShr (f : F3) (s : State) : Host.Outcome State Fault Refusal :=
  issue s (.shr f) (fun _ => shiftReq f) fun u => s.shiftOp u f shiftRight

/-- `sar` (R126). -/
def execSar (f : F3) (s : State) : Host.Outcome State Fault Refusal :=
  issue s (.sar f) (fun _ => shiftReq f) fun u => s.shiftOp u f shiftArith

/-- `rot` (R126). -/
def execRot (f : F3) (s : State) : Host.Outcome State Fault Refusal :=
  issue s (.rot f) (fun _ => shiftReq f) fun u => s.shiftOp u f rotateLeft

/-- `bfx`: .s types sign-extend the field (R126). -/
def execBfx (f : F3) (s : State) : Host.Outcome State Fault Refusal :=
  let w := isWide f.ty
  issue s (.bfx f) (fun _ => shiftReq f) fun u =>
    s.result u f.u f.d w (aluLat w) f.sc fun t =>
      intResult f.ty false (extractField (typeWidth f.ty) (isSigned f.ty) (s.src u w f.a t).toNat (s.read32 u f.b t).toNat)

/-- `bfi`: position and length from C (R126). -/
def execBfi (f : F3) (s : State) : Host.Outcome State Fault Refusal :=
  let w := isWide f.ty
  issue s (.bfi f) (fun _ => req3 Cls.alu f w w w false) fun u =>
    s.result u f.u f.d w (aluLat w) f.sc fun t =>
      intResult f.ty false (insertField (typeWidth f.ty) (s.src u w f.a t).toNat (s.src u w f.b t).toNat
        (s.read32 u f.c t).toNat)

/-- `brev` (R126). -/
def execBrev (f : F3) (s : State) : Host.Outcome State Fault Refusal :=
  let w := isWide f.ty
  issue s (.brev f) (fun _ => req1 Cls.alu f w w) fun u =>
    s.result u f.u f.d w (aluLat w) f.sc fun t => intResult f.ty false (reverseBits (typeWidth f.ty) (s.src u w f.a t).toNat)

/-! ## Opcode 0x04 (R124) -/

/-- Checks of `cmp`: D is a mask, or a g register where U = 1. -/
def cmpReq (cls : Nat) (f : F3) : Req :=
  let w := isWide f.ty
  { cls := cls, uni := f.u
    uses := [{ o := f.d, role := if f.u then .greg else .mask, write := true }, srcUse w f.a, srcUse w f.b] }

/-- A compare on exact values (R124). -/
def State.cmpOp (s : State) (u : Issuer) (f : F3) (c : Cond) : State :=
  let w := isWide f.ty
  s.condResult u f.u f.d (aluLat w) f.sc fun t =>
    c.holds (intValue f.ty (s.src u w f.a t)) (intValue f.ty (s.src u w f.b t))

/-- `cmp.eq` (R124). -/
def execCmpEq (f : F3) (s : State) : Host.Outcome State Fault Refusal :=
  issue s (.cmpEq f) (fun _ => cmpReq Cls.alu f) fun u => s.cmpOp u f .eq

/-- `cmp.ne` (R124). -/
def execCmpNe (f : F3) (s : State) : Host.Outcome State Fault Refusal :=
  issue s (.cmpNe f) (fun _ => cmpReq Cls.alu f) fun u => s.cmpOp u f .ne

/-- `cmp.lt` (R124). -/
def execCmpLt (f : F3) (s : State) : Host.Outcome State Fault Refusal :=
  issue s (.cmpLt f) (fun _ => cmpReq Cls.alu f) fun u => s.cmpOp u f .lt

/-- `cmp.le` (R124). -/
def execCmpLe (f : F3) (s : State) : Host.Outcome State Fault Refusal :=
  issue s (.cmpLe f) (fun _ => cmpReq Cls.alu f) fun u => s.cmpOp u f .le

/-- `cmp.gt` (R124). -/
def execCmpGt (f : F3) (s : State) : Host.Outcome State Fault Refusal :=
  issue s (.cmpGt f) (fun _ => cmpReq Cls.alu f) fun u => s.cmpOp u f .gt

/-- `cmp.ge` (R124). -/
def execCmpGe (f : F3) (s : State) : Host.Outcome State Fault Refusal :=
  issue s (.cmpGe f) (fun _ => cmpReq Cls.alu f) fun u => s.cmpOp u f .ge

/-! ## Opcode 0x05 (R128) -/

/-- B of `add64` and `sub64`: 32 bits extended under .s64 and .n64, 64 bits under .b64 (R128). -/
def State.addend64 (s : State) (u : Issuer) (f : F3) (t : Nat) : Int :=
  if f.ty = .b64 then (s.read64 u f.b t).toNat
  else wrapInt 32 (isSigned f.ty) (s.read32 u f.b t).toNat

/-- `add64` and `sub64` (R128). -/
def State.op64 (s : State) (u : Issuer) (f : F3) (op : Int → Int → Int) : State :=
  s.result u f.u f.d true 4 f.sc fun t =>
    intResult f.ty f.s (op (intValue f.ty (s.read64 u f.a t)) (s.addend64 u f t))

/-- `add64` (R128). -/
def execAdd64 (f : F3) (s : State) : Host.Outcome State Fault Refusal :=
  issue s (.add64 f) (fun _ => req2 Cls.alu f true true (f.ty == .b64)) fun u => s.op64 u f fun a b => a + b

/-- `sub64` (R128). -/
def execSub64 (f : F3) (s : State) : Host.Outcome State Fault Refusal :=
  issue s (.sub64 f) (fun _ => req2 Cls.alu f true true (f.ty == .b64)) fun u => s.op64 u f fun a b => a - b

/-! ## Opcode 0x06 (R131) -/

/-- `cvt`: the exact value of a source of the type in X, narrowed to TY (R84, R131). -/
def execCvt (f : F3) (s : State) : Host.Outcome State Fault Refusal :=
  let st := DType.ofCode f.x.toNat
  issue s (.cvt f) (fun _ => req1 Cls.alu f (isWide f.ty) (isWide st)) fun u =>
    s.result u f.u f.d (isWide f.ty) (aluLat (isWide f.ty || isWide st)) f.sc fun t =>
      intResult f.ty f.s (intValue st (s.src u (isWide st) f.a t))

/-! ## Opcodes 0x08 and 0x09 (R129, R130) -/

/-- Checks of an immediate form. -/
def immReq (cls : Nat) (f : FI) (wide : Bool) : Req :=
  { cls := cls, uni := f.u, uses := [dstUse f.u wide f.d, srcUse wide f.a] }

/-- A 32-bit immediate form: the result is zero-extended into a g register (R116, R129). -/
def State.imm32 (s : State) (u : Issuer) (f : FI) (lat : Nat) (op : Nat → Nat → Nat) : State :=
  s.result u f.u f.d false lat f.sc fun t => BitVec.ofNat 64 (op (s.read32 u f.a t).toNat f.imm.toNat % 2 ^ 32)

/-- A 64-bit immediate form: IMM32 is sign-extended and the result wraps (R130). -/
def State.imm64 (s : State) (u : Issuer) (f : FI) (op : DWord → DWord → DWord) : State :=
  s.result u f.u f.d true 4 f.sc fun t => op (s.read64 u f.a t) (f.imm.signExtend 64)

/-- `add` with an immediate (R129). -/
def execAddImm (f : FI) (s : State) : Host.Outcome State Fault Refusal :=
  issue s (.addImm f) (fun _ => immReq Cls.alu f false) fun u => s.imm32 u f 2 fun a b => a + b

/-- `and` with an immediate (R129). -/
def execAndImm (f : FI) (s : State) : Host.Outcome State Fault Refusal :=
  issue s (.andImm f) (fun _ => immReq Cls.alu f false) fun u => s.imm32 u f 2 fun a b => a &&& b

/-- `or` with an immediate (R129). -/
def execOrImm (f : FI) (s : State) : Host.Outcome State Fault Refusal :=
  issue s (.orImm f) (fun _ => immReq Cls.alu f false) fun u => s.imm32 u f 2 fun a b => a ||| b

/-- `xor` with an immediate (R129). -/
def execXorImm (f : FI) (s : State) : Host.Outcome State Fault Refusal :=
  issue s (.xorImm f) (fun _ => immReq Cls.alu f false) fun u => s.imm32 u f 2 fun a b => a ^^^ b

/-- `shl` with an immediate amount (R129). -/
def execShlImm (f : FI) (s : State) : Host.Outcome State Fault Refusal :=
  issue s (.shlImm f) (fun _ => immReq Cls.alu f false) fun u => s.imm32 u f 2 (shiftLeft 32)

/-- `shr` with an immediate amount (R129). -/
def execShrImm (f : FI) (s : State) : Host.Outcome State Fault Refusal :=
  issue s (.shrImm f) (fun _ => immReq Cls.alu f false) fun u => s.imm32 u f 2 (shiftRight 32)

/-- `sar` with an immediate amount (R129). -/
def execSarImm (f : FI) (s : State) : Host.Outcome State Fault Refusal :=
  issue s (.sarImm f) (fun _ => immReq Cls.alu f false) fun u => s.imm32 u f 2 (shiftArith 32)

/-- `mul` with an immediate (R129). -/
def execMulImm (f : FI) (s : State) : Host.Outcome State Fault Refusal :=
  issue s (.mulImm f) (fun _ => immReq Cls.alu f false) fun u => s.imm32 u f 4 fun a b => a * b

/-- `add64` with an immediate (R130). -/
def execAdd64Imm (f : FI) (s : State) : Host.Outcome State Fault Refusal :=
  issue s (.add64Imm f) (fun _ => immReq Cls.alu f true) fun u => s.imm64 u f fun a b => a + b

/-- `and` on 64 bits with an immediate (R130). -/
def execAnd64Imm (f : FI) (s : State) : Host.Outcome State Fault Refusal :=
  issue s (.and64Imm f) (fun _ => immReq Cls.alu f true) fun u => s.imm64 u f fun a b => a &&& b

/-- `or` on 64 bits with an immediate (R130). -/
def execOr64Imm (f : FI) (s : State) : Host.Outcome State Fault Refusal :=
  issue s (.or64Imm f) (fun _ => immReq Cls.alu f true) fun u => s.imm64 u f fun a b => a ||| b

/-- `xor` on 64 bits with an immediate (R130). -/
def execXor64Imm (f : FI) (s : State) : Host.Outcome State Fault Refusal :=
  issue s (.xor64Imm f) (fun _ => immReq Cls.alu f true) fun u => s.imm64 u f fun a b => a ^^^ b

end Sys2Proof.Machine
end

