-- ==== Sys2Proof/Machine/Sched.lean ====
section
/-! DEFINITION. Clause boundaries, headers, fetch, selection and stalls (R47, R49 to R57, R158 to R165, R290, R296,
R375 to R380, R386 to R388, R399, R428, R429). -/
namespace Sys2Proof.Machine

/-! ## Monitors and time -/

/-- A monitor after a value that comes a number of times (R434). -/
def Monitor.observe (m : Monitor) (v n : Nat) : Monitor :=
  let lo := bits m.msel.toNat 32 32
  let bin := if v < lo then 0 else Nat.min 15 ((v - lo) / 2 ^ bits m.msel.toNat 8 5)
  let bins := if m.bins.isEmpty then List.replicate 16 0 else m.bins
  { m with
    count := BitVec.ofNat 64 (Nat.min (m.count.toNat + n) 0xFFFFFFFFFFFFFFFF)
    min := if v < m.min.toNat then BitVec.ofNat 32 v else m.min
    max := if m.max.toNat < v then BitVec.ofNat 32 (Nat.min v 0xFFFFFFFF) else m.max
    bins := modifyAt bins bin fun b => BitVec.ofNat 32 (Nat.min (b.toNat + n) 0xFFFFFFFF) }

/-- The state after a value of a source is seen, a number of times, by the monitors of a core, or of the hub for a number from 4,096
(R434). -/
def State.observe (s : State) (core source v : Nat) (n : Nat := 1) : State :=
  let see := fun (ms : Assoc Monitor) => ms.mapVals fun m => if bits m.msel.toNat 0 8 = source && n != 0 then m.observe v n else m
  if core < 4096 then s.modCore core fun k => { k with monitors := see k.monitors }
  else { s with monitors := see s.monitors }

/-- A cycle counts against a group's watchdog unless every valid path has HOLD set or the group is not resident (R387). -/
def Group.watched (g : Group) : Bool := g.life = .resident && g.paths.vals.any fun p => !p.hold

/-- The frequency of a clock domain in MHz: a compute die's, or the hub die's for 4 (R437). -/
def State.frequency (s : State) (die : Nat) : Nat := if die < 4 then 1600 - 100 * s.clocks.throttle.getD die 0 else 1200

/-- The thousandths of a cycle that a domain has run when so many nanoseconds more have passed (R437, R438). -/
def State.ticks (s : State) (ns d : Nat) : Nat := s.clocks.part.getD d 0 + ns * s.frequency d

/-- The state after nanoseconds of NSC have passed: each clock domain has run at its frequency (R265, R354, R387, R438; log 5). -/
def State.elapse (s : State) (ns : Nat) : State :=
  let ticks := (List.range 5).map (s.ticks ns)
  let cycles := ticks.map (· / 1000)
  let cyc := (List.range 5).map fun d => (s.clocks.cyc.getD d 0 + cycles.getD d 0) % 2 ^ 64
  let s := { s with
    clocks := { s.clocks with nsc := (s.clocks.nsc + ns) % 2 ^ 64, cyc := cyc, part := ticks.map (· % 1000) }
    cores := s.cores.map fun (p : Nat × Core) => (p.1, { p.2 with
      slots := p.2.slots.mapVals fun g =>
        if g.watched && (s.context g.ctx).watchdog != 0 then { g with watch := g.watch + cycles.getD (dieOf p.1) 0 } else g }) }
  -- every 1,024 cycles the slips of a core are seen (R434)
  s.cores.keys.foldl (fun s c =>
    let before := s.cyc c - cycles.getD (dieOf c) 0
    let periods := s.cyc c / 1024 - before / 1024
    if periods = 0 then s
    else ((s.observe c 8 (s.core c).slips).observe c 8 0 (periods - 1)).modCore c fun k => { k with slips := 0 }) s

/-! ## Waiting on counters (R52, R53) -/

/-- The check of step 1 of R52. -/
def headerOk (h : DWord) : Bool :=
  bits h.toNat 59 5 == 31 && bits h.toNat 0 24 == 0 && (waitCodes h).all fun w => w.2 != 3

/-- The core number through which an issuer fetches and translates. -/
def Issuer.hub (u : Issuer) : Bool := u.kind == .steward

/-- The operations in flight of an issuer's threads (R300; log 9). -/
def State.releaseIds (s : State) (u : Issuer) : List Nat :=
  (s.ops.filter fun p => p.2.uid == u.uid && p.2.mask &&& u.path.exec != 0).map (·.1)

/-- A deferred fault that a header's WAIT codes raise: a store error on the st path, or a fault of an engine command on a
counter waited for (R53, R194, R239). -/
def FaultInfo.atHeader (h : DWord) (f : FaultInfo) : Bool :=
  (bits h.toNat 45 2 != 0 && f.isStoreError) || (f.engine && ((bits h.toNat 41 2 != 0 && f.onCp) || (bits h.toNat 39 2 != 0 && f.onTt)))

/-- A release: a pending deferred fault is raised at it, older operations are waited for, then the rest (R194,
R199, R239). -/
def State.afterRelease (s : State) (u : Issuer) (k : State → State) : State :=
  match s.raiseDeferred u (fun _ => true) u.path.wordAddr with
  | some s' => s'
  | none =>
    let ids := s.releaseIds u
    if ids.isEmpty then k s else s.stall u (.drain ids)

/-! ## Debug holds (R428, R429) -/

/-- The enabled breakpoints of a context at a header address: their BPCTL (R428). -/
def View.breakpoints (v : View) (ctx : Nat) (pc : PC) : List DWord :=
  (v.bps.filter fun b =>
    b.2.getLsbD 0 && bits b.2.toNat 16 10 == ctx && bits b.1.toNat 3 57 * 8 == pc.toNat).map (·.2)

/-- The context's breakpoints are claimed by the debug unit (R427). -/
def View.claimed (v : View) (ctx : Nat) : Bool :=
  v.bps.any fun b => b.2.getLsbD 0 && b.2.getLsbD 1 && bits b.2.toNat 16 10 == ctx

/-! ## Reconvergence and regang (R160 to R165) -/

/-- R163: pop while exec is empty, join the top entry at the PC, exchange with a lower one; fuel for the repetition. -/
def Path.reconverge (p : Path) : Nat → Path
  | 0 => p
  | n + 1 =>
    match p.recon with
    | [] => p
    | e :: rest =>
      if p.exec = 0 then { p with pc := e.pc, exec := e.mask, recon := rest }.reconverge n
      else if e.pc = p.pc then { p with exec := p.exec ||| e.mask, recon := rest }.reconverge n
      else if e.pc.toNat < p.pc.toNat then
        { p with pc := e.pc, exec := e.mask, recon := { e with pc := p.pc, mask := p.exec } :: rest }.reconverge n
      else p

/-- A phase at a clause boundary of the first kind (R51): the path has not issued an instruction of its next clause. -/
def Phase.atBoundary : Phase → Bool
  | .boundary => true | .header => true | .waiting => true | .armed => true | .selected => true | .missed => true
  | _ => false

/-- Two paths at equal state merge (R160). -/
def mergeable (p q : Path) : Bool :=
  p.phase.atBoundary && q.phase.atBoundary && !p.hold && !q.hold && p.recon.isEmpty && q.recon.isEmpty &&
  p.pc == q.pc && p.fmt == q.fmt && p.lvl == q.lvl && p.rgpc == q.rgpc && p.rgc == q.rgc && p.loops == q.loops

/-- The path that two merged paths become: the lower one's state with both execs (R160). -/
def Path.join (p q : Path) : Path :=
  { p with
    exec := p.exec ||| q.exec, phase := .boundary, pend := p.pend ++ q.pend,
    seen := p.seen ++ q.seen, sprung := p.sprung ++ q.sprung,
    halt := p.halt || q.halt, brk := p.brk || q.brk, step := p.step || q.step, stepping := p.stepping || q.stepping,
    bite := p.bite || q.bite, present := false, passed := false }

/-- One merge of a path with another of its group, at the lower index; none where no other qualifies (R160). -/
def mergeOnce (ps : Assoc Path) (i : Nat) : Option (Nat × Assoc Path) :=
  match Assoc.get? ps i with
  | none => none
  | some p =>
    match ps.find? fun q => q.1 != i && mergeable p q.2 with
    | none => none
    | some (j, q) =>
      let lo := Nat.min i j
      let m := if i < j then p.join q else q.join p
      some (lo, Assoc.set (Assoc.erase (Assoc.erase ps i) j) lo m)

/-- Merging of a path repeated until it qualifies with none: its index after each merge, and the paths at the end. -/
def mergeAll (ps : Assoc Path) (i : Nat) : Nat → List Nat × Assoc Path
  | 0 => ([], ps)
  | n + 1 =>
    match mergeOnce ps i with
    | none => ([], ps)
    | some (j, qs) => let r := mergeAll qs j n; (j :: r.1, r.2)

/-! ## Pending interrupts of a steward (R273) -/

/-- SIP of a steward (Table 4 of the system chapter; R418). -/
def State.sip (s : State) (k : Nat) : Nat :=
  let w := s.steward k
  let queued := fun n => s.engine.events.any fun e => e.cls == n
  (queued 1).toNat + 2 * (queued 0).toNat + 4 * (queued 3 || !s.notices.isEmpty).toNat + 8 * (!s.doorbells.isEmpty).toNat
    + 16 * w.timer.toNat + 32 * w.ipi.toNat

/-- The interrupts of a steward that are pending and enabled (R273). -/
def State.pendingEnabled (s : State) (k : Nat) : Nat := s.sip k &&& (s.steward k).sie.toNat

/-- A steward at a clause boundary must take an interrupt before it goes on (R273). -/
def State.mustEnter (s : State) : Agent → Bool
  | .steward k => s.pendingEnabled k != 0 && (!(s.steward k).sup || (s.steward k).sstat.getLsbD 0)
  | _ => false

/-! ## Boundaries -/

/-- The stage key of a stage from its input and output queues: occupancy and capacity of each (R290). -/
def stageKey (stage last : Nat) (occIn capIn occOut capOut : Nat) : Nat :=
  if stage < last && occOut = capOut then 0 else if stage = 0 then 1 else if capIn = 0 then 1 else 1 + 4 * occIn / capIn

/-- Occupancy and capacity of the queue at an offset of an allocation, of the record's capacity (R289, R290). -/
def Alloc.occupancy (a : Alloc) (off cap : Nat) : Nat × Nat :=
  (Nat.min ((a.bytes.load off 4 + 2 ^ 32 - a.bytes.load (off + 4) 4) % 2 ^ 32) cap, cap)

/-- The stage key of a group in its allocation (R290). -/
def Group.keyIn (g : Group) (a : Alloc) : Nat :=
  let q := fun i => match a.queues[i]? with
    | some (off, cap) => a.occupancy off cap
    | none => (0, 0)
  stageKey g.stage a.queues.length (q (g.stage - 1)).1 (q (g.stage - 1)).2 (q g.stage).1 (q g.stage).2

/-- The occupancies of the queues of a core's allocations (R290). -/
def Core.occupancies (k : Core) : List Nat := k.allocs.vals.flatMap fun a => a.queues.map fun q => (a.occupancy q.1 q.2).1

/-- The state with the queues of a core's allocations read again, as its monitors see them, and the stage keys of its groups (R290,
R434). -/
def State.refreshKeys (s : State) (c : Nat) : State :=
  ((s.core c).occupancies.foldl (fun s n => s.observe c 7 n) s).modCore c fun k =>
    { k with
      slots := k.slots.mapVals fun g =>
        match Assoc.get? k.allocs g.alloc with
        | some a => { g with key := g.keyIn a }
        | none => g }

/-- What a group takes over at a clause boundary of its context and of the debug unit (R47, R427). -/
def State.viewOf (s : State) (ctx : Nat) : View :=
  let k := s.context ctx
  { loads := k.loads, cmode := k.cmode, root := k.root, ranges := k.ranges, windows := k.windows, bps := s.dbg.bpaddr.zip s.dbg.bpctl }

/-- A group path without threads becomes invalid (R165); a handler's ring slot may come free with it (R394). -/
def State.dropPath (s : State) (c sl i : Nat) : State :=
  match s.group? c sl with
  | none => s
  | some g => ((s.setGroup c sl { g with paths := Assoc.erase g.paths i }).refreshBusy g.ctx).checkDraining c sl

/-- The lowest running helper of a recruitment other than one; one that is to leave runs until its boundary (R186, R449). -/
def State.lowestRunning (s : State) (c slot thread : Nat) (but : Nat) : Option Nat :=
  (best (fun (a b : Nat × Helper) => a.2.num < b.2.num)
    ((s.core c).helpers.filter fun h => h.1 != but && h.2.slot = slot && h.2.thread = thread && !h.2.self)).map
    fun h => h.2.num

/-- A helper is released: its chunk becomes unassigned, reserved for the lowest running helper; chunks reserved for it
pass on (R186). -/
def State.releaseHelper (s : State) (c n : Nat) : State :=
  match s.helper? c n with
  | none => s
  | some h =>
    let next := s.lowestRunning c h.slot h.thread n
    let free : Chunk := match next with
      | some k => .reserved k
      | none => .unassigned
    let s := s.modGroup c h.slot fun g => { g with recruits := Assoc.update g.recruits h.thread fun r =>
      { r with chunks := r.chunks.map fun ch =>
          if ch = .running h.num || ch = .reserved h.num then free else ch } }
    s.dropHelper c n h.slot

/-- HOLD set on a path at its boundary (R16, R429), with its trace record (R430). -/
def State.setHold (s : State) (c sl i : Nat) : State :=
  match s.path? (.path c sl i) with
  | none => s
  | some p =>
    let s := s.setPath (.path c sl i) { p with hold := true, aged := false, halt := false, brk := false, step := false, stepping := false }
    (if s.marked || !s.dbg.dstat.getLsbD 2 then s else { s with dbg := { s.dbg with dstat := 0 } }).trace 2 c sl i p.pc p.exec

/-- Two boundaries' worth of merging for a path past R163: its index after it, with a trace record for each merge (R159, R160, R430),
and HOLD where a mark asks for it (R429). -/
def State.regang (s : State) (c sl i : Nat) : State :=
  match s.group? c sl with
  | none => s
  | some g =>
    let (js, ps) := mergeAll g.paths i 16
    let j := js.getLast?.getD i
    let s := s.setGroup c sl { g with paths := ps.update j fun p => { p with phase := .header } }
    match s.path? (.path c sl j) with
    | none => s
    | some q =>
      let s := js.foldl (fun s k => s.trace 5 c sl k q.pc q.exec) s
      if (q.halt || q.brk || q.stepping) && !q.hold then s.setHold c sl j else s

/-- The steps of a clause boundary for a path of a group (R159; R34, R47, R160, R163, R165, R290, R388, R429). -/
def State.pathBoundary (s : State) (c sl i : Nat) : State :=
  match s.group? c sl, s.issuer? (.path c sl i) with
  | some g, some u =>
    let s := s.refreshKeys c
    if g.killed then s.dropPath c sl i
    else match u.poisoned none with
    | x :: l => s.raisePoison u (x :: l)
    | [] =>
      let s := s.applyHeld c sl u.path.members
      let p := u.path.reconverge 200
      if p.exec = 0 then s.dropPath c sl i
      else
        let s := s.setPath (.path c sl i) { p with view := s.viewOf g.ctx, phase := .header, clause := {} }
        if p.bite && !p.hold then
          match s.issuer? (.path c sl i) with
          | some u => s.bite u
          | none => s
        else s.regang c sl i
  | _, _ => s

/-- A helper that is to leave waits for service of a fault, and so stands at a boundary for good (R186). -/
def State.heldLeaver (s : State) : Agent → Bool
  | .helper c n => match s.helper? c n with
    | some h => h.leaving && (match h.path.phase with
      | .held _ _ => true
      | _ => false)
    | none => false
  | _ => false

/-- A path for which the watchdog waits stands at its boundary until the helpers that run for it have left (R388). -/
def State.awaitsHelpers (s : State) (u : Issuer) : Bool := u.path.bite && !u.path.hold && s.helped u

/-- CLAUSE_BOUNDARY: a path at a boundary updates its stack and regangs (R159); a helper that leaves is released
(R186). A handler path waits for the writes of its record (R392). -/
def execClauseBoundary (a : Agent) (s : State) : Host.Outcome State Fault Refusal :=
  match s.issuer? a with
  | none => .fault .notEnabled
  | some u =>
    if s.heldLeaver a then .next (match a with
      | .helper c n => s.releaseHelper c n
      | _ => s)
    else if u.path.phase != .boundary then .fault .notEnabled
    else match a with
    | .path c sl i => if s.stopped a || s.awaitsHelpers u || (u.path.lvl && s.hubWritesFor u.ctx) then .fault .notEnabled else .next (s.pathBoundary c sl i)
    | .helper c n =>
      match s.helper? c n with
      | some h =>
        let killed := ((s.group? c h.slot).map (·.killed)).getD false
        if !h.leaving && s.stopped a then .fault .notEnabled
        else match (if killed then [] else u.poisoned none) with
        | x :: l => .next ((s.refreshKeys c).raisePoison u (x :: l))
        | [] => if h.leaving then .next ((s.refreshKeys c).releaseHelper c n) else .next ((s.refreshKeys c).setPath a { u.path with view := s.viewOf u.ctx, phase := .header, clause := {} })
      | none => .fault .notEnabled
    | .steward k =>
      if (s.steward k).start || s.bringup.stage < 2 || s.mustEnter a then .fault .notEnabled
      else .next (s.setPath a { u.path with view := s.viewOf u.ctx, phase := .header, clause := {} })

/-! ## Headers and fetch (R52) -/

/-- Words that a path fetches from a VA upward, at their homes; else why not, and the first failing byte (R52, R330, R346, R353). -/
def State.fetchWords (s : State) (u : Issuer) (va n : Nat) : Except (Miss × Nat) (List DWord) :=
  ({ s with turn := u.agent }.readRange u.core u.ctx u.path.view.root va (8 * n) .fetch).map fun bs =>
    (List.range n).map fun k => BitVec.ofNat 64 (valueAt bs (8 * k) 8)

/-- A fetch that a path cannot make, raised as a fault; a borrowed line not at hand is asked for instead (R52, R318, R353). -/
def State.fetchFault (s : State) (u : Issuer) (m : Miss) (va : Nat) : State :=
  if m.waits.isSome then (s.modPath u.agent fun p => { p with awaiting := m.waits }).fetchMiss m
  else s.raise u { cause := m.cause, faddr := BitVec.ofNat 64 va, pc := u.path.pc, lease := m.lease, global := true }

/-- A row that may have asked for something only: it does not occur where it changes nothing. -/
def changed (s s' : State) : Host.Outcome State Fault Refusal := if s' = s then .fault .notEnabled else .next s'

/-- A phase past a header's check at a clause boundary (R51, R52 step 1). -/
def Phase.pastHeader : Phase → Bool
  | .waiting => true | .armed => true | .selected => true | .missed => true
  | _ => false

/-- The path that takes a user-level interrupt of a group: the ready one at user level of lowest index (R399). -/
def State.interruptible? (s : State) (c sl : Nat) (g : Group) : Option (Nat × Path) :=
  if g.uip = 0 || !(s.context g.ctx).cmode.getLsbD 1 || g.stopping || g.killed then none
  else g.paths.find? fun p => p.2.phase.pastHeader && !p.2.lvl && !p.2.hold && s.waitsHold (.path c sl p.1) p.2.clause.header

/-- A user-level interrupt is taken (R399). -/
def State.takeInterrupt (s : State) (c sl : Nat) : State :=
  match s.group? c sl with
  | none => s
  | some g =>
    match s.interruptible? c sl g, (List.range 16).find? fun b => g.uip.getLsbD b with
    | some (i, p), some b =>
      match s.issuer? (.path c sl i) with
      | none => s
      | some u =>
        let s' := s.raise u { cause := 0x14, faddr := p.pc.setWidth 64, pc := p.pc, lease := BitVec.ofNat 32 b }
        if (s'.path? (.path c sl i)).any Path.splitWaits then s'
        else s'.modGroup c sl fun g => { g with uip := g.uip &&& ~~~(1#16 <<< b) }
    | _, _ => s

/-- The state with a path past its header: ready, from now or from the cycle that a yield has set, or waiting (R52 step 2, R375,
R377). -/
def State.arm (s : State) (u : Issuer) (h : DWord) : State :=
  let ok := s.waitsHold u.agent h
  let s := s.setPath u.agent { u.path with
    clause := { addr := u.path.pc, header := h }, phase := if ok then .armed else .waiting
    readyAt := Nat.max u.path.readyAt (s.cyc u.core), aged := false }
  match u.agent with
  | .path c sl _ => if ok then s.takeInterrupt c sl else s
  | _ => s

/-- An issuer at a boundary, which takes over the state of its context (R47, R427). -/
def Issuer.refresh (u : Issuer) (s : State) : Issuer := { u with path := { u.path with view := s.viewOf u.ctx } }

/-- Poisoned lanes or a deferred fault that a path raises at a header whose WAIT codes name it, the older first; none where there is
neither (R53, R194, R239, R397). -/
def State.raiseAtHeader (s : State) (u : Issuer) (pick : FaultInfo → Bool) : Option State :=
  match u.poisoned none, (s.deferredOf u.agent).find? pick with
  | [], _ => s.raiseDeferred u pick u.path.pc
  | x :: l, some f => if f.arose < x.2.arose then s.raiseDeferred u pick u.path.pc else some (s.raisePoison u (x :: l))
  | x :: l, none => some (s.raisePoison u (x :: l))

/-- CLAUSE_HEADER: a path reaches a header, checks it and waits on its WAIT codes (R52 steps 1 and 2, R53). -/
def execClauseHeader (a : Agent) (s : State) : Host.Outcome State Fault Refusal :=
  match (s.issuer? a).map (·.refresh s) with
  | none => .fault .notEnabled
  | some u =>
    if u.path.hold || s.mustEnter a then .fault .notEnabled
    else if u.path.phase = .waiting then
      if !s.waitsHold a u.path.clause.header then .fault .notEnabled
      else .next ((s.raiseAtHeader u (FaultInfo.atHeader u.path.clause.header)).getD (s.arm u u.path.clause.header))
    else if u.path.phase != .header then .fault .notEnabled
    else
      match u.poisoned none, s.fetchWords u u.path.pc.toNat 1 with
      | x :: l, _ => .next (s.raisePoison u (x :: l))
      | [], .error (m, va) => changed s (s.fetchFault u m va)
      | [], .ok ws =>
        let h := ws.headD 0
        if !headerOk h then .next (s.raise u { cause := 0x01, faddr := u.path.pc.setWidth 64, pc := u.path.pc })
        else .next ((s.raiseAtHeader u (FaultInfo.atHeader h)).getD (s.arm u h))

/-- The words of a clause, or why they cannot be fetched and the first failing byte (R52 step 3). -/
def State.fetchClause (s : State) (u : Issuer) : Except (Miss × Nat) (List DWord) :=
  (s.fetchWords u u.path.pc.toNat (bits u.path.clause.header.toNat 55 4 + 2)).map fun ws => ws.drop 1

/-- The state in which a clause fetch of a path has missed, and a borrowed line that it needs has been asked for (R359, R380). -/
def State.missFetch (s : State) (u : Issuer) (m : Miss) : State :=
  let s := (s.setPath u.agent { u.path with phase := .missed, present := false, awaiting := m.waits }).fetchMiss m
  if u.core < 4096 then s.modCore u.core fun k => { k with slips := k.slips + 1 } else s

/-- The path with its region begun where RG of the header is set (R52 step 4, R158, R175). -/
def Path.beginRegion (p : Path) : Path :=
  if p.clause.header.getLsbD 35 then
    { p with rgpc := p.clause.addr, rgc := false, snap := { fmt := p.fmt, loops := p.loops } }
  else p

/-- The path at the first word of its clause, its region begun where RG is set, at a place in its group's issue order (R52 steps 4 and
6, R71, R158, R175). -/
def Path.beginClause (p : Path) (ws : List DWord) (now : Nat) : Path :=
  let p := p.beginRegion
  let p := { p.unlanded with
    clause := { p.clause with words := ws, idx := 0 }, dist := 0, spent := 0, began := now, phase := .issuing, aged := false, passed := false, present := false,
    step := false, stepping := p.stepping || p.step }
  { p with pc := p.wordAddr }

/-- CLAUSE_FETCH: the clause of a selected path is fetched, or misses; region and break steps run and issue begins
(R52 steps 3 to 6, R380, R428). A steward needs no selection. -/
def execClauseFetch (a : Agent) (miss : Bool) (s : State) : Host.Outcome State Fault Refusal :=
  match (s.issuer? a).map (·.refresh s) with
  | none => .fault .notEnabled
  | some u =>
    let group := match a with
      | .path c sl _ => s.group? c sl
      | _ => none
    if !(u.path.phase = .selected || (u.kind = .steward && u.path.phase = .armed)) || u.path.hold || s.mustEnter a then .fault .notEnabled
    else if !s.waitsHold a u.path.clause.header then .next (s.setPath a { u.path with phase := .waiting, aged := false })
    else if group.any fun g => (s.interruptible? u.core u.slot g).isSome then .next (s.takeInterrupt u.core u.slot)
    else match u.poisoned none, s.fetchClause u with
    | x :: l, _ => .next (s.raisePoison u (x :: l))
    | [], .error (m, va) => .next (if m.waits.isSome then s.missFetch u m else s.fetchFault u m va)
    | [], .ok ws =>
      let s := s.cacheRange u.core u.ctx u.path.view.root u.path.pc.toNat (8 * (ws.length + 1)) .fetch
      if miss && !u.path.present then .next (s.missFetch u {})
      else
        let hits := if u.path.clause.header.getLsbD 34 && !u.path.passed then u.path.view.breakpoints u.ctx u.path.pc else []
        let traced := hits.any fun b => b.getLsbD 2
        match hits, a with
        | [], _ => .next (s.setPath a (u.path.beginClause ws (s.seqOf a).seq))
        | _ :: _, .path c sl i =>
          let s := if traced then s.trace 1 c sl i u.path.pc u.path.exec else s
          .next ((s.setPath a { u.path.beginRegion with phase := .armed, passed := true }).setHold c sl i)
        | _ :: _, .helper c _ =>
          let s := if traced then s.trace 1 c u.slot 16 u.path.pc u.path.exec else s
          .next (s.setPath a (u.path.beginClause ws (s.seqOf a).seq))
        | _ :: _, .steward _ => .next (s.setPath a (u.path.beginClause ws (s.seqOf a).seq))

/-- ICACHE_FILL: a missed clause is present and the path enters selection again (R380); a borrowed line that is not at hand is asked
for again. -/
def execIcacheFill (a : Agent) (s : State) : Host.Outcome State Fault Refusal :=
  match (s.issuer? a).map (·.refresh s) with
  | none => .fault .notEnabled
  | some u =>
    if u.path.phase != .missed then .fault .notEnabled
    else match s.fetchClause u with
    | .error (m, _) =>
      if m.waits.isSome then changed s ((s.modPath a fun p => { p with awaiting := m.waits }).fetchMiss m) else .next (s.modPath a fun p => { p with phase := .armed, present := true })
    | .ok _ => .next (s.modPath a fun p => { p with phase := .armed, present := true })

/-! ## Selection (R375 to R377) -/

/-- A path as issue selection ranks it. -/
structure Candidate where
  agent  : Agent
  aged   : Bool
  key    : Nat
  ready  : Nat
  slot   : Nat
  index  : Nat
  slices : List Nat
deriving DecidableEq, Repr

/-- The slices of the lanes of some threads (R12, R376). -/
def slicesOf (threads : List Nat) : List Nat :=
  (List.range 4).filter fun l => threads.any fun t => t % 16 / 4 == l

/-- The better of two candidates (R375). -/
def Candidate.better (a b : Candidate) : Bool :=
  if a.aged != b.aged then a.aged
  else if a.key != b.key then b.key < a.key
  else if a.ready != b.ready then a.ready < b.ready
  else if a.slot != b.slot then a.slot < b.slot
  else a.index < b.index

/-- A path holds its slices: it is selected or issuing (R376). -/
def Phase.holdsSlices : Phase → Bool
  | .selected => true
  | .issuing => true
  | _ => false

/-- A helper that is to leave still runs in a thread of a group that was parked: the group's paths issue no earlier than the release
(R186). -/
def State.lendsOut (s : State) : Agent → Bool
  | .path c sl _ =>
    let live := ((s.group? c sl).map (·.live)).getD 0
    (s.core c).helpers.any fun h => h.2.lentSlot = sl && h.2.leaving && !h.2.self && live.getLsbD h.2.lentThread
  | _ => false

/-- A path for which the watchdog waits at a halt point goes no further (R388). -/
def State.bitten (s : State) (a : Agent) (p : Path) : Bool := p.bite && !p.hold && (s.issuer? a).any s.helped

/-- A path is ready to be selected (R186, R375); none of a group that is being pre-empted is (R382). -/
def State.isReady (s : State) (a : Agent) (p : Path) : Bool :=
  !s.stopped a && !s.lendsOut a && !s.bitten a p && (match p.phase with
    | .armed => !p.hold && s.waitsHold a p.clause.header
    | .resumable => true
    | _ => false)

/-- A ready path is aged: it has been ready for 1,024 core cycles (R375, R377). -/
def Path.agedAt (p : Path) (cycle : Nat) : Bool := p.aged || Nat.max p.readyAt p.since + 1024 ≤ cycle

/-- Every path and helper of a core as a candidate, with its path (R375, R376). A helper ranks under the slot that it borrows and the
stage key of its recruiter's group (log 101). -/
def State.candidates (s : State) (c : Nat) : List (Candidate × Path) :=
  let k := s.core c
  let ofGroup := fun (p : Nat × Group) => p.2.paths.map fun q =>
    (({ agent := .path c p.1 q.1, aged := q.2.agedAt (s.cyc c), key := p.2.key, ready := q.2.readyAt, slot := p.1, index := q.1,
        slices := slicesOf (bitsOf q.2.exec p.2.width) } : Candidate), q.2)
  let ofHelper := fun (p : Nat × Helper) =>
    (({ agent := .helper c p.1, aged := p.2.path.agedAt (s.cyc c), key := ((s.group? c p.2.slot).map (·.key)).getD 1,
        ready := p.2.path.readyAt, slot := p.2.lentSlot, index := 16 + p.2.lentThread,
        slices := slicesOf [p.2.lentThread] } : Candidate), p.2.path)
  k.slots.flatMap ofGroup ++ k.helpers.map ofHelper

/-- The candidates taken in order of rank, each with slices disjoint from those taken before (R376). -/
def pickPaths (cs : List Candidate) (taken : List Nat) : Nat → List Candidate
  | 0 => []
  | n + 1 =>
    match best Candidate.better (cs.filter fun c => c.slices.all fun l => !taken.contains l) with
    | none => []
    | some c => c :: pickPaths (cs.filter fun d => d.agent != c.agent) (taken ++ c.slices) n

/-- A path that is selected, in the core's selection of a number: at its boundary, or issuing again where it resumes inside its
clause, and then aged no more (R21, R375, R376, R379). -/
def Path.select (n : Nat) (p : Path) : Path :=
  if p.phase = .resumable then { p with phase := .issuing, aged := false, pick := n, pickAt := p.spent }
  else { p with phase := .selected, pick := n, pickAt := 0 }

/-- ISSUE_SELECTION: the core selects ready paths with disjoint slice sets (R376). -/
def execIssueSelection (core : Nat) (s : State) : Host.Outcome State Fault Refusal :=
  let all := s.candidates core
  let busy := (all.filter fun c => c.2.phase.holdsSlices).flatMap fun c => c.1.slices
  let chosen := pickPaths ((all.filter fun c => s.isReady c.1.agent c.2).map (·.1)) busy 4
  let n := (s.core core).picks + 1
  if chosen.isEmpty then .fault .notEnabled
  else .next (chosen.foldl (fun s c => s.modPath c.agent (Path.select n)) (s.modCore core fun k => { k with picks := n }))

/-- PATH_AGED: a path that has been ready for 1,024 core cycles becomes aged (R375). -/
def execPathAged (a : Agent) (s : State) : Host.Outcome State Fault Refusal :=
  match s.issuer? a with
  | none => .fault .notEnabled
  | some u =>
    if s.isReady a u.path && !u.path.aged && u.path.agedAt (s.cyc u.core) then
      .next (s.setPath a { u.path with aged := true })
    else .fault .notEnabled

/-! ## Stalls (R379) -/

/-- How an `hjoin` finds a recruitment. -/
inductive JoinState where
  /-- Chunks are running, or the recruiter frame is in use. -/
  | wait
  /-- A chunk for the recruiter to run in helper mode. -/
  | run (chunk : Nat)
  /-- Every chunk has completed. -/
  | done (q : Recruitment)
  /-- A helper fault, for the lowest faulting chunk (R187). -/
  | fault (chunk : Nat) (f : FaultInfo)
deriving DecidableEq, Repr

/-- A chunk runs or is reserved for a helper that does. -/
def Chunk.busy : Chunk → Bool
  | .running _ => true
  | .reserved _ => true
  | _ => false

/-- The state of a thread's recruitment for `hjoin` (R184, R187). -/
def State.joinState (s : State) (c slot t : Nat) (q : Recruitment) : JoinState :=
  let helping := (s.core c).helpers.any fun h => h.2.slot = slot && h.2.thread = t
  let firstFault : Option (Nat × FaultInfo) := (List.range q.chunks.length).findSome? fun i =>
    match q.chunks[i]? with
    | some (Chunk.faulted f) => some (i, f)
    | _ => none
  match firstFault with
  | some (i, f) => if helping then .wait else .fault i f
  | none =>
    match (List.range q.chunks.length).find? fun i => q.chunks[i]? = some .unassigned with
    | some i => if (s.core c).helpers.any fun h => h.2.slot = slot && h.2.self then .wait else .run i
    | none => if q.chunks.any Chunk.busy then .wait else .done q

/-- No recruitment of an `hjoin`'s threads waits for chunks or for the recruiter frame, or one has a chunk for the recruiter to run
(R184). -/
def State.joinCleared (s : State) (u : Issuer) : Bool :=
  let rec' := (s.group? u.core u.slot).map (·.recruits)
  let js := u.lanes.map fun t => ((rec'.bind fun r => Assoc.get? r t).map fun q => s.joinState u.core u.slot t q).getD (.run 0)
  (js.any fun j => match j with
    | .run _ => true
    | _ => false) || !js.any fun j => j = .wait

/-- The outstanding producers of a completion tag of a group (R226). -/
def State.tagCount (s : State) (uid tag : Nat) : Nat :=
  (s.cmds.filter fun p => p.2.uid == uid && !p.2.ofSlot && p.2.outTag.contains tag).length

/-- The condition a path stalls on has cleared (R379). -/
def State.stallCleared (s : State) (u : Issuer) : Stall → Bool
  | .interlock regs => !regs.any fun r => s.interlocked u r
  | .counter c limit => (s.rings u.agent).count c ≤ limit
  | .tag t => s.tagCount u.uid t < 255
  | .line e n => u.path.awaiting.isNone || !(s.booth.rlc.any fun l => l.entry = e && l.line = n && l.st != .s && l.st != .e && l.st != .mm)
  | .turn lines => s.linesInTurn u.ctx (s.whoOf u) (u.lanes.headD 0) lines
  | .idle => [Ctr.ld, .st, .am].all fun c => ((s.group? u.core u.slot).map fun g => g.rings.count c == 0).getD true
  | .context ctx => !(s.engine.running.any fun r => r.2.ctx = ctx)
  | .queue n => (Assoc.getD s.engine.queues n []).length < 32
  | .drain ids => !ids.any fun i => (Assoc.get? s.ops i).isSome || (Assoc.get? s.cmds i).isSome
  | .barrier => u.path.woken.isSome && !s.lendsOut u.agent
  | .claim => u.path.woken.isSome && !s.lendsOut u.agent
  | .split entries slot =>
    (match u.agent with
     | .path c sl _ => ((s.group? c sl).map fun g => decide (g.paths.length + entries ≤ 16)).getD true
     | _ => true) && (!slot || (s.freeSlot u.ctx).isSome)
  | .join => s.joinCleared u
  | .refer _ => (s.freeSlot u.ctx).isSome || u.path.lvl
  | .chunk => false
  | .wfi => match u.agent with
    | .steward k => s.pendingEnabled k != 0
    | _ => false

/-- STALL_CLEAR: a stalled path's condition clears and it may resume at its instruction (R379), or at its boundary where
a split waited there (R391). -/
def execStallClear (a : Agent) (s : State) : Host.Outcome State Fault Refusal :=
  match s.issuer? a with
  | none => .fault .notEnabled
  | some u =>
    match u.path.phase with
    | .stalled why =>
      if !s.stallCleared u why || s.stopped a || s.awaitsHelpers u then .fault .notEnabled
      else if u.path.bite && !u.path.hold then .next (s.bite u)
      else match why, a with
      | .refer f, .path c sl _ => .next (s.splitGroup u c sl (u.lanes.map fun t => (t, f)) true).1
      | _, _ =>
      if u.path.clause.words.isEmpty then .next (s.setPath a { u.path with phase := .boundary })
      else .next (s.setPath a { u.path with phase := if u.kind = .steward then .issuing else .resumable, since := s.cyc u.core })
    | _ => .fault .notEnabled

end Sys2Proof.Machine
end

