-- ==== Sys2Proof/Machine/Control.lean ====
section
/-! DEFINITION. Branches, divergence, calls, exit, loops and regions (R158, R161 to R178). -/
namespace Sys2Proof.Machine

/-! ## Divergence (R161, R162, R164) -/

/-- The target of a FB word: the clause's address plus 8·sext(OFFS) (R62). -/
def Issuer.target (u : Issuer) (offs : Word) : PC := u.path.clause.addr + BitVec.ofInt 60 (8 * offs.toInt)

/-- The lanes grouped by their next PC, in increasing PC order (R161). -/
def sidesOf (lanes : List (Nat × PC)) : List (PC × Mask) :=
  let pcs := lanes.foldl (fun (acc : Assoc Unit) l => Assoc.set acc l.2.toNat ()) []
  pcs.map fun p => (BitVec.ofNat 60 p.1, maskOf ((lanes.filter fun l => l.2.toNat == p.1).map (·.1)))

/-- The frame-tail entries in use by a group's paths (R164). -/
def tailsInUse (ps : Assoc Path) : List Nat := ps.vals.flatMap fun p => p.recon.filterMap (·.tail)

/-- A side deferred on a stack: joined to the top entry at the same PC, or pushed; none where the tail is full (R162,
R164). -/
def deferSide (stack : List Recon) (used : List Nat) (side : PC × Mask) : Option (List Recon) :=
  match stack with
  | e :: rest =>
    if e.pc = side.1 then some ({ e with mask := e.mask ||| side.2 } :: rest)
    else if stack.length < 8 then some ({ pc := side.1, mask := side.2 } :: stack)
    else
      let used := used ++ stack.filterMap (·.tail)
      match (List.range 128).find? fun i => !used.contains i with
      | some i => some ({ pc := side.1, mask := side.2, tail := some i } :: stack)
      | none => none
  | [] => some [{ pc := side.1, mask := side.2 }]

/-- Sides deferred one after another. -/
def deferSides (used : List Nat) : List Recon → List (PC × Mask) → Option (List Recon)
  | stack, [] => some stack
  | stack, side :: rest => match deferSide stack used side with
    | some st => deferSides used st rest
    | none => none

/-- A path that a split creates (R18, R158, R161, R270): it shares the parent's state and has one side. -/
def Path.child (p : Path) (side : PC × Mask) : Path :=
  { p with pc := side.1, exec := side.2, recon := [], phase := .boundary, clause := {}, dist := 0, pend := [], halt := false,
           present := false, passed := false, counted := false, parked := none, woken := none }

/-- The sides of a divergent instruction after the lowest: those that take free entries, and those deferred (R161). -/
def assignSides (free : List Nat) (sides : List (PC × Mask)) : List (Nat × (PC × Mask)) × List (PC × Mask) :=
  (free.zip sides, sides.drop free.length)

/-- The end of a clause whose lanes go to one or more next PCs (R161, R162); none where the frame tail is full. -/
def State.diverge (s : State) (u : Issuer) (sides : List (PC × Mask)) : Option State :=
  match sides with
  | [] => some (s.endClause u u.path.nextClause)
  | [side] => some (s.endClause u side.1)
  | side :: more =>
    match u.agent with
    | .path c sl i =>
      match s.group? c sl with
      | none => some s
      | some g =>
        let free := (List.range 16).filter fun k => (Assoc.get? g.paths k).isNone
        let (taken, deferred) := assignSides free more
        match deferSides (tailsInUse (Assoc.erase g.paths i)) u.path.recon deferred.reverse with
        | none => none
        | some stack =>
          let s := s.endClause u side.1
          match s.path? u.agent with
          | none => some s
          | some p =>
            let s := s.setPath u.agent { p with exec := side.2, recon := stack }
            some (taken.foldl (fun s e =>
              (s.setPath (.path c sl e.1) (p.child e.2)).trace 4 c sl e.1 e.2.1 e.2.2) s)
    | _ => some (s.endClause u side.1)

/-- A divergent instruction: the whole path takes the illegal-instruction trap where the frame tail is full (R164). -/
def State.branchLanes (s : State) (u : Issuer) (lanes : List (Nat × PC)) : State :=
  match s.diverge u (sidesOf lanes) with
  | some s' => s'
  | none => s.raiseHere u 0x01

/-! ## Branches and calls (R167 to R169) -/

/-- Checks of a control instruction (R55, R56). -/
def ctrlReq (ends : Bool) (uses : List Use) : Req := { cls := Cls.ctrl, ends := ends, uses := uses }

/-- One g register of any index (R24). -/
def gUse (o : Opnd) (write : Bool) : Use := { o := o, role := .greg, write := write }

/-- `bra` (R167). -/
def execBra (f : FB) (s : State) : Host.Outcome State Fault Refusal :=
  issue s (.bra f) (fun _ => ctrlReq true []) fun u => s.endClause u (u.target f.offs)

/-- A thread is taken by `brc`: its mask bit is 1 under sense 0x00, 0 under 0x01 (R166, R167). -/
def brcTaken (sense : Opnd) (m : Mask) (t : Nat) : Bool := m.getLsbD t == (sense == .v 0)

/-- `brc` (R167). -/
def execBrc (f : FB) (s : State) : Host.Outcome State Fault Refusal :=
  issue s (.brc f) (fun _ => ctrlReq true [{ o := f.d, role := .mask }]) fun u =>
    let m := s.readMask u f.d
    s.branchLanes u (u.lanes.map fun t => (t, if brcTaken f.a m t then u.target f.offs else u.path.nextClause))

/-- An indirect transfer: lanes with a misaligned target fault, the others write the link where there is one and group by
target (R57, R168, R169). The misaligned lanes split off first, also where no room is left for the others' sides (log 91). -/
def State.indirect (s : State) (u : Issuer) (a : Opnd) (link : Option Opnd) : State :=
  let tgt := fun t => s.read64 u a t
  let bad := u.lanes.filter fun t => (tgt t).toNat % 8 != 0
  let good := u.lanes.filter fun t => (tgt t).toNat % 8 == 0
  let faults := bad.map fun t => (t, ({ cause := 0x06, faddr := tgt t, pc := u.path.wordAddr } : FaultInfo))
  match s.raiseLanes u faults with
  | (s', false) => s'
  | (s', true) =>
    if good.isEmpty then s'
    else match s'.issuer? u.agent with
    | none => s'
    | some v =>
      let linked := match link with
        | none => s'
        | some d => s'.pushWrites v (resultWrites d false [(0, u.path.nextClause.setWidth 64)]) 1
      match (linked.issuer? u.agent).bind fun w =>
          linked.diverge w (sidesOf (good.map fun t => (t, (tgt t).setWidth 60))) with
      | some t => t
      | none => s'.raiseHere v 0x01

/-- `brx` (R168). -/
def execBrx (f : F3) (s : State) : Host.Outcome State Fault Refusal :=
  issue s (.brx f) (fun _ => ctrlReq true [{ o := f.a, role := .w64 }]) fun u => s.indirect u f.a none

/-- `callx` (R169). -/
def execCallx (f : F3) (s : State) : Host.Outcome State Fault Refusal :=
  issue s (.callx f) (fun _ => ctrlReq true [gUse f.d true, { o := f.a, role := .w64 }]) fun u => s.indirect u f.a (some f.d)

/-- `ret` (R168, R169). -/
def execRet (f : F3) (s : State) : Host.Outcome State Fault Refusal :=
  issue s (.ret f) (fun _ => ctrlReq true [gUse f.a false]) fun u => s.indirect u f.a none

/-- `call` (R169). -/
def execCall (f : FB) (s : State) : Host.Outcome State Fault Refusal :=
  issue s (.call f) (fun _ => ctrlReq true [gUse f.d true]) fun u =>
    (s.pushWrites u (resultWrites f.d false [(0, u.path.nextClause.setWidth 64)]) 1).endClause u (u.target f.offs)

/-! ## Exit, yield, nop (R170, R171) -/

/-- The threads of exec that hold an active recruitment (R178, R179). -/
def State.recruiting (s : State) (u : Issuer) : List Nat :=
  match s.group? u.core u.slot with
  | some g => if u.kind = .simt then u.lanes.filter fun t => (Assoc.get? g.recruits t).isSome else []
  | none => []

/-- `exit`: the threads of exec end (R15, R170); a helper waits for its counters to end its chunk (R182). -/
def execExit (f : F3) (s : State) : Host.Outcome State Fault Refusal :=
  issue s (.exit f) (fun u => { ctrlReq true [] with may := u.kind != .steward }) fun u =>
    match u.agent with
    | .path c sl _ =>
      if !(s.recruiting u).isEmpty then s.raiseHere u 0x01
      else
        let s := s.endClause u u.path.nextClause
        let s := s.modPath u.agent fun p => { p with exec := 0 }
        s.modGroup c sl fun g => { g with live := g.live &&& ~~~u.path.exec }
    | _ => s.stall u .chunk

/-- `yield` (R171). -/
def execYield (f : F3) (s : State) : Host.Outcome State Fault Refusal :=
  issue s (.yield f) (fun _ => ctrlReq true []) fun u => (s.endClause u u.path.nextClause).yieldGroup u.agent

/-- `nop` (R171). -/
def execNop (f : F3) (s : State) : Host.Outcome State Fault Refusal :=
  issue s (.nop f) (fun _ => ctrlReq false []) fun u => s.retire u f.sc

/-! ## Loops (R19, R172 to R174) -/

/-- `loop` (R172). -/
def execLoop (f : FB) (s : State) : Host.Outcome State Fault Refusal :=
  issue s (.loop f) (fun _ => ctrlReq true [gUse f.a false]) fun u =>
    let n := (s.read64 u f.a 0).setWidth 32
    if 4 ≤ u.path.loops.length then s.raiseHere u 0x01
    else if n = 0 then s.endClause u (u.target f.offs)
    else
      (s.modPath u.agent fun p =>
        { p with loops := { count := n, start := u.path.nextClause, stop := u.target f.offs } :: p.loops }).endClause u
        u.path.nextClause

/-- `endl` and `endl.x` on the top entry (R173). -/
def State.endLoop (s : State) (u : Issuer) (leave : Bool) : State :=
  match u.path.loops with
  | [] => s.raiseHere u 0x01
  | e :: rest =>
    if leave || e.count = 1 then (s.modPath u.agent fun p => { p with loops := rest }).endClause u e.stop
    else (s.modPath u.agent fun p => { p with loops := { e with count := e.count - 1 } :: rest }).endClause u e.start

/-- `endl` (R173). -/
def execEndl (f : FB) (s : State) : Host.Outcome State Fault Refusal :=
  issue s (.endl f) (fun _ => ctrlReq true []) fun u => s.endLoop u false

/-- `endl.x` (R173). -/
def execEndlX (f : FB) (s : State) : Host.Outcome State Fault Refusal :=
  issue s (.endlX f) (fun _ => ctrlReq true []) fun u => s.endLoop u true

/-! ## Regions (R175, R176) -/

/-- `rgn`: the region begins at the label, with its snapshot (R158, R175). -/
def execRgn (f : FB) (s : State) : Host.Outcome State Fault Refusal :=
  issue s (.rgn f) (fun _ => ctrlReq false []) fun u =>
    (s.modPath u.agent fun p =>
      { p with rgpc := u.target f.offs, rgc := false, snap := { fmt := u.fmt, loops := p.loops } }).retire u f.sc

/-- The state in which an issuer's region has committed (R176). -/
def State.commitRegion (s : State) (u : Issuer) : State := s.modPath u.agent fun p => { p with rgc := true }

end Sys2Proof.Machine
end

