-- ==== Sys2Proof/Machine/Hub.lean ====
section
/-! DEFINITION. The hub area: its registers, the debug commands, the trace ring's registers, monitors, submission slots,
and the rows of the table that write a register (R6, R29, R414 to R416, R426 to R434). -/
namespace Sys2Proof.Machine

/-! ## Debug commands (R429) -/

/-- The path a DCMD names, in a resident group (R429). -/
def State.dcmdPath? (s : State) (v : DWord) : Option (Nat × Nat × Nat × Path) :=
  let gid := bits v.toNat 8 16
  match s.group? (gid / 16) (gid % 16) with
  | none => none
  | some g =>
    if g.ctx = bits v.toNat 24 10 && g.life = .resident then
      (Assoc.get? g.paths (bits v.toNat 4 4)).map fun p => (gid / 16, gid % 16, bits v.toNat 4 4, p)
    else none

/-- The state with DSTAT written (Table 4 of the debug chapter). -/
def State.setDstat (s : State) (v : Nat) : State := { s with dbg := { s.dbg with dstat := BitVec.ofNat 64 v } }

/-- HOLD of a path cleared (R429): it goes on at its header (log 92); a watchdog that waits is taken at its boundary (R388), and so is a
user interrupt (R399). -/
def State.clearHold (s : State) (c sl i : Nat) (p : Path) (step : Bool) : State :=
  let s := s.setPath (.path c sl i) { p with
    hold := false, aged := p.aged && !p.hold, step := step || p.step, phase := if p.hold && p.bite then .boundary else p.phase
    readyAt := if p.hold then s.cyc c else p.readyAt }
  if p.hold then (s.trace 3 c sl i p.pc p.exec).takeInterrupt c sl else s

/-- A write of DCMD (R429). -/
def State.dcmd (s : State) (v : DWord) : State :=
  let op := bits v.toNat 0 2
  if s.dbgBusy then s.setDstat 6
  else if op = 0 then s.setDstat 0
  else match s.dcmdPath? v with
  | none => s.setDstat 1
  | some (c, sl, i, p) =>
    if op = 1 then
      if p.hold then s.setDstat 0 else (s.setPath (.path c sl i) { p with halt := true }).setDstat 4
    else if op = 2 then (s.clearHold c sl i p false).setDstat 0
    else (s.clearHold c sl i p true).setDstat 4

/-- A write of MSEL: the source is selected and the data cleared (R434). -/
def State.mselWrite (s : State) (m : Nat) (v : DWord) : State :=
  let new : Monitor := { msel := v &&& 0xFFFFFFFF00001FFF }
  if m < 16384 then s.modCore (m / 4) fun k => { k with monitors := Assoc.set k.monitors (m % 4) new }
  else { s with monitors := Assoc.set s.monitors (m - 16384) new }

/-- A write of TRDP: kept if a multiple of 32 that is not ahead of TPTR, as a signed difference tells (R430; log 79). -/
def State.trdpWrite (s : State) (v : DWord) : State :=
  if v.toNat % 32 = 0 && (v - s.dbg.tptr).toInt ≤ 0 then { s with dbg := { s.dbg with trdp := v } }
  else s

/-- A write of TBASE or TSIZE: the ring starts again (R430). -/
def State.traceRing (s : State) (size : Bool) (v : DWord) : State :=
  let v := v &&& 0xFFFFFFFFFFFFF000
  { s with
    dbg := { s.dbg with
      tbase := if size then s.dbg.tbase else v
      tsize := if size then v else s.dbg.tsize
      tptr := 0
      trdp := 0
      tnext := 0
      traces := [] } }

/-- A write of FMCTL (R431): REC going to 1 starts a recording, with memory as it stands as the base image (R432). RPL going
to 1 asks for a replay, which FOMAR_REPLAY starts; RPL going to 0 ends one (R433). -/
def State.fmctlWrite (s : State) (v : DWord) : State :=
  let v := v &&& 0x3FFFFFF0003
  let f := { s.fomar with ctl := v, active := s.fomar.active && v.getLsbD 1 }
  if v.getLsbD 0 && !s.fomar.ctl.getLsbD 0 then
    { s with
      fomar := { f with full := false, used := 0, lastAt := s.clocks.nsc, image := s.mem, log := [], dirty := [], cks := [] } }
  else { s with fomar := f }

/-- A write of a register of the hub area; a reserved or read-only field ignores it (R5, R414, R426, R431, R434). -/
def State.hubWrite (s : State) (r : HubWord) (v : DWord) : State :=
  match r with
  | .sstart => { s with sstart := v &&& 0x0FFFFFFFFFFFFFF8 }
  | .bpaddr n => { s with dbg := { s.dbg with bpaddr := modifyAt s.dbg.bpaddr n fun _ => v &&& 0x0FFFFFFFFFFFFFF8 } }
  | .bpctl n => { s with dbg := { s.dbg with bpctl := modifyAt s.dbg.bpctl n fun _ => v &&& 0x3FF0007 } }
  | .dcmd => s.dcmd v
  | .tbase => s.traceRing false v
  | .tsize => s.traceRing true v
  | .tdrop => { s with dbg := { s.dbg with tdrop := s.dbg.tdrop &&& ~~~v } }
  | .trdp => s.trdpWrite v
  | .fmctl => s.fmctlWrite v
  | .fmbase => { s with fomar := { s.fomar with base := v &&& 0xFFFFFFFFFFFFF000 } }
  | .fmsize => { s with fomar := { s.fomar with size := v &&& 0xFFFFFFFFFFFFF000 } }
  | .monitor m k => if k = 0 then s.mselWrite m v else s
  | .dstat => s
  | .tptr => s
  | .fmstat => s

/-! ## Submission slots (R415, R416) -/

/-- The physical address of a submission slot. -/
def slotBase (k : Nat) : Nat := hubArea + 0x1000 * k

/-- The state with the answer of a command of the host sent to it, as the slot image with STATUS, the result and OWN = 0
(R422). -/
def State.answerHost (s : State) (k w status : Nat) (result : List Byte) : State :=
  { s with
    engine := { s.engine with
      slots := Assoc.erase s.engine.slots k, images := Assoc.erase s.engine.images k, submits := Assoc.erase s.engine.submits k } }.tellHost
      (toBytes 8 (w % 2 ^ 63) ++ toBytes 4 status ++ List.replicate 52 0 ++ result)

/-- The state with the answer of a slot's command written: STATUS, the result, then CMDW with OWN = 0 (R416). -/
def State.answer (s : State) (k status : Nat) (result : List Byte) : State :=
  match Assoc.get? s.engine.slots k with
  | none => s
  | some w => if 32 ≤ k then s.answerHost k w status result else
    let s := s.homeWrite none (slotBase k + 8) (toBytes 4 status)
    let s := if result.isEmpty then s else s.homeWrite none (slotBase k + 0x40) result
    let s := s.homeWrite none (slotBase k) (toBytes 8 (w % 2 ^ 63))
    { s with
      engine := { s.engine with
        slots := Assoc.erase s.engine.slots k, images := Assoc.erase s.engine.images k, submits := Assoc.erase s.engine.submits k } }

/-- The state with a slot's command under its CMDW, and what stands as it is submitted, by a steward or by the host, whose fmt is not
stated (R114, R417, R440; log 28). -/
def State.submit (s : State) (k w : Nat) (steward : Option Nat) : State :=
  let fmt := match steward with
    | some n => (s.steward n).path.fmt
    | none => Config.hostFmt s.free
  { s with
    free := if steward.isNone then s.free + 1 else s.free
    engine := { s.engine with
      slots := Assoc.set s.engine.slots k w
      submits := Assoc.set s.engine.submits k { fmt := fmt, early := s.bringup.stage < 6 } } }

/-- The bytes of the payload of a command (R417). -/
def payloadBytes (cmd : Nat) : Nat :=
  [0, 256, 48, 12, 1, 4, 4, 56, 4, 64, 8, 16, 8, 32, 4, 17].getD cmd 0

/-- A free word of a slot that the engine cannot read, and the state after it is drawn (R346; log 104). -/
def State.lostWord (s : State) : Nat × State := ((Config.lostWord s.free).toNat, { s with free := s.free + 1 })

/-- OWN of a slot has gone from 0 to 1: the engine reads CMDW and the payload, and answers a CMD that is no command; a command of whose slot
it cannot read a byte has no effect (R346, R416, R417; log 104). -/
def State.slotWritten (s : State) (k : Nat) (steward : Option Nat) : State :=
  let lost := (s.poisonIn (slotBase k) 8).isSome
  let (w, s) := if lost then s.lostWord else (s.mem.load (slotBase k) 8, s)
  let s := s.submit k w steward
  let cmd := w % 256
  if lost || (s.poisonIn (slotBase k + 0x40) (payloadBytes cmd)).isSome then
    let (v, s) := s.lostWord
    s.answer k (v % 2 ^ 32) []
  else if 1 ≤ cmd && cmd ≤ 15 then
    { s with engine := { s.engine with images := Assoc.set s.engine.images k (s.mem.readN (slotBase k) 0x140) } }
  else s.answer k 0xFF []

/-- The bits of HMODE whose functions a command belongs to (R422). -/
def hostFunctions (cmd : Nat) : Nat :=
  if cmd = 5 || cmd = 6 then 1 else if cmd = 9 then 3 else if cmd = 13 || cmd = 14 then 2 else if cmd = 10 then 4 else if cmd = 11 then 8 else 0

/-- A slot image of the host arrives on vsock port 1002: its command runs as a slot's does, where a function it belongs to is
host-assisted (R422). -/
def State.hostCommand (s : State) (image : List Byte) : State :=
  let w := valueAt image 0 8
  let (k, s) := s.freshId
  let s := { s with engine := { s.engine with images := Assoc.set s.engine.images k image } }.submit k w none
  let cmd := w % 256
  if cmd = 0 || 15 < cmd then s.answer k 0xFF []
  else if hostFunctions cmd &&& s.hmode.toNat = 0 then s.answer k 0xFE []
  else s

/-! ## Accesses at physical addresses -/

/-- The steward that a core number from 4,096 on stands for; the package's engines count as steward 0 (log 28). -/
def stewardOf (by' : Option Nat) : Option Nat := by'.bind fun n => if 4096 ≤ n && n < 4128 then some (n - 4096) else none

/-- The state with bytes written at a physical address by a core, or by another agent: a register of the hub area takes
them into its word, and a submission slot whose OWN goes from 0 to 1 starts its command (R321, R416). -/
def State.physWrite (s : State) (by' : Option Nat) (pa : Nat) (bs : List Byte) : State :=
  match hubWordAt (pa / 8 * 8) with
  | some r =>
    let words := (List.range ((pa % 8 + bs.length + 7) / 8)).map fun k => pa / 8 * 8 + 8 * k
    words.foldl (fun s a => match hubWordAt a with
      | none => s
      | some r' =>
        let old := toBytes 8 (s.hubRead (if a = pa / 8 * 8 then r else r')).toNat
        let new := (List.range 8).map fun k => if pa ≤ a + k && a + k < pa + bs.length then bs.getD (a + k - pa) 0 else old.getD k 0
        s.hubWrite r' (BitVec.ofNat 64 (ofBytes new))) s
  | none =>
    let k := (pa - hubArea) / 0x1000
    let isSlot := hubArea ≤ pa && pa < hubArea + 0x20000 && pa % 0x1000 < 8
    let before := isSlot && !s.poisonedAt (slotBase k + 7) && (s.mem.load (slotBase k) 8).testBit 63
    let s := s.homeWrite by' pa bs
    if isSlot && !before && (Assoc.get? s.engine.slots k).isNone && !s.poisonedAt (slotBase k + 7) && (s.mem.load (slotBase k) 8).testBit 63 then s.slotWritten k (stewardOf by') else s

/-! ## The rows that write one register (R6, R29, R426 to R434) -/

/-- DCMD HALT (R429). -/
def execDcmdHalt (value : DWord) (s : State) : Host.Outcome State Fault Refusal :=
  if bits value.toNat 0 2 = 1 then .next (s.hubWrite .dcmd value) else .fault .notEnabled

/-- DCMD RELEASE (R429). -/
def execDcmdRelease (value : DWord) (s : State) : Host.Outcome State Fault Refusal :=
  if bits value.toNat 0 2 = 2 then .next (s.hubWrite .dcmd value) else .fault .notEnabled

/-- DCMD STEP (R429). -/
def execDcmdStep (value : DWord) (s : State) : Host.Outcome State Fault Refusal :=
  if bits value.toNat 0 2 = 3 then .next (s.hubWrite .dcmd value) else .fault .notEnabled

/-- TRDP_WRITE (R430). -/
def execTrdpWrite (value : DWord) (s : State) : Host.Outcome State Fault Refusal := .next (s.hubWrite .trdp value)

/-- TRACE_RING_WRITE (R430). -/
def execTraceRingWrite (size : Bool) (value : DWord) (s : State) : Host.Outcome State Fault Refusal :=
  .next (s.hubWrite (if size then .tsize else .tbase) value)

/-- TDROP_CLEAR (R426). -/
def execTdropClear (value : DWord) (s : State) : Host.Outcome State Fault Refusal := .next (s.hubWrite .tdrop value)

/-- MSEL_WRITE (R434). -/
def execMselWrite (monitor : Nat) (value : DWord) (s : State) : Host.Outcome State Fault Refusal :=
  if monitor < 16400 then .next (s.mselWrite monitor value) else .fault .notEnabled

/-- A write of LSCFG: ignored where a group holds a slot of the core, or the division is not allowed (R29). -/
def State.lscfgWrite (s : State) (core : Nat) (v : DWord) : State :=
  let scru := bits v.toNat 8 8
  let l1 := bits v.toNat 0 4
  if !(s.core core).slots.isEmpty || 128 < scru || l1 = 0 || 10 < l1 || 192 < scru + 16 * l1 + 24 then s
  else s.modCore core fun k => { k with lscfg := v &&& 0xFF0F, free := 192 - scru - 16 * l1, l1 := k.l1.take (1024 * l1) }

/-- REGISTER_WRITE: a write to a register without a row of its own (R6). -/
def execRegisterWrite (reg : HubReg) (value : DWord) (s : State) : Host.Outcome State Fault Refusal :=
  match reg with
  | .sstart => .next (s.hubWrite .sstart value)
  | .bpaddr n => .next (s.hubWrite (.bpaddr n.val) value)
  | .bpctl n => .next (s.hubWrite (.bpctl n.val) value)
  | .dstat => .next (s.hubWrite .dstat value)
  | .tptr => .next (s.hubWrite .tptr value)
  | .fmbase => .next (s.hubWrite .fmbase value)
  | .fmsize => .next (s.hubWrite .fmsize value)
  | .fmstat => .next (s.hubWrite .fmstat value)
  | .fmctl => .next (s.hubWrite .fmctl value)
  | .lscfg core => if core < 4096 then .next (s.lscfgWrite core value) else .fault .notEnabled

end Sys2Proof.Machine
end

