-- ==== Sys2Proof/Machine/Borrow.lean ====
section
/-! DEFINITION. Lending at its core: the directory of a home and its requests (R320, R357, R361 to R369). -/
namespace Sys2Proof.Machine

/-! ## The directory of the home (R320, R361, R362) -/

/-- The load level that the controller of a line answers with (R369). -/
def State.loadLevel (s : State) (line : Nat) : Nat :=
  let q := (s.booth.dir.filter fun d => poolController (d.1 * 64) = poolController (line * 64)).foldl (fun n d => n + d.2.queue.length) 0
  let base := Nat.min 7 (8 * q / 512)
  match s.lentAt? (line * 64) with
  | some (_, l) => if l.waiting.isEmpty then base else Nat.max 6 base
  | none => base

/-- The borrowers a request must snoop, and whether the snoops invalidate (Table 4). -/
def DirLine.toSnoop (d : DirLine) : HomeReq → List Nat × Bool
  | .rds b => (d.owner.toList.filter fun o => o != b, false)
  | .rdown b _ => ((d.owner.toList ++ d.sharers).filter fun o => o != b, true)
  | .local _ => (d.owner.toList ++ d.sharers, true)
  | .wr _ _ _ => ([], true)

/-- The directory entry after a borrower no longer holds the line. -/
def DirLine.without (d : DirLine) (b : Nat) : DirLine :=
  { d with sharers := d.sharers.filter (· != b), owner := if d.owner = some b then none else d.owner }

/-- A home write of a borrower: performed for the owner, else discarded; either way answered (R357, R361). -/
def State.homeWr (s : State) (line b : Nat) (bytes : Line) (mask : DWord) : State :=
  if (s.dirLine line).owner = some b then
    let bs := toBytes 64 bytes.toNat
    let s := (List.range 64).foldl (fun s k => if mask.getLsbD k then s.homeWrite none (line * 64 + k) [bs.getD k 0] else s) s
    s.send b (.cmp line (s.loadLevel line) false)
  else s.send b (.cmp line (s.loadLevel line) true)

/-- The home has the copy of a line that a borrower holds, so that it need not send the data. -/
def DirLine.has (d : DirLine) (b : Nat) : Bool := d.owner = some b || d.sharers.contains b

/-- The state with so many bytes more counted against the cap of the lease of a line in the microsecond that is running (R368). -/
def State.spend (s : State) (line n : Nat) : State :=
  match s.lentAt? (line * 64) with
  | none => s
  | some (entry, _) =>
    let now := s.clocks.nsc / 1000
    s.modLent entry fun l => { l with spentAt := now, spent := (if l.spentAt = now then l.spent else 0) + n }

/-- A request for ownership alone that turns out to need the data has to wait for the next microsecond under the cap of its lease (R368). -/
def State.capped (s : State) (line : Nat) : HomeReq → Bool
  | .rdown b false => !(s.dirLine line).has b && (match s.lentAt? (line * 64) with
    | some (_, l) => l.bwc != 0 && l.bwc * 1000 < (if l.spentAt = s.clocks.nsc / 1000 then l.spent else 0) + 64
    | none => false)
  | _ => false

/-- The completion of a request whose snoops are answered (Table 4): `none` for a write of the home's own, which stands
until its operation performs it. Data that a request for ownership alone turns out to need are counted as they go (R368). -/
def State.completeHome (s : State) (line : Nat) (r : HomeReq) (rest : List HomeReq) : Option State :=
  let d := s.dirLine line
  let data : Line := BitVec.ofNat 512 (ofBytes (s.physRead (line * 64) 64))
  let level := s.loadLevel line
  let bad := (s.poisonIn (line * 64) 64).isSome
  match r with
  | .local _ => none
  | .rds b =>
    let d := { d with queue := rest, sharers := if d.owner = some b then d.sharers else (d.sharers.filter (· != b)) ++ [b] }
    some ((s.setDir line d).send b (.cmpS line (if bad then none else some data) level))
  | .rdown b wants =>
    let s := if !wants && !d.has b then s.spend line 64 else s
    let d' := { d with queue := rest, sharers := [], owner := some b }
    some ((s.setDir line d').send b (.cmpE line (if (wants || !d.has b) && !bad then some data else none) level))
  | .wr b bytes mask => some ((s.setDir line { d with queue := rest }).homeWr line b bytes mask)

/-- The state with a request answered that is not performed: a read with poisoned data, a write with an error (R357;
log 64). -/
def State.refuse (s : State) (line : Nat) : HomeReq → State
  | .rds b => s.send b (.cmpS line none (s.loadLevel line))
  | .rdown b _ => s.send b (.cmpS line none (s.loadLevel line))
  | .wr b _ _ => s.send b (.cmp line (s.loadLevel line) true)
  | .local _ => s

/-- The package a request at the home comes from; none for the home's own. -/
def HomeReq.pkg? : HomeReq → Option Nat
  | .rds p => some p
  | .rdown p _ => some p
  | .wr p _ _ => some p
  | .local _ => none

/-! ## Borrowers that hold a line no longer (R357, R364) -/

/-- A borrower neither holds a line nor waits at it: its requests are refused, and no wait on it remains. -/
def State.strikeLine (s : State) (b line : Nat) : State :=
  let d := s.dirLine line
  let mine := fun (r : HomeReq) => r.pkg? == some b
  (d.queue.filter mine).foldl (fun s r => s.refuse line r)
    (s.setDir line { d.without b with queue := d.queue.filter fun r => !mine r, wait := d.wait.filter fun w => w.1 != b })

/-- The lines of a lent extent that the directory knows. -/
def State.dirLinesOf (s : State) (l : Lent) : List Nat :=
  let first := (0x40000000000 + l.poff * 4096) / 64
  s.booth.dir.keys.filter fun k => first ≤ k && k < first + 2 ^ l.sz / 64

/-- A borrower leaves a lease: it holds nothing of the extent any more, and the entry is freed where none remains; the lines of the
extent are still to go on. A freed entry reads as zeros (log 111). -/
def State.strikeLease (s : State) (entry b : Nat) : State :=
  match Assoc.get? s.booth.lent entry with
  | none => s
  | some l =>
    let out := l.waiting.filter fun x => x.2.pkg? == some b
    let s := out.foldl (fun s x => s.refuse x.1 x.2) ((s.dirLinesOf l).foldl (fun s k => s.strikeLine b k) s)
    let alive := l.alive.filter (· != b)
    if alive.isEmpty then { s with booth := { s.booth with lent := Assoc.erase s.booth.lent entry } }
    else s.modLent entry fun l => { l with
      alive := alive
      acks := l.acks.filter fun x => x.1 != b
      waiting := l.waiting.filter fun x => !(x.2.pkg? == some b) }

/-- The lent entries of which a package is still a borrower. -/
def State.leasesOf (s : State) (b : Nat) : Assoc Lent := s.booth.lent.filter fun p => p.2.alive.contains b

/-- A borrower leaves every lease and every line (R357, R364). -/
def State.strikeAll (s : State) (b : Nat) : State :=
  let s := (s.leasesOf b).foldl (fun s p => s.strikeLease p.1 b) s
  s.booth.dir.keys.foldl (fun s k => s.strikeLine b k) s

/-- A package has failed as a borrower: it leaves every lease and every line, and its later messages are discarded (R364; log 93). -/
def State.strike (s : State) (b : Nat) : State :=
  let s := s.strikeAll b
  { s with booth := { s.booth with failed := b :: s.booth.failed.filter (· != b) } }

/-! ## The lines at work (R361, R362, R364) -/

/-- Lines serve the requests that wait at them, in arrival order, until one must wait for snoops. A borrower that no route reaches has
failed: it leaves every line, and those lines go on too (R361, R362, R364, R407). -/
def State.serveLines (s : State) : Nat → List Nat → State
  | 0, _ => s
  | _, [] => s
  | n + 1, line :: lines =>
    let d := s.dirLine line
    if !d.wait.isEmpty then s.serveLines n lines
    else match d.queue with
    | [] => s.serveLines n lines
    | r :: rest =>
      let (snoop, inv) := d.toSnoop r
      match snoop.find? fun b => (s.route? b).isNone with
      | some b => (s.strike b).serveLines n (line :: s.booth.dir.keys.filter (fun k => k != line && (s.dirLine k).wait.any fun w => w.1 = b) ++ lines)
      | none =>
        if snoop.isEmpty then
          if s.capped line r then s.serveLines n lines
          else match s.completeHome line r rest with
          | some s => s.serveLines n (line :: lines)
          | none => s.serveLines n lines
        else
          let s := s.setDir line { d with wait := snoop.map fun b => (b, s.clocks.nsc) }
          let level := s.loadLevel line
          (snoop.foldl (fun s b => s.send b (if inv then .snpInv line level else .snpShr line level)) s).serveLines n lines

/-- How often lines can serve a request or lose a borrower. -/
def State.serveBound (s : State) (lines : List Nat) : Nat :=
  lines.length + s.booth.dir.foldl (fun n d => n + 2 * d.2.queue.length + d.2.wait.length + d.2.sharers.length + 2) 0

/-- Lines go on (R361). -/
def State.serve (s : State) (lines : List Nat) : State := s.serveLines (s.serveBound lines) lines

/-- The state with a request at a line: served, or queued behind those before it (R361). -/
def State.homeRequest (s : State) (line : Nat) (r : HomeReq) : State :=
  let d := s.dirLine line
  (s.setDir line { d with queue := d.queue ++ [r] }).serve [line]

/-- A borrower no longer waited for at a line, nor holding it; the line goes on (R361, R364). -/
def State.answered (s : State) (line b : Nat) (keepsS : Bool) : State :=
  let d := s.dirLine line
  let d' := if keepsS then { d with owner := none, sharers := (d.sharers.filter (· != b)) ++ [b] } else d.without b
  (s.setDir line { d' with wait := d.wait.filter fun w => w.1 != b }).serve [line]

/-- The state with a local write asked for at a line, once. -/
def State.askLocal (s : State) (id line : Nat) : State :=
  if (s.dirLine line).queue.contains (.local id) then s else s.homeRequest line (.local id)

/-- The state after a local write of a line: the next request is served. -/
def State.localDone (s : State) (id line : Nat) : State :=
  match Assoc.get? s.booth.dir line with
  | none => s
  | some d =>
    if d.queue.head? = some (.local id) then (s.setDir line { d with queue := d.queue.drop 1 }).serve [line]
    else s

/-- The state in which an operation or command waits no longer for a turn at the home of any line (R361). -/
def State.cancelTurn (s : State) (id : Nat) : State :=
  let lines := s.booth.dir.keys.filter fun k => (s.dirLine k).queue.contains (.local id)
  (lines.foldl (fun s k => s.setDir k { s.dirLine k with queue := (s.dirLine k).queue.filter (· != .local id) }) s).serve lines

/-- A borrower no longer holds a line nor waits at it, and the line goes on (R364). -/
def State.leaveLine (s : State) (line b : Nat) : State := (s.strikeLine b line).serve [line]

/-- A borrower of a lent entry holds nothing of the extent any more, and the entry is freed where none remains (R350, R352,
R357, R364, R366). -/
def State.dropBorrower (s : State) (entry b : Nat) : State :=
  match Assoc.get? s.booth.lent entry with
  | none => s
  | some l => (s.strikeLease entry b).serve (s.dirLinesOf l)

/-- A package fails as a borrower, and the lines go on (R364; log 93). -/
def State.failBorrower (s : State) (b : Nat) : State := (s.strike b).serve s.booth.dir.keys

/-- A lease of a borrower has expired: it leaves every lease and every line, as one that has failed does, and a later request of it is
answered with an error (R357, R364; log 93). -/
def State.expireBorrower (s : State) (b : Nat) : State := (s.strikeAll b).serve s.booth.dir.keys

end Sys2Proof.Machine
end

