-- ==== Sys2Proof/Machine/Float.lean ====
section
/-! DEFINITION. Floating-point values: exact numbers, one rounding, flush, saturation, and the operations on values
(R96 to R102, R137 to R148). -/
namespace Sys2Proof.Machine

/-- A floating-point format: exponent and fraction bits (Table 2 of the format chapter). -/
structure FFmt where
  eb : Nat
  fb : Nat
deriving DecidableEq, Repr

/-- FP64. -/
def fp64 : FFmt := { eb := 11, fb := 52 }
/-- FP32. -/
def fp32 : FFmt := { eb := 8, fb := 23 }
/-- FP16. -/
def fp16 : FFmt := { eb := 5, fb := 10 }
/-- BF16. -/
def bf16 : FFmt := { eb := 8, fb := 7 }

/-- The format of a floating-point type; of one element for .f16x2 (R96, R97). -/
def ffmt : DType → FFmt
  | .f64 => fp64 | .f16 => fp16 | .f16x2 => fp16 | .bf16 => bf16 | _ => fp32

/-- The type with a code of Table 5 of the format chapter (R59, R84). -/
def typeOfCode (n : Nat) : DType :=
  [DType.s32, .n32, .s64, .n64, .s16, .n16, .s8, .n8, .b32, .b64, .f32, .f64, .f16, .bf16, .f16x2, .blk].getD (n % 16) .s32

/-- The bytes of an element of a type code of OPX (R370, R411). -/
def opxBytes (ty : Nat) : Nat := typeWidth (typeOfCode ty) / 8

/-- The bias. -/
def FFmt.bias (f : FFmt) : Nat := 2 ^ (f.eb - 1) - 1
/-- The width in bits. -/
def FFmt.width (f : FFmt) : Nat := 1 + f.eb + f.fb
/-- The magnitude bits of infinity. -/
def FFmt.inf (f : FFmt) : Nat := (2 ^ f.eb - 1) * 2 ^ f.fb
/-- The exponent of the smallest normal's least significant bit. -/
def FFmt.qmin (f : FFmt) : Int := 1 - (f.bias : Int) - (f.fb : Int)
/-- A sign over magnitude bits. -/
def FFmt.signed (f : FFmt) (neg : Bool) (mag : Nat) : Nat := (if neg then 2 ^ (f.width - 1) else 0) + mag

/-- Rounding modes (R100). -/
inductive Mode where
  | rne | rtz | rup | rdn
deriving DecidableEq, Repr

/-- The environment of a rounding: mode, flush and saturation in force (R100 to R102). -/
structure FEnv where
  mode : Mode := .rne
  ftz  : Bool := false
  sat  : Bool := false
deriving DecidableEq, Repr

/-- A value: a NaN with its fraction aligned to 52 bits, an infinity, or (−1)^neg · m · 2^e exactly. -/
inductive FVal where
  | nan (neg : Bool) (frac : Nat)
  | inf (neg : Bool)
  | num (neg : Bool) (m : Nat) (e : Int)
deriving DecidableEq, Repr

/-- A zero. -/
def FVal.zero (neg : Bool) : FVal := .num neg 0 0
/-- The default quiet NaN (R98). -/
def FVal.qnan : FVal := .nan false (2 ^ 51)
/-- A NaN. -/
def FVal.isNan : FVal → Bool
  | .nan _ _ => true
  | _ => false
/-- A zero. -/
def FVal.isZero : FVal → Bool
  | .num _ m _ => m == 0
  | _ => false
/-- The sign bit. -/
def FVal.neg : FVal → Bool
  | .nan s _ => s
  | .inf s => s
  | .num s _ _ => s
/-- The value with its sign inverted; a NaN keeps its own (R98). -/
def FVal.negate : FVal → FVal
  | .nan s f => .nan s f
  | .inf s => .inf !s
  | .num s m e => .num (!s) m e

/-- m · 2^k rounded to an integer in a mode (R100). -/
def roundNat (mode : Mode) (neg : Bool) (m : Nat) (k : Int) : Nat :=
  if 0 ≤ k then m * 2 ^ k.toNat
  else
    let d := 2 ^ k.natAbs
    let q := m / d
    let r := m % d
    let up : Bool := match mode with
      | .rne => d < 2 * r || (2 * r == d && q % 2 == 1)
      | .rtz => false
      | .rup => !neg && r != 0
      | .rdn => neg && r != 0
    q + up.toNat

/-- The bits that an overflow gives (R100, R102). -/
def FFmt.overflow (f : FFmt) (v : FEnv) (neg : Bool) : Nat :=
  let toInf : Bool := match v.mode with
    | .rne => true
    | .rtz => false
    | .rup => !neg
    | .rdn => neg
  f.signed neg (if toInf && !v.sat then f.inf else f.inf - 1)

/-- A value rounded once to a format, flushed and saturated: its bits (R98, R100 to R102). -/
def FFmt.encode (f : FFmt) (v : FEnv) (x : FVal) : Nat :=
  match x with
  | .nan s frac =>
    if v.sat then 0 else f.signed s (f.inf + (frac / 2 ^ (52 - f.fb) % 2 ^ (f.fb - 1)) + 2 ^ (f.fb - 1))
  | .inf s => f.signed s (if v.sat then f.inf - 1 else f.inf)
  | .num s m e =>
    if m = 0 then f.signed s 0
    else
      -- the exponent of the last place with an unbounded exponent range
      let q : Int := e + (Nat.log2 m : Int) - (f.fb : Int)
      let tiny : Bool := q < f.qmin && !(q + 1 = f.qmin && roundNat v.mode s m (e - q) == 2 ^ (f.fb + 1))
      if v.ftz && f.eb != 11 && tiny then f.signed s 0
      else
        let q' : Int := if q < f.qmin then f.qmin else q
        let enc := roundNat v.mode s m (e - q') + (q' - f.qmin).toNat * 2 ^ f.fb
        if f.inf ≤ enc then f.overflow v s else f.signed s enc

/-- The value of bits of a format, a subnormal read as zero under flush (R96, R101). -/
def FFmt.decode (f : FFmt) (ftz : Bool) (raw : Nat) : FVal :=
  let neg := bits raw (f.width - 1) 1 == 1
  let ex := bits raw f.fb f.eb
  let fr := bits raw 0 f.fb
  if ex = 2 ^ f.eb - 1 then (if fr = 0 then .inf neg else .nan neg (fr * 2 ^ (52 - f.fb)))
  else if ex = 0 then (if ftz && f.eb != 11 then .zero neg else .num neg fr f.qmin)
  else .num neg (2 ^ f.fb + fr) (f.qmin + (ex : Int) - 1)

/-- Bits as a flushed operand: a subnormal becomes a zero of its sign (R101). -/
def FFmt.flushed (f : FFmt) (ftz : Bool) (raw : Nat) : Nat :=
  if ftz && f.eb != 11 && bits raw f.fb f.eb = 0 then f.signed (bits raw (f.width - 1) 1 == 1) 0
  else raw % 2 ^ f.width

/-- The integer m · 2^e of a number on a grid 2^q, with its sign; q is at most e. -/
def scaled (neg : Bool) (m : Nat) (e q : Int) : Int :=
  let n : Int := m * 2 ^ (e - q).toNat
  if neg then -n else n

/-- The first NaN among values, or a result (R98). -/
def firstNan (l : List FVal) (r : FVal) : FVal := (l.find? FVal.isNan).getD r

/-- The exact sum of two values; the sign of an exact zero sum is that of the mode (R137). -/
def FVal.add (mode : Mode) (a b : FVal) : FVal :=
  match a, b with
  | .num s m e, .num t n f =>
    if m = 0 && n = 0 then .zero (if s = t then s else mode = .rdn)
    else
      let q := if e < f then e else f
      let z := scaled s m e q + scaled t n f q
      if z = 0 then .zero (mode = .rdn) else .num (z < 0) z.natAbs q
  | .inf s, .inf t => if s = t then .inf s else .qnan
  | .inf s, .num _ _ _ => .inf s
  | .num _ _ _, .inf t => .inf t
  | x, y => firstNan [x, y] .qnan

/-- The exact product of two values (R137). -/
def FVal.mul (a b : FVal) : FVal :=
  match a, b with
  | .num s m e, .num t n f => .num (s != t) (m * n) (e + f)
  | .inf s, .inf t => .inf (s != t)
  | .inf s, .num t n _ => if n = 0 then .qnan else .inf (s != t)
  | .num s m _, .inf t => if m = 0 then .qnan else .inf (s != t)
  | x, y => firstNan [x, y] .qnan

/-- a·b + c with a NaN chosen among A, B and C in order (R98, R137). -/
def FVal.mulAdd (mode : Mode) (a b c : FVal) : FVal :=
  if a.isNan || b.isNan || c.isNan then firstNan [a, b, c] .qnan else FVal.add mode (FVal.mul a b) c

/-- a < b on values that are no NaN; −0 equals +0 (R141). -/
def FVal.lt (a b : FVal) : Bool :=
  match a, b with
  | .inf s, .inf t => s && !t
  | .inf s, _ => s
  | _, .inf t => !t
  | .num s m e, .num t n f =>
    let q := if e < f then e else f
    scaled s m e q < scaled t n f q
  | _, _ => false

/-- The conditions of `fcmp` (R85, R141). -/
inductive FCond where
  | eq | ne | lt | le | gt | ge | un | ord
deriving DecidableEq, Repr

/-- A condition on two values (R85, R141). -/
def FCond.holds (c : FCond) (a b : FVal) : Bool :=
  if a.isNan || b.isNan then c == .ne || c == .un
  else match c with
    | .eq => !FVal.lt a b && !FVal.lt b a
    | .ne => FVal.lt a b || FVal.lt b a
    | .lt => FVal.lt a b
    | .le => !FVal.lt b a
    | .gt => FVal.lt b a
    | .ge => !FVal.lt a b
    | .un => false
    | .ord => true

/-- `fmin` and `fmax` of one element: one of the flushed operands unchanged, −0 below +0, with their own NaN rule
(R138). -/
def FFmt.minMax (f : FFmt) (isMax ftz : Bool) (x y : Nat) : Nat :=
  let a := f.decode ftz x
  let b := f.decode ftz y
  if a.isNan && b.isNan then f.encode {} a
  else if a.isNan then f.flushed ftz y
  else if b.isNan then f.flushed ftz x
  else
    let aLess := FVal.lt a b || (a.isZero && b.isZero && a.neg && !b.neg)
    let bLess := FVal.lt b a || (a.isZero && b.isZero && b.neg && !a.neg)
    let pickB := if isMax then aLess else bLess
    if pickB then f.flushed ftz y else f.flushed ftz x

/-- The class of raw bits (R142). -/
def FFmt.classify (f : FFmt) (raw : Nat) : Nat :=
  let neg := bits raw (f.width - 1) 1 == 1
  let ex := bits raw f.fb f.eb
  let fr := bits raw 0 f.fb
  let bit :=
    if ex = 2 ^ f.eb - 1 then
      if fr = 0 then (if neg then 2 else 9) else if 2 ^ (f.fb - 1) ≤ fr then 1 else 0
    else if ex = 0 then
      if fr = 0 then (if neg then 5 else 6) else (if neg then 4 else 7)
    else (if neg then 3 else 8)
  2 ^ bit

/-- A value rounded to an integral one; a zero keeps the sign of the operand (R143). -/
def FVal.roundIntegral (mode : Mode) (a : FVal) : FVal :=
  match a with
  | .num s m e => .num s (roundNat mode s m e) 0
  | x => x

/-- A value rounded to an integer and clamped to a type's range; a NaN gives 0 (R145). -/
def FVal.toInteger (mode : Mode) (w : Nat) (signed : Bool) (a : FVal) : Int :=
  match a with
  | .nan _ _ => 0
  | .inf s => if s then minInt w signed else maxInt w signed
  | .num s m e =>
    let n : Int := roundNat mode s m e
    clampInt w signed (if s then -n else n)

/-- An integer as a value (R146). -/
def FVal.ofInt (n : Int) : FVal := .num (n < 0) n.natAbs 0

/-- a · 2^n (R147); from 4,096 on every result is the overflow or underflow that 4,096 gives. -/
def FVal.scale (a : FVal) (n : Int) : FVal :=
  match a with
  | .num s m e => .num s m (e + (if n < -4096 then -4096 else if 4096 < n then 4096 else n))
  | x => x

/-- The significand of a split, in the source format's value (R148). -/
def FVal.significand (a : FVal) : FVal :=
  match a with
  | .num s m _ => if m = 0 then .zero s else .num s m (-(Nat.log2 m : Int) - 1)
  | x => x

/-- The exponent of a split (R148). -/
def FVal.exponent (a : FVal) : Int :=
  match a with
  | .nan _ _ => -(2 ^ 31 : Int)
  | .inf _ => 2 ^ 31 - 1
  | .num _ m e => if m = 0 then 0 else e + (Nat.log2 m : Int) + 1

/-! ## Correctly rounded functions (R149, R150; log 11) -/

/-- The integer square root by digits: `n` result bits, from the highest. -/
def isqrtAux (x : Nat) : Nat → Nat → Nat
  | 0, r => r
  | n + 1, r =>
    let c := r + 2 ^ n
    isqrtAux x n (if c * c ≤ x then c else r)

/-- The integer square root. -/
def isqrt (x : Nat) : Nat := isqrtAux x (Nat.log2 x / 2 + 1) 0

/-- A quotient with a last bit that stands for every bit below it: exact for every rounding of at most 60 bits. -/
def FVal.recip (a : FVal) : FVal :=
  match a with
  | .nan s f => .nan s f
  | .inf s => .zero s
  | .num s m e =>
    if m = 0 then .inf s
    else
      let k := Nat.log2 m + 64
      let q := 2 ^ k / m
      .num s (2 * q + (if 2 ^ k % m = 0 then 0 else 1)) (-e - (k : Int) - 1)

/-- The square root, with such a last bit. -/
def FVal.sqrt (a : FVal) : FVal :=
  match a with
  | .nan s f => .nan s f
  | .inf s => if s then .qnan else .inf false
  | .num s m e =>
    if m = 0 then .zero s
    else if s then .qnan
    else
      let x := m * 2 ^ (if e % 2 = 0 then 160 else 161)
      let r := isqrt x
      .num false (2 * r + (if r * r = x then 0 else 1)) ((e - (if e % 2 = 0 then 160 else 161)) / 2 - 1)

/-- The reciprocal square root, with such a last bit. -/
def FVal.rsqrt (a : FVal) : FVal :=
  match a with
  | .nan s f => .nan s f
  | .inf s => if s then .qnan else .zero false
  | .num s m e =>
    if m = 0 then .inf s
    else if s then .qnan
    else
      let n := if e % 2 = 0 then m else 2 * m
      let h := (if e % 2 = 0 then e else e - 1) / 2
      let k := 2 * (Nat.log2 n / 2 + 80)
      let r := isqrt (2 ^ k / n)
      .num false (2 * r + (if r * r * n = 2 ^ k then 0 else 1)) (-h - (k / 2 : Nat) - 1)

/-- atan(1/d) in units of 2^-w, by its alternating series; or atanh(1/d) where `alt` is false. -/
def atanInv (d : Nat) (alt : Bool) : Nat → Nat → Nat → Int → Int
  | 0, _, _, acc => acc
  | n + 1, p, k, acc =>
    let t : Int := p / (2 * k + 1)
    atanInv d alt n (p / (d * d)) (k + 1) (if alt && k % 2 == 1 then acc - t else acc + t)

/-- π in units of 2^-w, within 2^-(w-8) (Machin). -/
def piFix (w : Nat) : Int :=
  16 * atanInv 5 true (w / 4 + 2) (2 ^ w / 5) 0 0 - 4 * atanInv 239 true (w / 15 + 2) (2 ^ w / 239) 0 0

/-- ln 2 in units of 2^-w. -/
def ln2Fix (w : Nat) : Int := 2 * atanInv 3 false (w / 3 + 2) (2 ^ w / 3) 0 0

/-- Σ x^k / k! for 0 ≤ x < 1 in units of 2^-w. -/
def expSum (w : Nat) (x : Int) : Nat → Nat → Int → Int → Int
  | 0, _, _, acc => acc
  | n + 1, k, t, acc => expSum w x n (k + 1) (t * x / (k + 1 : Nat) / (2 ^ w : Nat)) (acc + t)

/-- Σ z^(2k+1)/(2k+1) in units of 2^-w: atanh z. -/
def atanhSum (w : Nat) (z : Int) : Nat → Nat → Int → Int → Int
  | 0, _, _, acc => acc
  | n + 1, k, p, acc => atanhSum w z n (k + 1) (p * z / (2 ^ w : Nat) * z / (2 ^ w : Nat)) (acc + p / (2 * k + 1 : Nat))

/-- An alternating sum with terms t·r²/((k+1)(k+2)), in units of 2^-w: cosine from k = 0, sine from k = 1. -/
def trigSum (w : Nat) (r : Int) : Nat → Nat → Int → Int → Int
  | 0, _, _, acc => acc
  | n + 1, k, t, acc =>
    trigSum w r n (k + 2) (-(t * r / (2 ^ w : Nat) * r / (2 ^ w : Nat)) / ((k + 1) * (k + 2) : Nat)) (acc + t)

/-- m·2^e with its sign in units of 2^-w, rounded down. -/
def fixOf (neg : Bool) (m : Nat) (e : Int) (w : Nat) : Int :=
  let k := e + w
  let n : Int := if 0 ≤ k then m * 2 ^ k.toNat else Int.fdiv (if neg then -(m : Int) else m) (2 ^ k.natAbs : Nat)
  if neg && 0 ≤ k then -n else n

/-- 2^x at precision w: an approximation z·2^q, off by less than 2^16 units. -/
def exp2Approx (neg : Bool) (m : Nat) (e : Int) (w : Nat) : Int × Int :=
  let x := fixOf neg m e w
  let n := Int.fdiv x (2 ^ w : Nat)
  let f := x - n * (2 ^ w : Nat)
  (expSum w (f * ln2Fix w / (2 ^ w : Nat)) (w / 2 + 8) 0 (2 ^ w : Nat) 0, n - w)

/-- log2 of m·2^e at precision w, off by less than 2^16 units. -/
def log2Approx (m : Nat) (e : Int) (w : Nat) : Int × Int :=
  let l := Nat.log2 m
  -- y in [3/4, 3/2): m·2^-l, halved above 3/2
  let big : Bool := 3 * 2 ^ l ≤ 2 * m
  let k : Int := e + l + big.toNat
  let den : Nat := 2 ^ (l + big.toNat)
  let z := Int.fdiv (((m : Int) - den) * (2 ^ w : Nat)) ((m + den : Nat) : Int)
  (k * (2 ^ w : Nat) + Int.fdiv (2 * atanhSum w z (w / 4 + 8) 0 z 0 * (2 ^ w : Nat)) (ln2Fix w), -(w : Int))

/-- sin or cos of m·2^e (positive) at precision w, off by less than 2^16 units. -/
def trigApprox (cos : Bool) (m : Nat) (e : Int) (w : Nat) : Int × Int :=
  let extra := (e + Nat.log2 m + 2).toNat
  let ww := w + extra
  let half := piFix (ww + 16) / 2
  let x := fixOf false m e (ww + 16)
  -- k quarter turns to the nearest
  let k := Int.fdiv (2 * x + half) (2 * half)
  let r := Int.fdiv (x - k * half) (2 ^ (extra + 16) : Nat)
  let j := (k + (if cos then 1 else 0)) % 4
  let useCos : Bool := j % 2 = 1
  let v := if useCos then trigSum w r (w / 4 + 8) 0 (2 ^ w : Nat) 0 else trigSum w r (w / 4 + 8) 1 r 0
  (if 2 ≤ j then -v else v, -(w : Int))

/-- The value z·2^q. -/
def FVal.ofScaled (z q : Int) : FVal := .num (z < 0) z.natAbs q

/-- The bits of a function from ever finer approximations: the first whose bounds round alike (R149; log 11). -/
def refine (f : FFmt) (v : FEnv) (approx : Nat → Int × Int) : List Nat → Nat
  | [] => 0
  | w :: ws =>
    let (z, q) := approx w
    let lo := f.encode v (.ofScaled (z - 2 ^ 16) q)
    let hi := f.encode v (.ofScaled (z + 2 ^ 16) q)
    if lo = hi || ws.isEmpty then lo else refine f v approx ws

/-- The precisions tried. -/
def precisions : List Nat := [96, 192, 384, 768, 1536, 3072]

/-- `fexp2` (R149, R150). -/
def FFmt.exp2 (f : FFmt) (v : FEnv) (a : FVal) : Nat :=
  match a with
  | .nan _ _ => f.encode v a
  | .inf s => f.encode v (if s then .zero false else .inf false)
  | .num s m e =>
    if m = 0 then f.encode v (.num false 1 0)
    else if 13 < e + Nat.log2 m then f.encode v (.num false 1 (if s then -4096 else 4096))
    else if e ≥ 0 || m % 2 ^ e.natAbs = 0 then
      f.encode v (.num false 1 (fixOf s m e 0))
    else refine f v (exp2Approx s m e) precisions

/-- `flog2` (R149, R150). -/
def FFmt.log2 (f : FFmt) (v : FEnv) (a : FVal) : Nat :=
  match a with
  | .nan _ _ => f.encode v a
  | .inf s => f.encode v (if s then .qnan else .inf false)
  | .num s m e =>
    if m = 0 then f.encode v (.inf true)
    else if s then f.encode v .qnan
    else if m = 2 ^ Nat.log2 m then f.encode v (.ofInt (e + Nat.log2 m))
    else refine f v (log2Approx m e) precisions

/-- `fsin` and `fcos` (R149, R150). The sine of a number so small that it rounds to the number itself is that number. -/
def FFmt.trig (f : FFmt) (v : FEnv) (cos : Bool) (a : FVal) : Nat :=
  match a with
  | .nan _ _ => f.encode v a
  | .inf _ => f.encode v .qnan
  | .num s m e =>
    if m = 0 then f.encode v (if cos then .num false 1 0 else .zero s)
    else if !cos && e + (Nat.log2 m : Int) < -((f.fb / 2 : Nat) : Int) - 4 then f.encode v a
    else refine f v (fun w => let (z, q) := trigApprox cos m e w; (if s && !cos then -z else z, q)) precisions

end Sys2Proof.Machine
end

