-- ==== Sys2Proof/Machine/Codec.lean ====
section
/-! DEFINITION. The block codec of codec windows: encoding and decoding eight FP64 values at a budget of k words, the
replacement of non-finite values, and the error of a lossy encode (R331 to R336, R342, R344). -/
namespace Sys2Proof.Machine

/-- The block of a decoded VA in a window, and the compressed VA of its encoding (R331). -/
def Window.cva (w : Window) (va : Nat) : Nat := w.cbase + 8 * w.k * ((va - w.base) / 64)

/-- The exponent field of FP64 bits. -/
def expField (x : Nat) : Nat := bits x 52 11

/-- FP64 bits that are neither infinite nor a NaN (R344). -/
def isFinite64 (x : Nat) : Bool := expField x != 2047

/-- The widths w(i) at a budget (R333, Table 1). -/
def codecWidths (k : Nat) : List Nat := [6, 4, 2, 2, 0, 0, 0, 0].map fun a => 8 * k - 4 + a

/-- E of a block (R333). -/
def blockExp (xs : List Nat) : Nat :=
  xs.foldl (fun e x => if x % 2 ^ 63 = 0 then e else Nat.max e (Nat.max (expField x) 1)) 0

/-- RNE(x·2^(1080−E)) (R333). -/
def quantum (e x : Nat) : Int :=
  let m := bits x 0 52 + (if expField x = 0 then 0 else 2 ^ 52)
  let n := roundNat .rne (x.testBit 63) m ((Nat.max (expField x) 1 : Int) + 5 - (e : Int))
  if x.testBit 63 then -(n : Int) else n

/-- The S-transform of a pair (R333). -/
def stPair (a b : Int) : Int × Int := (b + (a - b) / 2, a - b)

/-- Its inverse (R335). -/
def istPair (s d : Int) : Int × Int := (s - d / 2 + d, s - d / 2)

/-- The eight coefficients of eight quanta (R333). -/
def transform (q : List Int) : List Int :=
  let at' := fun (l : List Int) i => l.getD i 0
  let l1 := (List.range 4).map fun i => stPair (at' q (2 * i)) (at' q (2 * i + 1))
  let p := l1.map (·.1)
  let l2 := (List.range 2).map fun i => stPair (at' p (2 * i)) (at' p (2 * i + 1))
  let r := l2.map (·.1)
  let l3 := stPair (at' r 0) (at' r 1)
  [l3.1, l3.2] ++ l2.map (·.2) ++ l1.map (·.2)

/-- The eight quanta of eight coefficients (R335). -/
def untransform (c : List Int) : List Int :=
  let at' := fun (l : List Int) i => l.getD i 0
  let r := istPair (at' c 0) (at' c 1)
  let p01 := istPair r.1 (at' c 2)
  let p23 := istPair r.2 (at' c 3)
  ([p01.1, p01.2, p23.1, p23.2].zip (c.drop 4)).flatMap fun x => let y := istPair x.1 x.2; [y.1, y.2]

/-- A coefficient in w bits (R333). -/
def quantize (w : Nat) (c : Int) : Int :=
  let sh := 62 - w
  let t := (c + 2 ^ (sh - 1)) / 2 ^ sh
  if t < -(2 ^ (w - 1)) then -(2 ^ (w - 1)) else if 2 ^ (w - 1) - 1 < t then 2 ^ (w - 1) - 1 else t

/-- Fields packed one after another from a bit position (R334). -/
def packFields (pos : Nat) : List (Nat × Int) → Nat
  | [] => 0
  | (w, t) :: l => (t % 2 ^ w).toNat * 2 ^ pos + packFields (pos + w) l

/-- Two's-complement fields of given widths from a bit position (R334). -/
def unpackFields (word pos : Nat) : List Nat → List (Nat × Int)
  | [] => []
  | w :: l =>
    let v := bits word pos w
    (w, if v.testBit (w - 1) then (v : Int) - 2 ^ w else v) :: unpackFields word (pos + w) l

/-- The 8k bytes that encode eight finite FP64 values (R333, R334). -/
def encodeBlock (k : Nat) (xs : List Nat) : List Byte :=
  if k = 8 then xs.flatMap fun x => toBytes 8 x
  else
    let e := blockExp xs
    if e = 0 then List.replicate (8 * k) 0
    else
      let c := transform (xs.map (quantum e))
      toBytes (8 * k) (e + packFields 12 ((codecWidths k).zip c |>.map fun x => (x.1, quantize x.1 x.2)))

/-- RNE(q·2^(E−1080)), the largest finite value past the range, +0 for a zero (R335). -/
def dequantum (e : Nat) (q : Int) : Nat :=
  let x := fp64.encode { sat := true } (.num (q < 0) q.natAbs ((e : Int) - 1080))
  if x % 2 ^ 63 = 0 then 0 else x

/-- The eight FP64 values that 8k bytes encode; none where the encoding is malformed (R335, R336). -/
def decodeBlock (k : Nat) (bs : List Byte) : Option (List Nat) :=
  if k = 8 then some ((List.range 8).map fun i => valueAt bs (8 * i) 8)
  else
    let word := valueAt bs 0 (8 * k)
    let e := bits word 0 11
    if e = 2047 || word.testBit 11 || word / 2 ^ (64 * k - 6) != 0 then none
    else if e = 0 then some (List.replicate 8 0)
    else some ((untransform ((unpackFields word 12 (codecWidths k)).map fun x => x.2 * 2 ^ (62 - x.1))).map (dequantum e))

/-- A non-finite value under NFP = 1: the largest finite value of its sign, or +0 for a NaN (R344). -/
def saturate64 (x : Nat) : Nat :=
  if isFinite64 x then x else if bits x 0 52 != 0 then 0 else x / 2 ^ 63 * 2 ^ 63 + 0x7FEFFFFFFFFFFFFF

/-- Two elements differ, −0 and +0 counting as equal (R342). -/
def differ64 (a b : Nat) : Bool := a != b && !(a % 2 ^ 63 == 0 && b % 2 ^ 63 == 0)

/-- The error of a lossy encode: the largest |x2(i) − x(i)|, rounded up; +∞ where a value was saturated (R342, R344). -/
def blockError (merged x2 : List Nat) : Nat :=
  if merged.any fun x => !isFinite64 x then 0x7FF0000000000000
  else
    let errs := (merged.zip x2).map fun p =>
      match FVal.add .rne (fp64.decode false p.2) (fp64.decode false p.1).negate with
      | .num _ m e => FVal.num false m e
      | v => v
    match best (fun a b => FVal.lt b a) errs with
    | some v => fp64.encode { mode := .rup } v
    | none => 0

end Sys2Proof.Machine
end

