-- ==== Sys2Proof/Machine/Perform.lean ====
section
/-! DEFINITION. Performing accesses: L1 copies, reads, writes and atomic updates at the home, scratchpad bytes, and the
delivery of an operation's results (R190 to R203, R297 to R328, R358). -/
namespace Sys2Proof

/-- The number of a scope (R299). -/
def Scope.num : Scope → Nat
  | .thr => 0 | .grp => 1 | .core => 2 | .clu => 3 | .die => 4 | .pkg => 5 | .fab => 6

namespace Machine

/-- The line under which the hub logs the results of a path of a group, by lane (R432). -/
def hubLineOf (uid idx lane : Nat) : Nat := (uid * 64 + idx) * 128 + lane
/-- The same of an issuer. -/
def Issuer.hubLine (u : Issuer) (owner lane : Nat) : Nat := hubLineOf owner u.idx lane

/-! ## L1 (R199, R309 to R312, R322, R323) -/

/-- The number by which a line is spread over a fused cluster (R323). -/
def LineTag.slice : LineTag → Nat
  | .phys l => l % 16
  | .lent _ l => l % 16
  | .block _ b => b % 16

/-- The core whose L1 holds a line for a core (R323). -/
def State.l1Home (s : State) (core : Nat) (tag : LineTag) : Nat :=
  if (s.core core).fused.isSome then core / 16 * 16 + tag.slice else core

/-- A core's copy of a line, if it has one that an access may use: an untracked copy is for accesses to untracked ranges alone
(R304, R312); for a steward, that of the steward cache (R325). -/
def State.copy? (s : State) (core : Nat) (mode : CacheMode) (tag : LineTag) : Option Line :=
  if mode = .uncached then none
  else if 4096 ≤ core then (s.stewardLines.find? fun l => l.1 = tag).map (·.2)
  else ((s.core (s.l1Home core tag)).l1.find? fun l => l.tag = tag && (!l.untracked || mode = .untracked)).map (·.data)

/-- The state without a core's copy of a line. -/
def State.dropCopy (s : State) (core : Nat) (tag : LineTag) : State :=
  if core < 4096 then s.modCore (s.l1Home core tag) fun k => { k with l1 := k.l1.filter fun l => l.tag != tag } else s.dropStewardLine tag

/-- A decoded block. -/
def LineTag.isBlock : LineTag → Bool
  | .block _ _ => true
  | _ => false

/-- The state with a line allocated in a core's L1, within its capacity, or for a steward in the steward cache, which holds no decoded
blocks (R29, R322, R325; log 7, log 99). -/
def State.fillCopy (s : State) (core : Nat) (tag : LineTag) (mode : CacheMode) (data : Line) : State :=
  if mode = .uncached then s
  else if 4096 ≤ core then
    if tag.isBlock then s else { s with stewardLines := ((tag, data) :: (s.dropStewardLine tag).stewardLines).take 1048576 }
  else
    let line : L1Line := { tag := tag, data := data, scope := (match mode with | .object n => n | _ => 0), untracked := mode == .untracked }
    (s.dropCopy core tag).modCore (s.l1Home core tag) fun k => { k with l1 := (line :: k.l1).take (1024 * bits k.lscfg.toNat 0 4) }

/-- The state with bytes of a core's copy of a line replaced, if it has one. -/
def State.patchCopy (s : State) (core : Nat) (tag : LineTag) (off : Nat) (bs : List Byte) : State :=
  if core < 4096 then s.modCore (s.l1Home core tag) fun k =>
    { k with l1 := k.l1.map fun l => if l.tag = tag then { l with data := Line.patch l.data off bs } else l }
  else { s with stewardLines := s.stewardLines.map fun l => if l.1 = tag then (l.1, Line.patch l.2 off bs) else l }

/-- The lines that an acquire at a scope leaves in an L1: those of untracked ranges, and those of objects shared as
widely (R310, R312). -/
def keptByAcquire (scope : Nat) (l : L1Line) : Bool := l.untracked || (0 < l.scope && scope ≤ l.scope)

/-- The state after an acquire at a scope by an agent of a core (R199, R323). -/
def State.acquire (s : State) (core : Nat) (scope : Scope) : State :=
  let keep := fun (k : Core) => { k with l1 := k.l1.filter (keptByAcquire scope.num) }
  if scope.num < 3 || 4096 ≤ core then s
  else if (s.core core).fused.isNone then s.modCore core keep
  else if scope = .clu then s
  else (List.range 16).foldl (fun s i => s.modCore (core / 16 * 16 + i) keep) s

/-! ## Fomar at the homes (R432, R433) -/

/-- The state with so many bytes of the Fomar region used; where they do not fit, recording stops instead (R432). -/
def State.charge (s : State) (n : Nat) : State :=
  if s.fomar.size.toNat < s.fomar.used + n then
    { s with fomar := { s.fomar with ctl := s.fomar.ctl &&& ~~~1#64, full := true } }
  else { s with fomar := { s.fomar with used := s.fomar.used + n } }

/-- The state with an access logged, or with its entry of a replay used (R432, R433). -/
def State.logEntry (s : State) (ctx : Nat) (e : LogEntry) : State :=
  let s := match s.replayEntry? ctx e.kind e.line with
    | some x => { s with fomar := { s.fomar with replay := s.fomar.replay.erase x } }
    | none => s
  if !s.recorded ctx then s
  else
    let s := s.charge Config.logEntryBytes
    if s.recorded ctx then { s with fomar := { s.fomar with log := s.fomar.log ++ [e] } } else s

/-- The state with the lines that one agent's lane touches logged (R432). -/
def State.logLines (s : State) (ctx : Nat) (who : Nat × Nat) (lane : Nat) (lines : List (LogKind × Nat)) (value : Nat := 0) : State :=
  lines.foldl (fun s l => s.logEntry ctx { kind := l.1, uid := who.1, idx := who.2, lane := lane, line := l.2, value := value }) s

/-- The state with the pages of a target marked as written by a context (R432). -/
def State.markTarget (s : State) (ctx : Nat) : Target → State
  | .phys pa => s.markDirty ctx pa
  | .block _ _ ps => ps.foldl (fun s p => s.markDirty ctx p.1) s
  | .lent _ _ => s
  | .scratch _ _ _ => s

/-! ## Scratchpad (R30, R206, R283) -/

/-- An allocation by its name, on its core or saved with its groups (R292). -/
def State.allocNamed? (s : State) (core id : Nat) : Option Alloc :=
  match s.alloc? core id with
  | some a => some a
  | none => s.engine.saved.vals.findSome? fun v => if v.group.alloc = id then v.alloc else none

/-- Bytes of an allocation. -/
def State.scratchRead (s : State) (core id off n : Nat) : List Byte :=
  match s.allocNamed? core id with
  | some a => a.bytes.readN off n
  | none => List.replicate n 0

/-- The state with bytes of an allocation written; barrier objects that change are checked again (R207). -/
def State.scratchWrite (s : State) (core id off : Nat) (bs : List Byte) : State :=
  match s.alloc? core id with
  | some a =>
    let s := s.modAlloc core id fun a => { a with bytes := a.bytes.writeN off bs }
    ((List.range a.bars).filter fun i => off < 16 * i + 16 && 16 * i < off + bs.length).foldl (fun s i =>
      match s.alloc? core id with
      | some a => s.wakeBarrier core id i (a.barrier i) false
      | none => s) s
  | none => { s with
      engine := { s.engine with
        saved := s.engine.saved.mapVals fun v =>
          if v.group.alloc = id then { v with alloc := v.alloc.map fun a => { a with bytes := a.bytes.writeN off bs } } else v } }

/-! ## Reads, writes and updates of one line -/

/-- The operation of an atomic or reduction on a memory value (Table 2 of the memory-access chapter). -/
def AtomOp.apply (op : AtomOp) (size m x y : Nat) : Nat :=
  let w := 8 * size
  let s := fun (n : Nat) => (BitVec.ofNat w n).toInt
  let f := if size = 8 then fp64 else fp32
  match op with
  | .add => (m + x) % 2 ^ w
  | .minN => Nat.min m x
  | .maxN => Nat.max m x
  | .minS => if s x < s m then x else m
  | .maxS => if s m < s x then x else m
  | .and => m &&& x
  | .or => m ||| x
  | .xor => m ^^^ x
  | .exch => x
  | .cas => if m = x then y else m
  | .addF => f.encode {} (FVal.add .rne (f.decode false m) (f.decode false x))
  | .minF => f.minMax false false m x
  | .maxF => f.minMax true false m x

/-- A read at a place: the state after it and the bytes, or the cause and offset of an error; none where the line is not
at hand yet. -/
abbrev ReadResult := Option (State × Except (Byte × Nat) (List Byte))

/-- A read of HBM4E or the pool by a core: its copy where it has one, else the home, which fills the copy (R322). -/
def State.physLoad (s : State) (core : Nat) (mode : CacheMode) (pa n : Nat) : State × Except (Byte × Nat) (List Byte) :=
  let tag := LineTag.phys (pa / 64)
  let home := fun (_ : Unit) => match s.poisonIn pa n with
    | some k => Except.error ((0x09 : Byte), k)
    | none => .ok (s.physRead pa n)
  if mode = .uncached || (hubWordAt (pa / 8 * 8)).isSome then (s, home ())
  else match s.copy? core mode tag with
  | some l => (s, .ok ((toBytes 64 l.toNat).drop (pa % 64) |>.take n))
  | none =>
    if (s.poisonIn (pa / 64 * 64) 64).isSome then (s, home ())
    else (s.fillCopy core tag mode (BitVec.ofNat 512 (ofBytes (s.physRead (pa / 64 * 64) 64))), home ())

/-- A read of a borrowed line: an L1 copy, or the remote line cache; a lost lease, or one given back, gives poisoned data
(R322, R324, R357, R367). -/
def State.lentLoad (s : State) (core : Nat) (mode : CacheMode) (e off n : Nat) : ReadResult :=
  let tag := LineTag.lent e (off / 64)
  let pick := fun (l : Line) => (toBytes 64 l.toNat).drop (off % 64) |>.take n
  match s.copy? core mode tag with
  | some l => some (s, .ok (pick l))
  | none =>
    if (s.borrowed e).st < 2 || 4 < (s.borrowed e).st then some (s, .error (0x09, 0))
    else match s.lentRead? e (off / 64) with
    | some l => if l.bad then some (s, .error (0x09, 0)) else some (s.fillCopy core tag mode l.data, .ok (pick l.data))
    | none => none

/-- A read of one target that is no codec block. -/
def State.loadAt (s : State) (core : Nat) (mode : CacheMode) (t : Target) (n : Nat) : ReadResult :=
  match t with
  | .phys pa => some (s.physLoad core mode pa n)
  | .lent e off => s.lentLoad core mode e off n
  | .scratch c a off => some (s, .ok (s.scratchRead c a off n))
  | .block _ _ _ => none

/-- The line of an L1 that holds a place outside the codec windows. -/
def Target.tag? : Target → Option LineTag
  | .phys pa => some (.phys (pa / 64))
  | .lent e off => some (.lent e (off / 64))
  | _ => none

/-- The offset of a place in its line. -/
def Target.lineOff : Target → Nat
  | .phys pa => pa % 64
  | .lent _ off => off % 64
  | _ => 0

/-- A read by an instruction: one that is made at the home leaves no older copy of the line in the core's L1 (R301, R312). -/
def State.freshLoad (s : State) (core : Nat) (mode : CacheMode) (t : Target) (n : Nat) : ReadResult :=
  match s.loadAt core mode t n, t.tag? with
  | some (s, r), some tag => some (if mode = .uncached then s.dropCopy core tag else s, r)
  | r, _ => r

/-- The state in which a write to a lender has been dropped and counted (R425). -/
def State.dropMessage (s : State) : State := { s with fabric := { s.fabric with dropped := s.fabric.dropped + 1 } }.observe 4096 10 1

/-- A write of one target that is no codec block, for an operation or command: the state after it, the completions it
waits for, and an error; none where its turn at the line has not come (R322, R358, R361, R425). -/
def State.storeAt (s : State) (id core : Nat) (t : Target) (bs : List Byte) : Option (State × Nat × Option Byte) :=
  match t with
  | .phys pa =>
    if !s.localTurn id (pa / 64) then none
    else
      let s := (s.patchCopy core (.phys (pa / 64)) (pa % 64) bs).physWrite (some (if core < 4096 then s.l1Home core (.phys (pa / 64)) else core)) pa bs
      some (s.localDone id (pa / 64), 0, none)
  | .lent e off =>
    if (s.borrowed e).st != 2 then some (s.dropMessage, 0, some 0x0A)
    else if s.writable e (off / 64) && (s.route? (s.borrowed e).lend).isNone then some ((s.lenderLost e).dropMessage, 0, some 0x0A)
    else match s.lentWrite? id e off bs with
    | some s => some ((s.patchCopy core (.lent e (off / 64)) (off % 64) bs), 1, none)
    | none => none
  | .scratch c a off => some (s.scratchWrite c a off bs, 0, none)
  | .block _ _ _ => none

/-- What a target that is not at hand asks for: a line, for reading or for writing, or a turn at the home. -/
def State.request (s : State) (id : Nat) (t : Target) (write : Bool) : State :=
  match t with
  | .phys pa => if write then s.askLocal id (pa / 64) else s
  | .lent e off => if write then s.wantWrite e (off / 64) else s.wantRead e (off / 64)
  | .scratch _ _ _ => s
  | .block _ _ _ => s

/-- An atomic update of one target that is no codec block (R200, R201, R322, R358): the old value. -/
def State.updateAt (s : State) (id core : Nat) (mode : CacheMode) (atL1 : Bool) (t : Target) (size : Nat)
    (f : Nat → Nat) : Option (State × Nat × Except (Byte × Nat) Nat) :=
  let ready := match t with
    | .phys pa => s.localTurn id (pa / 64)
    | .lent e off => s.writable e (off / 64) || (s.borrowed e).st < 2 || 4 < (s.borrowed e).st
    | _ => true
  if !ready then none
  else match s.loadAt core (if atL1 then mode else .uncached) t size with
  | none => none
  | some (s, .error e) => some (s, 0, .error e)
  | some (s, .ok bs) =>
    let m := ofBytes bs
    match s.storeAt id core t (toBytes size (f m)) with
    | none => none
    | some (s, n, none) => some (s, n, .ok m)
    | some (s, n, some c) => some (s, n, .error (c, 0))

/-! ## Combining of reductions (R328) -/

/-- A reduction that the combining buffers take (R328); none to the hub area (log 110). -/
def Op.combines (o : Op) (a : Access) : Bool :=
  o.core < 4096 && o.carries.isEmpty && 3 ≤ o.scope.num &&
  (match o.kind with
   | .red op => op != .addF && op != .minF && op != .maxF
   | _ => false) &&
  (match a.tgt with
   | .phys pa => pa < hubArea || hubArea + 0x10000000 ≤ pa
   | .lent _ _ => true
   | _ => false)

/-- The entry and the line of a borrowed place. -/
def Target.lentLine : Target → Nat × Nat
  | .lent e off => (e, off / 64)
  | _ => (0, 0)

/-- Two reductions combine (R328). -/
def Combined.matches (c d : Combined) : Bool := c.ctx = d.ctx && c.acc.tgt = d.acc.tgt && c.op = d.op && c.size = d.size

/-- The datum of two combined reductions (R328). -/
def Combined.join (c d : Combined) : Combined :=
  { c with acc := { c.acc with x := c.op.apply c.size c.acc.x d.acc.x 0 }, ops := c.ops ++ d.ops, born := Nat.min c.born d.born }

/-- A buffer with an entry combined or added; none where it is full (R328). -/
def combineInto (cap : Nat) : List Combined → Combined → Option (List Combined)
  | l, d => if l.any fun c => c.matches d then some (l.map fun c => if c.matches d then c.join d else c)
    else if l.length < cap then some (l ++ [d]) else none

/-! ## Operations (R191, R300, R326) -/

/-- An access of a load, extent load or atomic with return or its part: it reads. -/
def OpKind.loads : OpKind → Bool
  | .load => true
  | .ldx _ => true
  | .atom _ ret => ret
  | _ => false

/-- The counter an operation is on (R192). -/
def OpKind.ctr : OpKind → Ctr
  | .load => .ld
  | .ldx _ => .ld
  | .atom _ ret => if ret then .am else .ld
  | .store => .st
  | .red _ => .st
  | .stx _ => .st
  | .pool _ _ => .st

/-- The state with an access of an operation settled: its value, its error, the completions to come. -/
def State.settle (s : State) (id : Nat) (a : Access) (awaits : Nat) (r : Except (Byte × Nat) (Option Nat)) : State :=
  match Assoc.get? s.ops id with
  | none => s
  | some o =>
    let o := { o with todo := o.todo.erase a, awaits := o.awaits + awaits }
    let o := match r with
      | .ok (some v) => { o with vals := o.vals ++ [(a.lane, v)] }
      | .ok none => o
      | .error (c, k) =>
        { o with bad := o.bad ++ [(a.lane, if o.kind.loads || c = 0x08 then c else 0x0A, BitVec.ofNat 64 (a.va + k))] }
    { s with ops := Assoc.set s.ops id o }

/-- The places two accesses touch meet (R297). -/
def Target.meets (t : Target) (n : Nat) (u : Target) (m : Nat) : Bool :=
  let share := fun (a n b m : Nat) => a < b + m && b < a + n
  match t, u with
  | .phys a, .phys b => share a n b m
  | .lent e a, .lent f b => e = f && share a n b m
  | .block _ a _, .block _ b _ => a / 64 = b / 64
  | .scratch _ i a, .scratch _ j b => i = j && share a n b m
  | _, _ => false

/-- An access of an operation waits for one of a lower lane to the same place (R193). -/
def Op.behind (o : Op) (a : Access) : Bool := (o.todo.takeWhile fun b => b != a).any fun b => b.tgt.meets b.len a.tgt a.len

/-- The places that an access of an operation touches: its target, and the scratchpad side of an extent's part (R198, R297). -/
def Op.places (o : Op) (a : Access) : List Target :=
  match o.kind with
  | .ldx al => [a.tgt, .scratch o.core al a.x]
  | .stx al => [a.tgt, .scratch o.core al a.x]
  | _ => [a.tgt]

/-- The scratchpad lines that an access of an extent touches beside its place in global memory (R432). -/
def Op.besides (o : Op) (a : Access) : List (LogKind × Nat) := ((o.places a).drop 1).flatMap fun t => t.lines a.len

/-- The log's entry for an access of an operation whose turn it is under replay; the hub's own are not logged (R433). -/
def State.opEntry? (s : State) (o : Op) (a : Access) : Option LogEntry :=
  if o.uid == hubName then none else s.replayEntry? o.ctx a.tgt.logged.1 a.tgt.logged.2

/-- An access of an operation is in turn under replay, at each line that it touches (R433). -/
def State.opInTurn (s : State) (o : Op) (a : Access) : Bool :=
  o.uid == hubName || (s.linesInTurn o.ctx o.who a.lane [a.tgt.logged] &&
    (((s.opEntry? o a).bind (·.err)).isSome || s.linesInTurn o.ctx o.who a.lane (o.besides a)))

/-- The state with an access of an operation logged at each line that it touches: its value, or how it erred (R432). -/
def State.logAccess (s : State) (o : Op) (a : Access) (value : Nat) (err : Option (Byte × Nat) := none) : State :=
  if o.uid == hubName then s
  else
    let s := s.logEntry o.ctx
      { kind := a.tgt.logged.1, uid := o.who.1, idx := o.who.2, lane := a.lane, line := a.tgt.logged.2, value := value, err := err }
    if err.isSome then s else s.logLines o.ctx o.who a.lane (o.besides a) value

/-- The state with an access of an operation that erred: logged, and settled with its cause (R194, R432). -/
def State.erred (s : State) (id : Nat) (o : Op) (a : Access) (e : Byte × Nat) : State :=
  (s.logAccess o a 0 (some e)).settle id a 0 (.error e)

/-- An element of kind 6 (R370). -/
def poolElement (v : FEnv) (ty op : Nat) (d x : Nat) : Nat :=
  let t := typeOfCode ty
  if ty ≤ 3 then
    let a := intValue t (BitVec.ofNat 64 d)
    let b := intValue t (BitVec.ofNat 64 x)
    let r := if op = 0 then a + b else if op = 1 then (if b < a then b else a) else (if a < b then b else a)
    (intResult t false r).toNat % 2 ^ typeWidth t
  else
    let f := ffmt t
    if op = 0 then f.encode v (FVal.add v.mode (f.decode false d) (f.decode false x)) else f.minMax (op = 2) false d x

/-- The environment of a reduction's single rounding, by a fmt (R102, R370). -/
def reduceEnv (fmt : DWord) : FEnv :=
  { mode := (match bits fmt.toNat 0 2 with | 0 => Mode.rne | 1 => .rtz | 2 => .rup | _ => .rdn), ftz := false, sat := fmt.getLsbD 3 }

/-- What an operation makes of a memory value with an access's data (R200, R370). -/
def OpKind.update (k : OpKind) (a : Access) (m : Nat) : Nat :=
  match k with
  | .atom op _ => op.apply a.len m a.x a.y
  | .red op => op.apply a.len m a.x a.y
  | .pool opx fmt => poolElement (reduceEnv fmt) (bits opx 0 4) (bits opx 4 4) m a.x
  | _ => m

/-- A read by an operation: under replay the hub supplies what a borrowed line gave (R191, R322, R433). -/
def State.readFor (s : State) (o : Op) (a : Access) : ReadResult :=
  match a.tgt, s.opEntry? o a with
  | .lent _ _, some e => some (s, .ok (toBytes a.len e.value))
  | t, _ => s.freshLoad o.core a.mode t a.len

/-- The state in which the L1 copies of a place follow a write that an operation has made for others: those of the cores whose reductions
it carries take the bytes, and that of the core whose engine command it is made for goes (R244, R301, R322, R328). -/
def State.settleCopies (s : State) (o : Op) (t : Target) (bs : List Byte) : State :=
  match t.tag? with
  | none => s
  | some tag =>
    let s := o.carries.foldl (fun s c => match Assoc.get? s.ops c with
      | some r => s.patchCopy r.core tag t.lineOff bs
      | none => s) s
    o.discards.toList.foldl (fun s core => s.dropCopy core tag) s

/-- An access of an operation performed, if its place is at hand; under replay one to a borrowed line takes the recorded outcome and nothing
goes to the lender (R191 to R203, R322, R328, R433; log 105). -/
def State.perform? (s : State) (id : Nat) (o : Op) (a : Access) : Option State :=
  if !s.opInTurn o a || o.behind a then none
  else match (s.opEntry? o a).bind (·.err) with
  | some e => some (s.erred id o a e)
  | none =>
    let recorded := fun (v : Nat) => ((s.opEntry? o a).map (·.value)).getD v
    let supplied := a.tgt.isLent && (s.opEntry? o a).isSome
    let store := fun (bs : List Byte) => if supplied then some ((s.logAccess o a 0).settle id a 0 (.ok none)) else match s.storeAt id o.core a.tgt bs with
      | none => none
      | some (s, n, none) => some ((((s.settleCopies o a.tgt bs).logAccess o a 0).markTarget o.ctx a.tgt).settle id a n (.ok none))
      | some (s, _, some c) => some (s.erred id o a (c, 0))
    let update := fun (ret : Bool) =>
      if supplied then some ((s.logAccess o a (recorded 0)).settle id a 0 (.ok (if ret then some (recorded 0) else none)))
      else match s.updateAt id o.core a.mode (o.scope.num < 3 && a.mode != .uncached) a.tgt a.len (o.kind.update a) with
      | none => none
      | some (s, n, .ok m) =>
        some ((((s.settleCopies o a.tgt (toBytes a.len (o.kind.update a m))).logAccess o a (recorded m)).markTarget o.ctx a.tgt).settle id a n
          (.ok (if ret then some (recorded m) else none)))
      | some (s, _, .error e) => some (s.erred id o a e)
    match o.kind with
    | .load => match s.readFor o a with
      | none => none
      | some (s, .ok bs) => some ((s.logAccess o a (recorded (ofBytes bs))).settle id a 0 (.ok (some (recorded (ofBytes bs)))))
      | some (s, .error e) => some (s.erred id o a e)
    | .store => store (toBytes a.len a.x)
    | .ldx al => match s.readFor o a with
      | none => none
      | some (s, .ok bs) =>
        some (((s.logAccess o a (recorded (ofBytes bs))).scratchWrite o.core al a.x (toBytes a.len (recorded (ofBytes bs)))).settle id a 0 (.ok none))
      | some (s, .error e) => some (s.erred id o a e)
    | .stx al => store (s.scratchRead o.core al a.x a.len)
    | .atom _ ret => update ret
    | .pool _ _ => update false
    | .red op =>
      if o.combines a && !s.recorded o.ctx && !s.replayed o.ctx then
        let c : Combined := { ctx := o.ctx, acc := a, op := op, size := a.len, ops := [id], born := s.cyc o.core }
        match combineInto 32 (s.core o.core).combine c with
        | none => none
        | some l =>
          some ((s.modCore o.core fun k => { k with combine := l }).settle id a 1 (.ok none))
      else update false

/-- The reductions of an operation that wait for combining, in the buffers of the core that issued them, or are on their way to the home
(R328). -/
def State.inCombining (s : State) (id : Nat) : List Access :=
  ((s.cores.flatMap (fun k => k.2.combine) ++ s.clusters.flatMap (·.2)).filterMap fun c =>
    if c.ops.contains id then some c.acc else none) ++ s.ops.flatMap fun p => if p.2.carries.contains id then p.2.todo else []

/-- Two accesses of operations touch a common location (R297). -/
def Op.sharesWith (e o : Op) (x y : Access) : Bool :=
  (e.places x).any fun t => (o.places y).any fun u => t.meets x.len u y.len

/-- An operation must wait for an older one of its threads: an acquire, or one to a common location (R300). -/
def State.heldBy (s : State) (o : Op) (id' : Nat) (e : Op) : Bool :=
  e.uid = o.uid && (e.mask &&& o.mask) != 0 &&
  (e.order.acquires ||
   (e.todo.any fun x => o.todo.any fun y => (e.uni || o.uni || x.lane = y.lane) && e.sharesWith o x y) ||
   (s.inCombining id').any fun x => o.todo.any fun y => x.tgt.meets x.len y.tgt y.len)

/-- No older operation of an operation's threads orders it (R300). -/
def State.mayPerform (s : State) (id : Nat) (o : Op) : Bool :=
  !(s.ops.any fun p => p.1 < id && s.heldBy o p.1 p.2)

/-- An access to a codec block. -/
def Target.isBlock : Target → Bool
  | .block _ _ _ => true
  | _ => false

/-- The state after every access of an operation that can perform has performed, and the others have asked for what they
wait for; those to codec blocks have rows of their own (R337, R338). The lanes move together (log 12). -/
def State.attempt (s : State) (id : Nat) : State :=
  match Assoc.get? s.ops id with
  | none => s
  | some o => o.todo.foldl (fun s a =>
      if a.tgt.isBlock then s
      else match Assoc.get? s.ops id with
      | none => s
      | some o => match s.perform? id o a with
        | some s => s
        | none =>
          if (o.combines a && !s.recorded o.ctx && !s.replayed o.ctx) || !s.opInTurn o a then s
          else s.request id a.tgt (match o.kind with
            | .load => false
            | .ldx _ => false
            | _ => true)) s

/-! ## Results (R68, R70, R194, R382) -/

/-- The group with values of lanes in a v register: inside a clause they join the writes of the path, so that they are
the latest in program order. -/
def Group.deliverV (g : Group) (r : Nat) (seq : Stamp) (vals : List (Nat × Word)) : Group :=
  let inside := fun (p : Path) (l : Nat) => p.exec.getLsbD l && !p.clause.words.isEmpty
  let direct := vals.filter fun x => !g.paths.any fun p => inside p.2 x.1
  { g with
    paths := g.paths.mapVals fun p =>
      let mine := vals.filter fun x => inside p x.1
      if mine.isEmpty then p
      else { p with pend := p.pend ++ [{ reg := .v r, vals := mine.map fun x => (x.1, x.2.setWidth 64), visAt := p.dist, seq := seq }] }
    v := direct.foldl (fun v x => Assoc.put 0 v (128 * r + x.1) x.2) g.v }

/-- A path is still in the clause in which an operation was issued. -/
def Path.inClauseOf (p : Path) (seq : Stamp) : Bool := !p.clause.words.isEmpty && p.began ≤ seq.seq

/-- A path has threads that split off, after a write was issued, from the path that issued it, in the clause that it is in (R71). -/
def Path.springsAfter (q : Path) (idx : Nat) (p : Path) (seq : Stamp) : Bool :=
  q.sprung.any fun x => x.1 = idx && x.2.1 = p.began && seq.seq < x.2.2

/-- The group with a value in a g register: within the clause that issued the operation it stays that path's own, and that of the
paths that have split from it since (R71). -/
def Group.deliverG (g : Group) (idx r : Nat) (x : DWord) (seq : Stamp) : Group :=
  match Assoc.get? g.paths idx with
  | some p =>
    if p.inClauseOf seq then
      let w : PendWrite := { reg := .g r, vals := [(0, x)], visAt := p.dist, seq := seq }
      let paths := g.paths.mapVals fun q => if q.springsAfter idx p seq then { q with seen := q.seen ++ [w] } else q
      { g with paths := Assoc.set paths idx { p with pend := p.pend ++ [w] } }
    else g.putG r x seq
  | none => g.putG r x seq

/-- A helper with a value in a register: inside a clause it joins the writes of its path. -/
def Helper.deliver (h : Helper) (r : Nat) (x : Word) (seq : Stamp) : Helper :=
  if h.path.clause.words.isEmpty then (if r < 16 then { h with v := Assoc.put 0 h.v r x } else h)
  else { h with path := { h.path with pend := h.path.pend ++ [{ reg := .v r, vals := [(0, x.setWidth 64)], visAt := h.path.dist, seq := seq }] } }

/-- The path of a steward with a value in a register. -/
def State.deliverOne (s : State) (a : Agent) (r : Reg) (x : DWord) (seq : Stamp) : State :=
  match s.path? a with
  | none => s
  | some p =>
    if p.clause.words.isEmpty then match r with
      | .v n => s.putV a n 0 (x.setWidth 32)
      | .g n => s.putG a n x seq
      | _ => s
    else s.setPath a { p with pend := p.pend ++ [{ reg := r, vals := [(0, x)], visAt := p.dist, seq := seq }] }

/-- The state with the values of an operation in its destination registers (R63, R70). -/
def State.deliver (s : State) (uid : Nat) (agent : Agent) (seq : Stamp) (dst : Option Reg) (size : Nat)
    (vals : List (Nat × Nat)) : State :=
  let word := fun (v k : Nat) => BitVec.ofNat 32 (v / 2 ^ (32 * k))
  let dword := fun (v k : Nat) => BitVec.ofNat 64 (v / 2 ^ (64 * k))
  let idx := match agent with
    | .path _ _ i => i
    | _ => 0
  match (match dst with
    | some (.v r) => if 192 ≤ r then none else dst
    | d => d), s.unit? uid with
  | some (.v r), some (.helper c n) =>
    s.modHelper c n fun h => vals.foldl (fun h x => (List.range ((size + 3) / 4)).foldl (fun h k => h.deliver (r + k) (word x.2 k) seq) h) h
  | some (.v r), some (.frame g) =>
    s.modFrame g fun h => vals.foldl (fun h x => (List.range ((size + 3) / 4)).foldl (fun h k => h.deliver (r + k) (word x.2 k) seq) h) h
  | some (.v r), some (.steward k) =>
    vals.foldl (fun s x => (List.range ((size + 3) / 4)).foldl (fun s j => s.deliverOne (.steward k) (.v (r + j)) ((word x.2 j).setWidth 64) seq) s) s
  | some (.v r), _ =>
    s.modGroupNamed uid fun g => (List.range ((size + 3) / 4)).foldl (fun g k => g.deliverV (r + k) seq (vals.map fun x => (x.1, word x.2 k))) g
  | some (.g r), some (.steward k) =>
    vals.foldl (fun s x => (List.range ((size + 7) / 8)).foldl (fun s j => s.deliverOne (.steward k) (.g (r + j)) (dword x.2 j) seq) s) s
  | some (.g _), some (.helper _ _) => s
  | some (.g _), some (.frame _) => s
  | some (.g r), _ =>
    s.modGroupNamed uid fun g => vals.foldl (fun g x => (List.range ((size + 7) / 8)).foldl (fun g k =>
      if r + k = 63 then g else g.deliverG idx (r + k) (dword x.2 k) seq) g) g
  | _, _ => s

/-- The state with a deferred fault held for a group or steward (R194), or counted while the group drains (R402). -/
def State.defer (s : State) (owner : Nat) (f : FaultInfo) : State :=
  let (now, s) := s.freshId
  let f := { f with arose := now }
  match s.unit? owner with
  | some (.steward k) => s.modSteward k fun w => { w with deferred := w.deferred ++ [f] }
  | _ => match s.groupNamed? owner with
    | none => s
    | some g =>
      if g.life = .draining then s.countErrors g.launch [f]
      else s.modGroupNamed owner fun g => { g with deferred := g.deferred ++ [f] }

/-- Every access of an operation is to the scratchpad or a frame. -/
def Op.isLocal (o : Op) : Bool := o.lanes.all fun a => match a.tgt with
  | .scratch _ _ _ => true
  | _ => false

/-- The error of a lane with the lowest failing byte (R194, R389). -/
def Op.firstBad (o : Op) (lane : Nat) : Option (Byte × DWord) :=
  (best (fun (a b : Nat × Byte × DWord) => a.2.2.toNat < b.2.2.toNat) (o.bad.filter fun x => x.1 = lane)).map (·.2)

/-- The poisoned lanes of a load that has completed, lowest first; all its lanes where it is uniform; an extent load has no
destination (R194). -/
def Op.poison (o : Op) (id : Nat) (r : Option Reg) (first : Byte × DWord) : Poison :=
  let lanes := if o.uni then (bitsOf o.mask 128).map fun l => (l, first)
    else (bitsOf o.mask 128).filterMap fun l => (o.firstBad l).map fun e => (l, e)
  let p : Poison := { id := id, reg := 0, width := 0, lanes := lanes, pc := o.pc, global := !o.isLocal }
  match r with
  | some (.v n) => { p with reg := n, width := (o.size + 3) / 4 }
  | some (.g n) => { p with reg := 192 + n, width := (o.size + 7) / 8 }
  | _ => p

/-- A load whose errors are poisoned lanes: it has a destination, or is an extent load (R194, R198). -/
def Op.poisons (o : Op) : Bool :=
  match o.kind with
  | .ldx _ => true
  | k => k.loads && o.dst.isSome

/-- The state with the erring lanes of an operation that has completed: poisoned lanes of a load, or one deferred error for the
lowest lane; those of a helper that is gone are counted as its group drains (R194, R336, R344, R345, R402). -/
def State.deliverErrors (s : State) (id : Nat) (o : Op) : State :=
  match best (fun (a b : Nat × Byte × DWord) => a.1 < b.1 || (a.1 == b.1 && a.2.2.toNat < b.2.2.toNat)) o.bad with
  | none => s
  | some x =>
    let f : FaultInfo :=
      { cause := x.2.1, faddr := o.report.getD x.2.2, pc := o.pc, deferred := true, thread := x.1, global := o.report.isSome || !o.isLocal }
    if !o.poisons then s.defer o.owner f
    else
      let (now, s) := s.freshId
      let q := { o.poison id o.dst x.2 with arose := now }
      let add := fun (p : Path) => { p with poison := p.poison ++ [q] }
      match s.unit? o.uid with
      | some (.helper c n) => s.modPath (.helper c n) add
      | some (.frame g) => s.modFrame g fun h => { h with path := add h.path }
      | some (.steward k) => s.modPath (.steward k) add
      | some _ => match s.groupNamed? o.uid with
        | none => s
        | some g => if g.life = .draining then s.countErrors g.launch [f] else s.modGroupNamed o.uid fun g => { g with poison := g.poison ++ [q] }
      | none => match s.groupNamed? o.owner with
        | none => s
        | some g =>
          if g.life = .draining then s.countErrors g.launch [f]
          else if g.killed then s.modGroupNamed o.owner fun g => { g with deferred := g.deferred ++ [f] }
          else s

/-! ## Service calls (R222, R266, R267, R418, R420, R432, R433) -/

/-- The scratchpad lines of a call's record that its results are written to. -/
def Cmd.resultLines (c : Cmd) : List (LogKind × Nat) := (Target.scratch c.core c.alloc (c.bytes + 4)).lines 60

/-- The state with the results of a call in its record, each line logged: STATUS, and the bytes of ARG0 to ARG5 where they are written (R266,
R432). -/
def State.writeCall (s : State) (c : Cmd) (status : Word) (args : List Byte) : State :=
  ((s.scratchWrite c.core c.alloc (c.bytes + 4) (toBytes 4 status.toNat)).scratchWrite c.core c.alloc (c.bytes + 0x10) args).logLines c.ctx
    (c.uid, commandIdx) c.num c.resultLines

/-- The bytes of ARG0 to ARG5. -/
def argBytes (args : List DWord) : List Byte := (List.range 6).flatMap fun i => toBytes 8 (args.getD i 0).toNat

/-- The state with the completion of a call logged, its results being in its record (R432). -/
def State.logCall (s : State) (c : Cmd) : State :=
  let results := s.scratchRead c.core c.alloc (c.bytes + 4) 4 ++ s.scratchRead c.core c.alloc (c.bytes + 0x10) 48
  s.logEntry c.ctx { kind := .call, uid := c.uid, idx := c.path, lane := 0, line := hubLineOf c.uid c.path 0, value := ofBytes results }

/-- What a call completes with when it is posted: the results of a call of its SVC and TOKEN already carried out, or under replay those that
the log has for the path's next call; STATUS, and the bytes of ARG0 to ARG5 (R420, R433). -/
def State.knownResults? (s : State) (c : Cmd) : Option (Word × List Byte) :=
  match (s.context c.ctx).calls.find? fun k => k.svc.toNat = c.field 0 4 && k.token.toNat = c.field 8 8 with
  | some k => some (k.status, argBytes k.args)
  | none =>
    if !s.replayed c.ctx then none
    else (s.fomar.replay.find? fun e => e.kind = .call && e.line = hubLineOf c.uid c.path 0).map fun e =>
      (BitVec.ofNat 32 (e.value % 2 ^ 32), (toBytes 52 e.value).drop 4)

/-- The state with a call posted as an event, or complete at once, in its turn under replay (R266, R267, R418, R420, R433). -/
def State.postCall (s : State) (id : Nat) (c : Cmd) : State :=
  match s.knownResults? c with
  | some (status, args) =>
    if !s.linesInTurn c.ctx (c.uid, commandIdx) c.num c.resultLines then s
    else
    let s := { s with cmds := Assoc.erase s.cmds id }
    ((s.writeCall c status args).logCall c).modRingsNamed c.uid fun r => r.complete .sv id
  | none =>
    let body := toBytes 4 c.gid ++ toBytes 4 c.bytes ++ List.replicate 0x28 0 ++ c.rec'
    { s with cmds := Assoc.set s.cmds id { c with started := true, handle := s.engine.nextHandle } }.postEvent 1 c.ctx body false

/-- The state with every call posted that the accesses before it no longer hold (R222, R267). -/
def State.postCalls (s : State) : State :=
  s.cmds.foldl (fun s p =>
    if p.2.kind = .svc && !p.2.started && p.2.after.all fun i => (Assoc.get? s.ops i).isNone then s.postCall p.1 p.2 else s) s

/-- The monitor source of an operation's latency (R434). -/
def OpKind.source : OpKind → Nat
  | .load => 1
  | .ldx _ => 1
  | .atom _ ret => if ret then 3 else 1
  | _ => 2

/-- An operation completes: its values and errors are delivered, its acquire performs, its counter's ring moves (R199,
R326, R327). -/
def State.finish (s : State) (id : Nat) (o : Op) : State :=
  let good := o.vals.filter fun v => !o.bad.any fun b => b.1 = v.1
  let s := { s with ops := Assoc.erase s.ops id }
  let s := if o.order.acquires then s.acquire o.core o.scope else s
  let s := (s.deliver o.uid o.agent o.seq o.dst o.size good).deliverErrors id o
  let s := s.modRingsNamed o.uid fun r => r.complete o.kind.ctr id
  let s := o.carries.foldl (fun s c =>
    (if o.report.isSome || o.bad.isEmpty then s
     else { s with cmds := Assoc.update s.cmds c fun c => { c with owed := c.owed - o.size } }).ack c
      (if o.report.isSome then none else o.bad.head?.map fun (b : Nat × Byte × DWord) => ((0x0A : Byte), b.2.2))) s
  let s := s.postCalls
  if o.uid == hubName then (s.dropPlaces o.lanes).traced id
  else if o.carries.isEmpty then s.observe o.core o.kind.source (s.cyc o.core - o.born) else s

/-- A completion row: the accesses that can perform do, and an operation with nothing left to wait for completes; the row
does not occur where neither happens. -/
def State.completion (s : State) (id : Nat) (pick : OpKind → Bool) : Host.Outcome State Fault Refusal :=
  match Assoc.get? s.ops id with
  | none => .fault .notEnabled
  | some o =>
    if !pick o.kind || !s.mayPerform id o then .fault .notEnabled
    else
      let s' := s.attempt id
      match Assoc.get? s'.ops id with
      | none => .fault .notEnabled
      | some o' =>
        if o'.todo.isEmpty && o'.awaits = 0 then .next (s'.finish id o')
        else if o' != o || s'.booth != s.booth then .next s'
        else .fault .notEnabled

/-- LOAD_COMPLETE: a load, an extent load or an atomic without return (R326). -/
def execLoadComplete (op : Nat) (s : State) : Host.Outcome State Fault Refusal :=
  s.completion op fun k => k.ctr == .ld

/-- STORE_COMPLETE: a store, an extent store or a reduction (R326). -/
def execStoreComplete (op : Nat) (s : State) : Host.Outcome State Fault Refusal :=
  s.completion op fun k => k.ctr == .st

/-- ATOMIC_COMPLETE: an atomic with return (R326). -/
def execAtomicComplete (op : Nat) (s : State) : Host.Outcome State Fault Refusal :=
  s.completion op fun k => k.ctr == .am

/-- An agent that a group's operation keeps from going on: it waits for a release, a fence or the st counter (R328). -/
def State.pressing (s : State) (id : Nat) : Bool :=
  match Assoc.get? s.ops id with
  | none => false
  | some o => match s.groupNamed? o.uid with
    | none => true
    | some g => g.paths.any fun p => match p.2.phase with
      | .stalled (.drain ids) => ids.contains id
      | .stalled (.counter .st _) => true
      | .waiting => bits p.2.clause.header.toNat 45 2 != 0
      | _ => false

/-- COMBINE_FLUSH: an entry goes on from a core's buffer to its cluster's, or from there to the home (R328). -/
def execCombineFlush (cluster : Bool) (unit entry : Nat) (s : State) : Host.Outcome State Fault Refusal :=
  if cluster then
    let l := Assoc.getD s.clusters unit []
    match l[entry]? with
    | none => .fault .notEnabled
    | some c =>
      if c.born + 64 ≤ s.cyc (16 * unit) || 256 ≤ l.length || c.ops.any s.pressing then
        let (id, s) := s.freshId
        let o : Op :=
          { kind := .red c.op, agent := .steward 0, uid := id, owner := id, core := 4096, mask := 0, ctx := c.ctx, view := {}, size := c.size,
            order := .rlx, scope := .pkg, lanes := [c.acc], todo := [c.acc], carries := c.ops }
        .next { s with clusters := Assoc.put [] s.clusters unit (l.eraseIdx entry), ops := Assoc.set s.ops id o }
      else .fault .notEnabled
  else
    let l := (s.core unit).combine
    match l[entry]? with
    | none => .fault .notEnabled
    | some c =>
      match combineInto 256 (Assoc.getD s.clusters (unit / 16) []) c with
      | none => .fault .notEnabled
      | some m =>
        if c.born + 64 ≤ s.cyc unit || 32 ≤ l.length || c.ops.any s.pressing then
          .next ({ s with clusters := Assoc.set s.clusters (unit / 16) m }.modCore unit fun k => { k with combine := l.eraseIdx entry })
        else .fault .notEnabled

end Machine
end Sys2Proof
end

