-- ==== Sys2Proof/Machine/Window.lean ====
section
/-! DEFINITION. Codec windows at the home slice: reading and writing one block, the counter block, non-finite values,
and the two rows of the codec (R315, R321, R331, R336 to R345). -/
namespace Sys2Proof.Machine

/-- The bytes of an encoding at its places (R321). -/
def State.pieceBytes (s : State) (ps : List (Nat × Nat)) : List Byte := ps.flatMap fun p => s.mem.readN p.1 p.2

/-- The encoding lies in an uncorrectable word (R345). -/
def State.blockPoisoned (s : State) (ps : List (Nat × Nat)) : Bool := ps.any fun p => (s.poisonIn p.1 p.2).isSome

/-- The state with an encoding written at its places. -/
def State.writePieces : State → List (Nat × Nat) → List Byte → State
  | s, [], _ => s
  | s, p :: ps, bs => (s.physWrite none p.1 (bs.take p.2)).writePieces ps (bs.drop p.2)

/-- Eight values as 64 bytes. -/
def blockBytes (xs : List Nat) : List Byte := xs.flatMap fun x => toBytes 8 x
/-- 64 bytes as eight values. -/
def blockValues (bs : List Byte) : List Nat := (List.range 8).map fun i => valueAt bs (8 * i) 8

/-- An open window of a set that holds a VA (R217, R309). -/
def windowAt (ws : Assoc Window) (va : Nat) : Option Window :=
  (ws.find? fun w => w.2.base ≤ va && va < w.2.base + w.2.size).map (·.2)

/-- Why a block cannot be read. -/
inductive BlockError where
  | poisoned
  | malformed
deriving DecidableEq, Repr

/-- The decoded bytes of a block for a load by a core: its L1 copy, or the slice's decoding, which fills the copy (R322,
R337). -/
def State.blockLoad (s : State) (core ctx : Nat) (w : Window) (va : Nat) (ps : List (Nat × Nat)) : State × Except BlockError (List Byte) :=
  let tag := LineTag.block ctx (va / 64)
  match s.copy? core .undeclared tag with
  | some l => (s, .ok (toBytes 64 l.toNat))
  | none =>
    if s.blockPoisoned ps then (s, .error .poisoned)
    else match decodeBlock w.k (s.pieceBytes ps) with
    | none => (s, .error .malformed)
    | some xs =>
      let bs := blockBytes xs
      (if windowAt (s.context ctx).windows va = some w then s.fillCopy core tag .undeclared (BitVec.ofNat 512 (ofBytes bs)) else s, .ok bs)

/-- The updates of the counter block after an encode (R342): the offset of each field, its operation and its datum. A block that holds
a saturated value differs from its merge and counts as lossy at every k (R103, R344; log 40). -/
def counterUpdates (bva : Nat) (merged x2 : List Nat) : List (Nat × OpKind × Nat) :=
  (0, .red .add, 1) :: (if (merged.zip x2).any fun p => differ64 p.1 p.2 then
    [(8, .red .add, 1), (16, .red .maxF, blockError merged x2), (24, .atom .exch false, bva)] else [])

/-- The operation of a counter's update. -/
def counterOp : OpKind → AtomOp
  | .red op => op
  | .atom op _ => op
  | _ => .exch

/-- What makes a write step: an operation or engine command, the group or steward its errors are held for, and what its accesses are
logged as. -/
structure Writer where
  id    : Nat
  owner : Nat
  who   : Nat × Nat
  lane  : Nat
  core  : Nat
  ctx   : Nat
  root  : DWord
  pc    : PC
deriving DecidableEq, Repr

/-- An operation as the maker of a write step of a lane. -/
def Op.writer (o : Op) (id lane : Nat) : Writer :=
  { id := id, owner := o.owner, who := o.who, lane := lane, core := o.core, ctx := o.ctx, root := o.view.root, pc := o.pc }

/-- Where the counter block of a window lies; none where its address fails, and else the line that its translation waits for (R330,
R343). -/
def State.counterPlace (s : State) (r : Writer) (w : Window) : Except Miss (Option Access) :=
  if (windowAt (s.context r.ctx).windows w.cnt).isSome then .ok none
  else match s.placesOf r.core r.ctx r.root w.cnt 32 .modify with
  | .ok [a] => .ok (some a)
  | .ok _ => .ok none
  | .error (m, _) => if m.waits.isSome then .error m else .ok none

/-- The state in which a write step waits for its counter block, which it updates before it unlocks: for a page table's line, for the turn
of the counters' line at its home or under replay, or for the line to be held for writing; none where it is at hand (R338, R343, R358,
R361, R433). -/
def State.counterKept? (s : State) (r : Writer) (w : Window) : Option State :=
  match s.counterPlace r w with
  | .error m => some (s.fetchMiss m)
  | .ok none => none
  | .ok (some a) =>
    if !s.inTurn r.ctx r.who.1 r.who.2 r.lane a.tgt.logged.1 a.tgt.logged.2 then some s
    else match a.tgt with
    | .phys pa => if s.localTurn r.id (pa / 64) then none else some (s.request r.id a.tgt true)
    | .lent e off => if s.replayed r.ctx || s.writable e (off / 64) || (s.borrowed e).st != 2 then none else some (s.request r.id a.tgt true)
    | _ => none

/-- The update of one counter at its home (R342): the completions to come, and whether it was made. The turn at the home stays taken. -/
def State.countField (s : State) (sub ctx : Nat) (a : Access) (u : Nat × OpKind × Nat) : State × Nat × Bool :=
  let f := fun (m : Nat) => (counterOp u.2.1).apply 8 m u.2.2 0
  match a.tgt with
  | .phys pa =>
    if (s.poisonIn (pa + u.1) 8).isSome then (s, 0, false)
    else ((s.physWrite (some 4096) (pa + u.1) (toBytes 8 (f (ofBytes (s.physRead (pa + u.1) 8))))).markDirty ctx (pa + u.1), 0, true)
  | .lent e off => if s.replayed ctx then (s, 0, true) else match s.updateAt sub 4096 .uncached false (.lent e (off + u.1)) 8 f with
    | some (s, n, .ok _) => (s, n, true)
    | some (s, n, .error _) => (s, n, false)
    | none => (s, 0, false)
  | _ => (s, 0, false)

/-- The counter block updated after an encode, as a part of the write step. An update that its address or its home fails is a deferred
error of the writer's group, at the counter block's VA; the write waits for the updates that a lender has still to acknowledge, in an
operation of their own (R338, R342, R343; log 102). -/
def State.countEncode (s : State) (r : Writer) (w : Window) (us : List (Nat × OpKind × Nat)) : State :=
  let fail := fun (s : State) =>
    s.defer r.owner { cause := 0x0A, faddr := BitVec.ofNat 64 w.cnt, pc := r.pc, deferred := true, global := true }
  match s.counterPlace r w with
  | .ok (some a) =>
    let (sub, s) := s.freshId
    let x := us.foldl (fun (acc : State × Nat × Bool) u =>
      let y := acc.1.countField sub r.ctx a u
      (y.1, acc.2.1 + y.2.1, acc.2.2 && y.2.2)) (s, 0, true)
    let s := x.1.logEntry r.ctx { kind := a.tgt.logged.1, uid := r.who.1, idx := r.who.2, lane := r.lane, line := a.tgt.logged.2, value := 0 }
    let s := if x.2.2 then s else fail s
    if x.2.1 = 0 then s
    else
      let o : Op := { hubOp r.ctx .store [] with
        uid := sub, owner := r.owner, pc := r.pc, awaits := x.2.1, carries := [r.id], report := some (BitVec.ofNat 64 w.cnt) }
      { s with ops := Assoc.set s.ops sub o }.expect r.id
  | _ => fail s

/-- The state in which a writer has done with its turn at the line of a window's counter block (R361). -/
def State.counterDone (s : State) (r : Writer) (w : Window) : State :=
  match s.counterPlace r w with
  | .ok (some a) => (match a.tgt with
    | .phys pa => s.localDone r.id (pa / 64)
    | _ => s)
  | _ => s

/-- What a write step comes to (R336, R338, R344, R345). -/
inductive StepResult where
  /-- The block was written and counted (R343). -/
  | written
  | error (e : BlockError)
  /-- A non-finite value under NFP = 0 in an element: the block is unchanged. -/
  | nonFinite (element : Nat)
deriving DecidableEq, Repr

/-- A WRITE STEP of a block (R338): the decoded values are merged by `f` in the elements it touches; `whole` where the
merge covers all 64 bytes. -/
def State.writeBlock (s : State) (r : Writer) (w : Window) (va : Nat) (ps : List (Nat × Nat)) (nfp whole : Bool)
    (touched : List Nat) (f : List Byte → List Byte) : State × StepResult :=
  let bva := va / 64 * 64
  let old := if whole then some (List.replicate 8 0) else decodeBlock w.k (s.pieceBytes ps)
  if s.blockPoisoned ps && !whole then (s, .error .poisoned)
  else match old with
  | none => (s, .error .malformed)
  | some xs =>
    let merged := blockValues (f (blockBytes xs))
    match touched.find? fun i => !nfp && !isFinite64 (merged.getD i 0) with
    | some i => (s, .nonFinite i)
    | none =>
      let stored := (List.range 8).map fun i => if touched.contains i then saturate64 (merged.getD i 0) else merged.getD i 0
      let enc := encodeBlock w.k stored
      let x2 := (decodeBlock w.k enc).getD stored
      let s := (s.writePieces ps enc).dropCopy r.core (.block r.ctx (va / 64))
      (s.countEncode r w (counterUpdates bva merged x2), .written)

/-- The accesses of an operation to one block that have not performed, in thread order. -/
def Op.inBlock (o : Op) (block : Nat) : List Access := o.todo.filter fun a => a.tgt.isBlock && a.va / 64 = block

/-- The state with one access of an operation settled as an error at an address. -/
def State.settleError (s : State) (id : Nat) (a : Access) (cause : Byte) (addr : Nat) : State :=
  match Assoc.get? s.ops id with
  | none => s
  | some o =>
    let s := s.logAccess o a 0 (some (cause, addr - a.va))
    { s with ops := Assoc.set s.ops id { o with todo := o.todo.erase a, bad := o.bad ++ [(a.lane, cause, BitVec.ofNat 64 addr)] } }

/-- The accesses of a block are in turn under replay (R433). -/
def State.blockInTurn (s : State) (o : Op) (as : List Access) : Bool :=
  match as.head? with
  | none => true
  | some a => s.opInTurn o a

/-- CODEC_LOAD: the slice decodes a block and returns it to every lane that loads from it (R315, R337). -/
def execCodecLoad (op block : Nat) (s : State) : Host.Outcome State Fault Refusal :=
  match Assoc.get? s.ops op with
  | none => .fault .notEnabled
  | some o =>
    let as := o.inBlock block
    let reads := match o.kind with
      | .load => true
      | .ldx _ => true
      | _ => false
    match as.head?.map Access.tgt with
    | some (.block w va ps) =>
      if !reads || !s.mayPerform op o || !s.blockInTurn o as then .fault .notEnabled
      else
        let (s, r) := s.blockLoad o.core o.ctx w va ps
        .next (as.foldl (fun s a =>
          match r with
          | .error .poisoned => s.settleError op a 0x09 a.va
          | .error .malformed => s.settleError op a 0x08 (block * 64)
          | .ok bs =>
            let got := (((s.opEntry? o a).map (·.value)).getD (ofBytes ((bs.drop (a.va % 64)).take a.len)))
            let s := s.logAccess o a got
            match o.kind with
            | .ldx al => (s.scratchWrite o.core al a.x (toBytes a.len got)).settle op a 0 (.ok none)
            | _ => s.settle op a 0 (.ok (some got))) s)
    | _ => .fault .notEnabled

/-- The bytes of a block with one lane's store or update merged, and the element an atomic found (R338, R341). -/
def Access.merge (a : Access) (kind : OpKind) (data : List Byte) (bs : List Byte) : List Byte × Nat :=
  let off := a.va % 64
  let put := fun (new : List Byte) => bs.take off ++ new ++ bs.drop (off + new.length)
  let m := valueAt bs off 8
  match kind with
  | .atom op _ => (put (toBytes 8 (op.apply 8 m a.x a.y)), m)
  | .red op => (put (toBytes 8 (op.apply 8 m a.x a.y)), m)
  | _ => (put data, m)

/-- The elements of a block that an access touches. -/
def Access.elements (a : Access) : List Nat := (List.range 8).filter fun i => a.va % 64 < 8 * i + 8 && 8 * i < a.va % 64 + a.len

/-- CODEC_WRITE_STEP: under the block lock the slice decodes, merges, checks, encodes and writes a block (R338 to R345). -/
def execCodecWriteStep (op block : Nat) (s : State) : Host.Outcome State Fault Refusal :=
  match Assoc.get? s.ops op with
  | none => .fault .notEnabled
  | some o =>
    let as := o.inBlock block
    let writes := match o.kind with
      | .load => false
      | .ldx _ => false
      | _ => true
    let plain := match o.kind with
      | .store => true
      | .stx _ => true
      | _ => false
    let by' := o.writer op ((as.head?.map (·.lane)).getD 0)
    match as.head?.map Access.tgt with
    | some (.block w va ps) =>
      if !writes || !s.mayPerform op o || !s.blockInTurn o as then .fault .notEnabled
      else match s.counterKept? by' w with
      | some s' => changed s s'
      | none =>
        let data := fun (a : Access) => match o.kind with
          | .stx al => s.scratchRead o.core al a.x a.len
          | _ => toBytes a.len a.x
        let whole := plain && (List.range 64).all fun k => as.any fun a => a.va % 64 ≤ k && k < a.va % 64 + a.len
        let merge := fun (bs : List Byte) => as.foldl (fun (acc : List Byte × List Nat) a =>
          let r := a.merge o.kind (data a) acc.1
          (r.1, acc.2 ++ [r.2])) (bs, [])
        let before := blockBytes ((decodeBlock w.k (s.pieceBytes ps)).getD (List.replicate 8 0))
        let (s, r) := s.writeBlock by' w va ps o.nfp whole (as.flatMap (·.elements)) fun bs => (merge bs).1
        let s := s.counterDone by' w
        let cause : Byte := if o.kind.loads then 0x09 else 0x0A
        match r with
        | .written =>
          .next (((as.zip (merge before).2)).foldl (fun s p =>
            let got := ((s.opEntry? o p.1).map (·.value)).getD p.2
            ((s.logAccess o p.1 got).markTarget o.ctx p.1.tgt).settle op p.1 0 (.ok (if o.kind.loads then some got else none))) s)
        | .error .poisoned => .next (as.foldl (fun s a => s.settleError op a cause a.va) s)
        | .error .malformed => .next (as.foldl (fun s a => s.settleError op a 0x08 (block * 64)) s)
        | .nonFinite i => .next (as.foldl (fun s a => s.settleError op a (if o.kind.loads || o.kind = .store then 0x08 else 0x0A) (block * 64 + 8 * i)) s)
    | _ => .fault .notEnabled

end Sys2Proof.Machine
end

