-- ==== Sys2Proof/Machine/System.lean ====
section
/-! DEFINITION. Special registers, traps and returns, translation invalidation and prefetch (R261 to R275). -/
namespace Sys2Proof.Machine

/-- Protection raised by an instruction for something other than an access, for which no rule gives a fault address: a
table of another launch, the lent table, a context in use (R255, R276, Table 5 of the system chapter; log 10). -/
def State.raiseProtection (s : State) (u : Issuer) : State :=
  { s with free := s.free + 1 }.raise u { cause := 0x05, faddr := Config.protectionAddr s.free, pc := u.path.wordAddr }

/-! ## Faults of an access -/

/-- A fault of the current instruction at an address. -/
def Issuer.faultAt (u : Issuer) (cause : Byte) (addr : Nat) (lease : Word := 0) : FaultInfo :=
  { cause := cause, faddr := BitVec.ofNat 64 addr, pc := u.path.wordAddr, lease := lease }

/-- A fault of the current instruction's access to a VA. -/
def Issuer.faultOn (u : Issuer) (cause : Byte) (va : Nat) (lease : Word := 0) : FaultInfo :=
  { u.faultAt cause va lease with global := true }

/-- What keeps the current instruction's access to a VA from its place: a fault, or a line that the check waits for. -/
def Issuer.faultMiss (u : Issuer) (m : Miss) (va : Nat) : FaultInfo := { u.faultOn m.cause va m.lease with waits := m.waits }

/-! ## Special registers (R262 to R265) -/

/-- A special register of 64 bits (Table 2 of the system chapter). -/
def sysWide (code : Nat) : Bool :=
  code == 0x16 || (0x20 ≤ code && code ≤ 0x22) || (0x30 ≤ code && code ≤ 0x39 && code != 0x32 && code != 0x38)

/-- A special register of kind thread (Table 2). -/
def sysThread (code : Nat) : Bool := code ≤ 2

/-- The core type and level may read a special register (R263, Table 2). -/
def sysReadable (u : Issuer) (code : Nat) : Bool :=
  if code < 0x20 then true
  else if code ≤ 0x22 then u.kind == .simt && u.path.lvl
  else u.kind == .steward && u.sup && code != 0x38

/-- The core type and level may write a special register (R264, Table 2). -/
def sysWritable (u : Issuer) (code : Nat) : Bool :=
  if code = 0x18 then u.kind == .simt || (u.kind == .steward && !u.sup)
  else if code = 0x22 then u.kind == .simt && u.path.lvl
  else u.kind == .steward && u.sup && 0x30 ≤ code && code ≤ 0x38

/-- The chunk that gsr chunk reads (Table 2). -/
def State.chunkOf (s : State) : Agent → Nat
  | .helper c n => ((s.helper? c n).map (·.chunk)).getD 0xFFFFFFFF
  | _ => 0xFFFFFFFF

/-- The value of a special register of kind other than thread, apart from writes not yet visible (R263, Table 2). -/
def State.sysValue (s : State) (u : Issuer) (code : Nat) : DWord :=
  let group := if u.kind = .steward then none else s.group? u.core u.slot
  let steward := s.steward (u.core - 4096)
  let isSteward := u.kind == .steward
  if code = 0x03 then BitVec.ofNat 64 (if isSteward then 0 else gidOf u.core u.slot)
  else if code = 0x04 then BitVec.ofNat 64 (if isSteward then 0 else u.idx)
  else if 0x08 ≤ code && code ≤ 0x0F then BitVec.ofNat 64 ((group.map fun g => g.lvls.getD (code - 8) 0).getD 0)
  else if code = 0x10 then BitVec.ofNat 64 u.core
  else if code = 0x11 then BitVec.ofNat 64 (if isSteward then 0xFFFFFFFF else u.core / 16)
  else if code = 0x12 then BitVec.ofNat 64 (dieOf u.core)
  else if code = 0x13 then BitVec.ofNat 64 s.boot.pkgId
  else if code = 0x14 then BitVec.ofNat 64 u.ctx
  else if code = 0x15 then BitVec.ofNat 64 (s.chunkOf u.agent)
  else if code = 0x16 then BitVec.ofNat 64 (s.cyc u.core)
  else if code = 0x17 then BitVec.ofNat 64 ((u.path.loops.head?.map (·.count.toNat)).getD 0)
  else if code = 0x18 then BitVec.ofNat 64 (s.wth u.agent)
  else if code = 0x20 then (s.context u.ctx).tarea
  else if code = 0x21 then (u.path.handler.map (·.tfr)).getD 0
  else if code = 0x22 then (u.path.handler.map (·.tstk)).getD 0
  else if code = 0x30 then steward.svec
  else if code = 0x31 then steward.sepc
  else if code = 0x32 then steward.scause.setWidth 64
  else if code = 0x33 then steward.stval
  else if code = 0x34 then steward.sstat
  else if code = 0x35 then steward.sie
  else if code = 0x36 then BitVec.ofNat 64 (s.sip (u.core - 4096))
  else if code = 0x37 then steward.stcmp
  else if code = 0x39 then steward.lsres
  else 0

/-- The value a gsr reads in a lane: a write visible at its distance, or the register (R263, R264). -/
def State.readSys (s : State) (u : Issuer) (code lane : Nat) : DWord :=
  if u.kind != .simt && code ≤ 2 then 0
  else if code = 0 then BitVec.ofNat 64 lane
  else if code = 1 then BitVec.ofNat 64 (lane % 16)
  else if code = 2 then BitVec.ofNat 64 (lane / 16)
  else (u.path.visible? (.sys code) 0).getD (s.sysValue u code)

/-- The operand position of gsr's destination (R263). -/
def gsrUse (f : F3) : Use :=
  match f.d with
  | .v _ => { o := f.d, role := if sysWide f.x.toNat then .vpair else .vreg, write := true }
  | .g _ => { o := f.d, role := if sysThread f.x.toNat then .vreg else .greg, write := true }

/-- `gsr` (R263). -/
def execGsr (f : F3) (s : State) : Host.Outcome State Fault Refusal :=
  issue s (.gsr f)
    (fun u => { ctrlReq false [gsrUse f] with may := sysReadable u f.x.toNat, uni := f.u, sys := [f.x.toNat] })
    fun u => (s.pushWrites u (resultWrites f.d (sysWide f.x.toNat)
      ((u.over f.u).map fun t => (t, s.readSys u f.x.toNat t))) 2).retire u f.sc

/-- The bits of a special register that a write keeps (R264, Tables 2 to 4). -/
def sysMask (code : Nat) : DWord :=
  if code = 0x18 then 0x3FF else if code = 0x32 then 0xFFFFFFFF else if code = 0x34 then 0x3FF000F
  else if code = 0x35 then 0x3F else 0xFFFFFFFFFFFFFFFF

/-- `ssr`: one write of a special register with L = 2 (R264). -/
def execSsr (f : F3) (s : State) : Host.Outcome State Fault Refusal :=
  issue s (.ssr f) (fun u => { ctrlReq false [gUse f.a false] with may := sysWritable u f.x.toNat, sys := [f.x.toNat] }) fun u =>
    (s.pushWrites u [(.sys f.x.toNat, [(0, s.read64 u f.a 0 &&& sysMask f.x.toNat)])] 2).retire u f.sc

/-- `ssr sipi`: IPI of a steward is set, or it leaves its start wait (R264, R414). -/
def execSipiWrite (f : F3) (s : State) : Host.Outcome State Fault Refusal :=
  issue s (.sipiWrite f) (fun u => { ctrlReq false [gUse f.a false] with may := sysWritable u 0x38, sys := [0x38] }) fun u =>
    (s.pushWrites u [(.sys 0x38, [(0, s.read64 u f.a 0)])] 2).retire u f.sc

/-- `ssr stcmp`: the timer compare; TIMER clears where it is set above cyc (R264, R273). -/
def execStcmpWrite (f : F3) (s : State) : Host.Outcome State Fault Refusal :=
  issue s (.stcmpWrite f) (fun u => { ctrlReq false [gUse f.a false] with may := sysWritable u 0x37, sys := [0x37] }) fun u =>
    (s.pushWrites u [(.sys 0x37, [(0, s.read64 u f.a 0)])] 2).retire u f.sc

/-! ## Traps and returns (R269, R270, R274, R275) -/

/-- The fault of `trap n` and `brk n`: the fault address is the next clause (R269). -/
def trapInfo (u : Issuer) (cause : Byte) (n : Byte) : FaultInfo :=
  { cause := cause, faddr := u.path.nextClause.setWidth 64, pc := u.path.wordAddr, lease := n.setWidth 32 }

/-- A trap of a user-level path by the last instruction of its clause: a clause with Y set ends with a yield all the same (R54,
R269). -/
def State.raiseLast (s : State) (u : Issuer) (f : FaultInfo) : State :=
  let s' := s.raise u f
  if u.path.clause.header.getLsbD 36 && !(s'.path? u.agent).any Path.splitWaits then s'.yieldGroup u.agent else s'

/-- `trap n` (R269). -/
def execTrap (f : F3) (s : State) : Host.Outcome State Fault Refusal :=
  issue s (.trap f) (fun _ => ctrlReq true []) fun u =>
    match u.agent with
    | .steward k => s.stewardEnter k (u.path.nextClause.setWidth 64) 0x10 (f.x.setWidth 64)
    | .helper _ _ => s.raise u (trapInfo u 0x10 f.x)
    | .path c sl _ =>
      if u.path.lvl then
        (s.endClause u u.path.nextClause).endLaunch u.launch 0x10 f.x (gidOf c sl) u.path.wordAddr none
      else s.raiseLast u (trapInfo u 0x10 f.x)

/-- `brk n`: the breakpoint trap, or HOLD at the boundary after it where the context's breakpoints are claimed (R269). -/
def execBrk (f : F3) (s : State) : Host.Outcome State Fault Refusal :=
  issue s (.brk f) (fun _ => ctrlReq true []) fun u =>
    match u.agent with
    | .steward k => s.stewardEnter k (u.path.nextClause.setWidth 64) 0x11 (f.x.setWidth 64)
    | .helper _ _ => s.raise u (trapInfo u 0x11 f.x)
    | .path _ _ _ =>
      if u.path.view.claimed u.ctx then (s.endClause u u.path.nextClause).modPath u.agent fun p => { p with brk := true }
      else if u.path.lvl then s.endClause u u.path.nextClause
      else s.raiseLast u (trapInfo u 0x11 f.x)

/-- `eret`: the lanes return to user level with their saved state (R270; log 32). -/
def execEret (f : F3) (s : State) : Host.Outcome State Fault Refusal :=
  issue s (.eret f) (fun u => { ctrlReq true [gUse f.a false] with may := u.kind == .simt && u.path.lvl }) fun u =>
    let target := s.read64 u f.a 0
    if !u.path.recon.isEmpty then s.raiseHere u 0x01
    else if target.toNat % 8 != 0 then s.raise u { cause := 0x06, faddr := target, pc := u.path.wordAddr }
    else ((s.endClause u (target.setWidth 60)).modPath u.agent fun p => p.return' (target.setWidth 60)).refreshBusy u.ctx

/-- `sret`: a steward returns from supervisor level (R274; log 32); it reads SSTAT (log 98). -/
def execSret (f : F3) (s : State) : Host.Outcome State Fault Refusal :=
  issue s (.sret f) (fun u => { ctrlReq true [gUse f.a false] with may := u.kind == .steward && u.sup, sys := [0x34] }) fun u =>
    let target := s.read64 u f.a 0
    if target.toNat % 8 != 0 then s.raise u { cause := 0x06, faddr := target, pc := u.path.wordAddr }
    else (s.endClause u (target.setWidth 60)).modSteward (u.core - 4096) fun w => w.return' (s.readSys u 0x34 0) (target.setWidth 60)

/-- `wfi`: a steward stalls until an enabled interrupt is pending (R275); it reads SIE and SIP (log 98). -/
def execWfi (f : F3) (s : State) : Host.Outcome State Fault Refusal :=
  issue s (.wfi f) (fun u => { ctrlReq true [] with may := u.kind == .steward && u.sup, sys := [0x35, 0x36] }) fun u =>
    if s.readSys u 0x35 0 &&& s.readSys u 0x36 0 = 0 then (s.commit u.agent).stall u .wfi else s.endClause u u.path.nextClause

/-- STEWARD_ENTRY: a steward at a clause boundary takes its lowest pending enabled interrupt (R273). -/
def execStewardEntry (k : Nat) (s : State) : Host.Outcome State Fault Refusal :=
  let w := s.steward k
  match (List.range 6).find? fun b => (s.pendingEnabled k).testBit b with
  | none => .fault .notEnabled
  | some b =>
    if k < 32 && !w.start && w.path.phase.atBoundary && (!w.sup || w.sstat.getLsbD 0) then
      -- the interrupt of the virtio doorbells takes them (log 29)
      let s := if b = 3 then { s with doorbells := [] } else s
      .next (s.stewardEnter k (w.path.pc.setWidth 64) (0x80 + b) 0)
    else .fault .notEnabled

/-- STEWARD_TIMER: cyc has reached STCMP and TIMER becomes pending (R273). -/
def execStewardTimer (k : Nat) (s : State) : Host.Outcome State Fault Refusal :=
  if k < 32 && (s.steward k).stcmp.toNat ≤ s.cyc (4096 + k) && !(s.steward k).timer then
    .next (s.modSteward k fun w => { w with timer := true })
  else .fault .notEnabled

/-! ## Releases, translation invalidation, prefetch (R194, R199, R271, R272) -/

/-- A cached translation that an invalidation names: of a context, or of all; of one VA, or of all (R271). -/
def TlbEntry.named (e : TlbEntry) (ctx va : Option Nat) : Bool :=
  (match ctx with
   | some c => e.ctx == c
   | none => true) &&
  (match va with
   | some a => let n := leafSize e.level e.leaf.toNat; e.page * 4096 / n == a / n
   | none => true)

/-- The VA of an access that is translated: its own, or that of the encoding of a block (R331). -/
def Access.translated (a : Access) : Nat :=
  match a.tgt with
  | .block w va _ => w.cva va
  | _ => a.va

/-- An operation in flight may use a translation that an invalidation names, whose page is at most 1 GiB (R271). -/
def usesTranslation (ctx va : Option Nat) (ctx' : Nat) (vas : List Nat) : Bool :=
  (match ctx with
   | some c => ctx' == c
   | none => true) &&
  (match va with
   | some a => vas.any fun x => x / 2 ^ 30 == a / 2 ^ 30
   | none => true)

/-- The operations in flight of the cores in scope that use a translation an invalidation names, those that a command makes among
them (R271). -/
def State.translatedIds (s : State) (inScope : Nat → Bool) (ctx va : Option Nat) : List Nat :=
  (s.ops.filter fun p => usesTranslation ctx va p.2.ctx (p.2.lanes.map Access.translated) &&
    (inScope p.2.core || p.2.carries.any fun i => ((Assoc.get? s.cmds i).map fun c => inScope c.core).getD false)).map (·.1)

/-- `tlbi` once its release has performed: it waits for the accesses of the cores in scope that use the translations, and
drops them (R271). -/
def State.invalidate (s : State) (u : Issuer) (f : F3) (ctx va : Option Nat) : State :=
  s.afterRelease u fun s =>
    let ids := s.translatedIds (fun c => f.x.getLsbD 2 || c == u.core) ctx va
    if !ids.isEmpty then s.stall u (.drain ids)
    else
      let drop := fun (l : List TlbEntry) => l.filter fun e => !e.named ctx va
      let s := if f.x.getLsbD 2 then
          { s with cores := s.cores.mapVals fun k => { k with tlb := drop k.tlb }, hubTlb := drop s.hubTlb }
        else s.modTlb u.core drop
      s.retire u f.sc

/-- Where a form of `tlbi` may be issued (R271). -/
def tlbiMay (u : Issuer) (f : F3) : Bool :=
  match u.kind with
  | .steward => u.sup
  | .simt => u.path.lvl && f.x == 0 && f.b == .none
  | .helper => false

/-- `tlbi.page` (R271): B = 0xFF names the issuer's context. -/
def execTlbiPage (f : F3) (s : State) : Host.Outcome State Fault Refusal :=
  issue s (.tlbiPage f)
    (fun u => { ctrlReq false (gUse f.a false :: (if f.b = .none then [] else [gUse f.b false])) with
                may := tlbiMay u f, defers := .all })
    fun u =>
      if f.b != .none && 1024 ≤ (s.read64 u f.b 0).toNat then s.raiseHere u 0x02
      else s.invalidate u f (some (if f.b = .none then u.ctx else (s.read64 u f.b 0).toNat)) (some (s.read64 u f.a 0).toNat)

/-- `tlbi.ctx` (R271). -/
def execTlbiCtx (f : F3) (s : State) : Host.Outcome State Fault Refusal :=
  issue s (.tlbiCtx f)
    (fun u => { ctrlReq false [gUse f.b false] with may := tlbiMay u f, defers := .all })
    fun u =>
      if 1024 ≤ (s.read64 u f.b 0).toNat then s.raiseHere u 0x02
      else s.invalidate u f (some (s.read64 u f.b 0).toNat) none

/-- `tlbi.all` (R271). -/
def execTlbiAll (f : F3) (s : State) : Host.Outcome State Fault Refusal :=
  issue s (.tlbiAll f) (fun u => { ctrlReq false [] with may := tlbiMay u f, defers := .all }) fun u => s.invalidate u f none none

/-- `ipf`: a hint, with an effect on timing only (R272). -/
def execIpf (f : F3) (s : State) : Host.Outcome State Fault Refusal :=
  issue s (.ipf f) (fun _ => ctrlReq false [gUse f.a false]) fun u => s.retire u f.sc

/-! ## Contexts (R276) -/

/-- A codec window record is within its limits for a window number; `none` for one that closes it (R217, R276). -/
def windowOf (bs : List Byte) (off win : Nat) : Except Unit (Option Window) :=
  let base := valueAt bs off 8
  let size := valueAt bs (off + 8) 8
  let cbase := valueAt bs (off + 16) 8
  let w3 := valueAt bs (off + 24) 8
  if bits w3 60 1 != 0 || bits w3 4 1 != 0 then .error ()
  else if size = 0 then .ok none
  else if bits w3 61 3 != win || base % 65536 != 0 || size % 65536 != 0 || 2 ^ 60 ≤ size || cbase % 64 != 0 || bits w3 0 4 = 0 || 8 < bits w3 0 4 then
    .error ()
  else .ok (some { base := base, size := size, cbase := cbase, cnt := bits w3 5 55 * 32, k := bits w3 0 4 })

/-- The state without the decoded copies that any L1 holds of a range of a context (R217). -/
def State.dropBlocks (s : State) (ctx base size : Nat) : State :=
  { s with cores := s.cores.mapVals fun k => { k with l1 := k.l1.filter fun l => match l.tag with
      | .block c b => !(c = ctx && base ≤ 64 * b && 64 * b < base + size)
      | _ => true } }

/-- What a walk over a range of VAs comes to (R330). -/
inductive Leaf where
  /-- A leaf: its lease slot, the physical address of the first VA of the range that it maps, and how many bytes of the range it does. -/
  | maps (slot pa len : Nat)
  /-- A borrowed line of a table that is not at hand. -/
  | waits (entry line : Nat)
deriving DecidableEq, Repr

/-- An entry of a table as the walk over a range finds it: nothing where it maps nothing, and what it comes to elsewhere. -/
def State.leafEntry (s : State) (ctx slot table level i : Nat) (k : Nat → List Leaf) : List Leaf :=
  match s.entryAt ctx slot (table + 8 * i) with
  | .ok e => if bits e 0 1 = 0 || malformed level e then [] else k e
  | .error m => m.waits.toList.map fun l => .waits l.1 l.2

/-- The part of a range of VAs that a leaf maps (R330). -/
def leafPart (lo hi base level i e : Nat) : List Leaf :=
  let span := 2 ^ (12 + 9 * level)
  let first := Nat.max lo (base + i * span)
  let last := Nat.min hi (base + i * span + span)
  if last ≤ first then [] else [.maps (bits e 52 12) (entryOa e + first % leafSize level e) (last - first)]

/-- The leaves that map VAs from `lo` up to `hi`, below a table at a level (R330). -/
def State.leavesIn (s : State) (ctx lo hi slot table base : Nat) : Nat → List Leaf
  | 0 => (List.range 512).flatMap fun i =>
      if hi ≤ base + i * 4096 || base + i * 4096 + 4096 ≤ lo then []
      else s.leafEntry ctx slot table 0 i fun e => leafPart lo hi base 0 i e
  | level + 1 => (List.range (if level + 1 = 4 then 4096 else 512)).flatMap fun i =>
      let span := 2 ^ (12 + 9 * (level + 1))
      let first := base + i * span
      if hi ≤ first || first + span ≤ lo then []
      else s.leafEntry ctx slot table (level + 1) i fun e =>
        if bits e 2 1 = 1 then leafPart lo hi base (level + 1) i e
        else s.leavesIn ctx lo hi (bits e 52 12) (entryOa e) first level

/-- The leaves of a range of a context, where an L1 of the package holds a line of memory. -/
def State.rangeLeaves (s : State) (ctx base size : Nat) : List Leaf :=
  let raw := fun (l : L1Line) => match l.tag with
    | .block _ _ => false
    | _ => true
  if s.cores.any fun k => k.2.l1.any raw then s.leavesIn ctx base (base + size) 0 (s.context ctx).root.toNat 0 4 else []

/-- The borrowed line of a page table that the discard of a range's L1 copies waits for (R217, R330). -/
def State.rangeWaits (s : State) (ctx base size : Nat) : Option (Nat × Nat) :=
  (s.rangeLeaves ctx base size).findSome? fun l => match l with
    | .waits e n => some (e, n)
    | .maps _ _ _ => none

/-- The state without the L1 copies of lines that the VAs of a range map to (R217; log 52). -/
def State.dropRaw (s : State) (ctx base size : Nat) : State :=
  let ps := (s.rangeLeaves ctx base size).filterMap fun l => match l with
    | .maps slot pa len => some (slot, pa, len)
    | .waits _ _ => none
  let hit := fun (l : L1Line) => match l.tag with
    | .phys n => ps.any fun p => p.2.1 < 64 * n + 64 && 64 * n < p.2.1 + p.2.2
    | .lent e n => ps.any fun p => paClass p.2.1 = .borrowed && e = entryOf ctx p.1 &&
        p.2.1 < 0x8000000000000 + 64 * n + 64 && 0x8000000000000 + 64 * n < p.2.1 + p.2.2
    | .block _ _ => false
  if ps.isEmpty then s else { s with cores := s.cores.mapVals fun k => { k with l1 := k.l1.filter fun l => !hit l } }

/-- The state without the L1 copies of a range of a context, decoded or raw (R217). -/
def State.dropRange (s : State) (ctx base size : Nat) : State := (s.dropBlocks ctx base size).dropRaw ctx base size

/-- Two windows share an address (R217). -/
def Window.overlaps (a b : Window) : Bool := a.base < b.base + b.size && b.base < a.base + a.size

/-- A range register of an image is within its limits (R311). -/
def rangeOk (r : BitVec 128) : Bool :=
  let size := bits r.toNat 64 64
  bits r.toNat 60 4 == 0 && bits r.toNat 2 10 == 0 && bits r.toNat 0 2 != 3 && size % 4096 == 0 && size < 2 ^ 60 &&
  bits r.toNat 12 48 * 4096 + size ≤ 2 ^ 60

/-- The windows of an image; none where a record is out of range or two overlap (R217, R276). -/
def imageWindows (bs : List Byte) : Option (Assoc Window) :=
  (List.range 8).foldl (fun acc w => match acc, windowOf bs (0x80 + 32 * w) w with
    | some m, .ok none => some m
    | some m, .ok (some x) => if m.any fun y => y.2.overlaps x then none else some (m.set w x)
    | _, _ => none) (some [])

/-- The context an image gives; none where a reserved byte is set or a field is out of range (R276, R330, R394); the low
bits of the handler's PC are free (log 109). -/
def Context.ofImage (k : Context) (bs : List Byte) : Option Context :=
  let root := valueAt bs 0 8
  let entry := valueAt bs 8 8
  let tarea := valueAt bs 16 8
  let cmode := valueAt bs 24 8
  let ranges := (List.range 16).map fun i => BitVec.ofNat 128 (valueAt bs (0x180 + 16 * i) 16)
  let rootOk := root % 32768 == 0 && (paClass root == .hbm || paClass root == .pool)
  if !rootOk || 2 ^ 60 ≤ entry || tarea % 65536 != 0 || 2 ^ 60 ≤ tarea || bits cmode 14 50 != 0 || bits cmode 3 1 != 0 ||
      ((bs.drop 0x28).take 0x58).any (· != 0) || !(ranges.all rangeOk) then none
  else
    match imageWindows bs with
    | none => none
    | some ws => some { k with
        installed := true, loads := k.loads + 1, root := BitVec.ofNat 64 root, handler := BitVec.ofNat 64 entry, tarea := BitVec.ofNat 64 tarea,
        cmode := BitVec.ofNat 64 cmode, watchdog := BitVec.ofNat 64 (valueAt bs 32 8), ranges := ranges, windows := ws }

/-- The 32-byte record of window w of a context (R217, R276). -/
def Context.windowImage (k : Context) (w : Nat) : List Byte :=
  match Assoc.get? k.windows w with
  | none => List.replicate 24 0 ++ toBytes 8 (w * 2 ^ 61)
  | some x => toBytes 8 x.base ++ toBytes 8 x.size ++ toBytes 8 x.cbase ++ toBytes 8 (w * 2 ^ 61 + x.cnt / 32 * 32 + x.k)

/-- The 640-byte image of a context (R276). -/
def Context.image (k : Context) : List Byte :=
  toBytes 8 k.root.toNat ++ toBytes 8 k.handler.toNat ++ toBytes 8 k.tarea.toNat ++ toBytes 8 k.cmode.toNat
    ++ toBytes 8 k.watchdog.toNat ++ List.replicate 0x58 0 ++ (List.range 8).flatMap k.windowImage
    ++ (List.range 16).flatMap fun i => toBytes 16 (k.ranges.getD i 0).toNat

/-- What keeps the current instruction's access from its place: a fault is raised, and a line that a check waits for is asked for
(R191, R330). -/
def State.raiseOrWait (s : State) (u : Issuer) (f : FaultInfo) : State :=
  match f.waits with
  | some l => (s.fetchMiss { waits := some l }).stall u (.line l.1 l.2)
  | none => s.raise u f

/-- A steward's access that fails a check: the fault, or the line it waits for is asked for (R191, R276, R353). -/
def State.stewardMiss (s : State) (u : Issuer) (m : Miss) (va : Nat) : State :=
  s.raiseOrWait u { u.faultAt m.cause va m.lease with deferred := m.cause = 0x09, waits := m.waits }

/-- A steward's accesses to some places as one operation: those of `ctxload` and `ctxsave` (R276). -/
def stewardOp (u : Issuer) (kind : OpKind) (as : List Access) : Op :=
  { kind := kind, agent := u.agent, uid := u.uid, owner := u.uid, who := (u.uid, 0), core := u.core, mask := u.path.exec, ctx := u.ctx
    view := u.path.view, size := 64, order := .rlx, scope := .thr, uni := true, lanes := as, todo := as, pc := u.path.wordAddr }

/-- The operations in flight that one waits for (R300; log 9). -/
def State.olderThan (s : State) (o : Op) : List Nat := (s.ops.filter fun p => s.heldBy o p.1 p.2).map (·.1)

/-- Bytes that a steward reads at a VA, for an instruction that goes on with them, after the steward's own older accesses there (R191,
R276, R300, R350). -/
def State.stewardRead (s : State) (u : Issuer) (va len : Nat) (k : List Byte → State) : State :=
  if 2 ^ 60 ≤ va then s.raise u (u.faultAt 0x04 va)
  else match s.placesOf u.core u.ctx u.path.view.root va len .read with
  | .error (m, a) => s.stewardMiss u m a
  | .ok as =>
    let older := s.olderThan (stewardOp u .load as)
    if !older.isEmpty then s.stall u (.drain older)
    else match s.readRange u.core u.ctx u.path.view.root va len .read with
    | .error (m, a) => s.stewardMiss u m a
    | .ok bs => k bs

/-- A place at a home of the package that is a steward's to write now (R361). -/
def State.turnOf (s : State) (id : Nat) (a : Access) : Bool :=
  match a.tgt with
  | .phys pa => s.localTurn id (pa / 64)
  | _ => false

/-- Bytes that a steward writes at a VA: at once where every place is its to write and none of its own accesses there is older, else as an
operation in flight, each part of which performs in its turn and which the steward is stalled for (R191, R276, R300, R358 to R363). -/
def State.stewardWrite (s : State) (u : Issuer) (va : Nat) (bs : List Byte) (k : State → State) : State :=
  if u.path.woken.isSome then k s
  else if 2 ^ 60 ≤ va then s.raise u (u.faultAt 0x04 va)
  else match s.placesOf u.core u.ctx u.path.view.root va bs.length .write with
  | .error (m, a) => s.stewardMiss u m a
  | .ok as =>
    let o := stewardOp u .store (as.map fun a => { a with x := ofBytes ((bs.drop (a.va - va)).take a.len) })
    if (s.olderThan o).isEmpty && !s.recorded u.ctx && !s.replayed u.ctx && as.all fun a => s.turnOf u.uid a then
      k (o.todo.foldl (fun s a => ((s.storeAt u.uid u.core a.tgt (toBytes a.len a.x)).map (·.1)).getD s) s)
    else if 1023 ≤ (s.rings u.agent).count .st then s.stall u (.counter .st 1022)
    else
      let (id, s) := s.freshId
      let s := { s with ops := Assoc.set s.ops id { o with seq := s.seqOf u.agent, born := s.cyc u.core } }
      let s := (s.enterRing u.agent .st id).modPath u.agent fun p => { p with woken := some false }
      s.stall u (.drain [id])

/-- Checks of a context operation (R276). -/
def ctxReq (u : Issuer) (uses : List Use) (b : Opnd) : Req :=
  { ctrlReq false (uses ++ [gUse b false]) with may := u.kind == .steward && u.sup }

/-- The context a register names; the illegal-operand trap where there is none (R276). -/
def State.withCtx (s : State) (u : Issuer) (b : Opnd) (k : Nat → State) : State :=
  if 1024 ≤ (s.read64 u b 0).toNat then s.raiseHere u 0x02 else k (s.read64 u b 0).toNat

/-- A context has a group in a slot of a core. -/
def State.hasResident (s : State) (ctx : Nat) : Bool := !(s.groupsOf fun g => g.ctx = ctx).isEmpty

/-- A context has a queued record or a saved group. -/
def State.hasWaiting (s : State) (ctx : Nat) : Bool :=
  s.engine.saved.any (fun v => v.2.group.ctx == ctx) ||
  s.engine.queues.any fun q => q.2.any fun l => ((Assoc.get? s.engine.running l.id).map (·.ctx)) == some ctx

/-- `ctxload` (R276). -/
def execCtxload (f : F3) (s : State) : Host.Outcome State Fault Refusal :=
  issue s (.ctxload f) (fun u => ctxReq u [gUse f.a false] f.b) fun u => s.withCtx u f.b fun ctx =>
    let va := (s.read64 u f.a 0).toNat
    if va % 64 != 0 then s.raise u { cause := 0x06, faddr := BitVec.ofNat 64 va, pc := u.path.wordAddr }
    else if s.hasResident ctx || (s.hasWaiting ctx && !(s.context ctx).held) then s.raiseProtection u
    else s.stewardRead u va 640 fun bs => match (s.context ctx).ofImage bs with
      | none => s.raiseHere u 0x02
      | some k => ((s.modContext ctx fun _ => k).dropBlocks ctx 0 (2 ^ 60)).retire u f.sc

/-- `ctxsave` (R276). -/
def execCtxsave (f : F3) (s : State) : Host.Outcome State Fault Refusal :=
  issue s (.ctxsave f) (fun u => ctxReq u [gUse f.a false] f.b) fun u => s.withCtx u f.b fun ctx =>
    let va := (s.read64 u f.a 0).toNat
    if va % 64 != 0 then s.raise u { cause := 0x06, faddr := BitVec.ofNat 64 va, pc := u.path.wordAddr }
    else s.stewardWrite u va (s.context ctx).image fun s => s.retire u f.sc

/-- `ctxkill`: every launch of the context ends; when all have drained, its objects and windows go and it is free
(R276). -/
def execCtxkill (f : F3) (s : State) : Host.Outcome State Fault Refusal :=
  issue s (.ctxkill f) (fun u => ctxReq u [] f.b) fun u => s.withCtx u f.b fun ctx =>
    let s := s.endLaunches ctx 0xFF
    if s.engine.running.any fun r => r.2.ctx = ctx then s.stall u (.context ctx)
    else ({ s with
        objects := s.objects.filter fun o => o.ctx != ctx
        contexts := Assoc.erase s.contexts ctx }.dropBlocks ctx 0 (2 ^ 60)).retire u f.sc

/-- `ctxmode`: CMODE of a context, taken over at clause boundaries (R47, R276). -/
def execCtxmode (f : F3) (s : State) : Host.Outcome State Fault Refusal :=
  issue s (.ctxmode f) (fun u => ctxReq u [gUse f.a false] f.b) fun u => s.withCtx u f.b fun ctx =>
    (s.modContext ctx fun k => { k with cmode := s.read64 u f.a 0 &&& 0x3FF7 }).retire u f.sc

end Sys2Proof.Machine
end

