-- ==== Sys2Proof/Machine/Access.lean ====
section
/-! DEFINITION. The checks of a memory access at issue: addresses, alignment, translation, permission, codec windows,
leases and data, the regions of the local store, and the making of an operation (R30 to R35, R41, R64, R190 to R195, R309,
R331, R332, R344, R353, R390, R395, R454). -/
namespace Sys2Proof

/-- The bytes of a size (R63). -/
def Size.bytes : Size → Nat
  | .b8 => 1 | .b16 => 2 | .b32 => 4 | .b64 => 8 | .b128 => 16

namespace Machine

/-! ## Global addresses (R64, R309, R330, R331, R353, R395, R415) -/

/-- The issuer's accesses are at user level (R44, R181, R273). -/
def Issuer.user (u : Issuer) : Bool :=
  match u.kind with
  | .simt => !u.path.lvl
  | .helper => true
  | .steward => !u.sup

/-- The place of a byte's VA for an issuer: its translation, the permission of its leaf, and the trap area, which user level
does not reach (R330, R395). -/
def State.place (s : State) (u : Issuer) (va : Nat) (need : Need) : Except Miss Xlate :=
  match s.translate u.core u.ctx u.path.view.root va need with
  | .error m => .error m
  | .ok x =>
    if u.user && s.inTrapArea u.ctx va then .error { cause := 0x05 }
    else .ok x

/-- The pieces of a range at its physical addresses, page by page; else why not, and the lowest failing byte (R321, R331). -/
def State.pieces (s : State) (u : Issuer) (va len : Nat) (need : Need) : Except (Miss × Nat) (List (Nat × Nat)) :=
  (partsOf 4096 va len).foldl (fun acc p => match acc with
    | .error e => .error e
    | .ok l => match s.place u p.1 need with
      | .error m => .error (m, p.1)
      | .ok x => if paClass x.pa != .hbm then .error ({ cause := 0x08 }, p.1) else .ok (l ++ [(x.pa, p.2)])) (.ok [])

/-- A coherence object covers an address (R216). -/
def CohObj.covers (o : CohObj) (ctx va : Nat) : Bool :=
  o.ctx = ctx && o.base ≤ va && (va - o.base) / o.stride < o.rows && (va - o.base) % o.stride < o.rowb

/-- A range register covers an address: its MODE, 0 where it does not (R311). -/
def rangeMode (r : BitVec 128) (va : Nat) : Nat :=
  let base := bits r.toNat 12 48 * 4096
  if base ≤ va && va < base + bits r.toNat 64 64 then bits r.toNat 0 2 else 0

/-- How L1 copies of an address that lies in no codec window are kept (R309, R312, R322, R432). -/
def State.cacheMode (s : State) (u : Issuer) (va : Nat) (lent : Bool) : CacheMode :=
  if s.recorded u.ctx || s.replayed u.ctx then .uncached
  else match (u.path.view.ranges.map fun r => rangeMode r va).find? (· != 0) with
  | some 2 => .uncached
  | some _ => if lent then .undeclared else .untracked
  | none =>
    if lent then .undeclared
    else match s.objects.find? fun o => o.covers u.ctx va with
      | some o => .object o.scope
      | none => .undeclared

/-- What an instruction asks of each of its accesses. -/
structure Ask where
  need     : Need
  len      : Nat
  align    : Nat
  /-- A codec window accepts it (R204, R332). -/
  inWindow : Bool := true
  /-- Its data are checked for non-finite values at issue (R344). -/
  finite   : Bool := false
deriving DecidableEq, Repr

/-- The lowest element of some data, in 8-byte elements, that is not finite (R344). -/
def nonFiniteIn (x len : Nat) : Option Nat := (List.range (len / 8)).find? fun i => !isFinite64 (bits x (64 * i) 64)

/-- The checks of one access in the order of R390, and where it goes. -/
def State.target (s : State) (u : Issuer) (ask : Ask) (va x : Nat) : Except FaultInfo (Target × CacheMode) :=
  if 2 ^ 60 ≤ va then .error (u.faultOn 0x04 va)
  else if va % ask.align != 0 then .error (u.faultOn 0x06 va)
  else match windowAt u.path.view.windows va with
  | some w =>
    if u.user && s.inTrapArea u.ctx va then .error (u.faultOn 0x05 va)
    else match s.pieces u (w.cva va) (8 * w.k) (if ask.need = .read then .read else .write) with
    | .error (m, a) => .error (u.faultMiss (if m.cause = 0x20 then { m with cause := 0x24 } else m) a)
    | .ok ps =>
      if !ask.inWindow then .error (u.faultOn 0x08 va)
      else match if ask.finite && !u.fmt.getLsbD 12 then nonFiniteIn x ask.len else none with
        | some i => .error (u.faultOn 0x08 (va + 8 * i))
        | none => .ok (.block w (va / 64 * 64) ps, .undeclared)
  | none =>
    match s.place u va ask.need with
    | .error m => .error (u.faultMiss m va)
    | .ok x =>
      if paClass x.pa != .borrowed then .ok (.phys x.pa, s.cacheMode u va false)
      else
        let e := entryOf u.ctx x.slot
        let off := x.pa - 0x8000000000000
        match if s.supplies u e (off / 64) then none else s.leaseCause u.ctx e off ask.len (ask.need != .read) with
        | some c => .error (u.faultOn c va (s.borrowed e).lid)
        | none => .ok (.lent e off, s.cacheMode u va true)

/-- The state with the translations that an access used cached (R330). -/
def State.cacheTarget (s : State) (u : Issuer) (a : Access) (need : Need) : State :=
  match a.tgt with
  | .block w va _ => s.cacheRange u.core u.ctx u.path.view.root (w.cva va) (8 * w.k) .read
  | .scratch _ _ _ => s
  | _ => match s.translate u.core u.ctx u.path.view.root a.va need with
    | .ok x => s.cacheXlate u.core u.ctx u.path.view.root a.va x
    | .error _ => s

/-- The global address of an FM access for a lane (R64). -/
def State.globalAddr (s : State) (u : Issuer) (f : FM) (index : Bool) (lane : Nat) : Nat :=
  let b : DWord := if index then (match f.b with
    | .v n => (s.readV u n.val lane).signExtend 64
    | .g n => s.readG u n.val) else 0
  (s.read64 u f.a lane + b + f.off.signExtend 64).toNat

/-- The local-store address of an FM access for a lane (R64). -/
def State.localAddr (s : State) (u : Issuer) (f : FM) (index : Bool) (lane : Nat) : Nat :=
  (s.read32 u f.a lane + (if index then s.read32 u f.b lane else 0) + f.off.signExtend 32).toNat

/-! ## The local store (R30 to R35, R164, R196, R206) -/

/-- A place of the local store. -/
inductive LocalPlace where
  /-- A byte of the group's scratchpad allocation. -/
  | scratch (alloc off : Nat)
  /-- A byte of a register of a thread in a slot's frame. -/
  | frame (slot reg thread lo : Nat)
  /-- A byte of a slot's frame tail. -/
  | tail (slot off : Nat)
deriving DecidableEq, Repr

/-- The regions of the local store, the alignment and the rights of an access, in the order of R390; the cause and fault
address where it fails (R30, R33, R196, R200). An access that leaves its region reports its own address (log 85). -/
def State.localPlace (s : State) (u : Issuer) (va len : Nat) (need : Need) : Except (Byte × Nat) LocalPlace :=
  let slot := (va - 0x100000) / 0x20000
  let off := (va - 0x100000) % 0x20000
  let aligned := fun (p : LocalPlace) => if va % len != 0 then Except.error ((0x06 : Byte), va) else .ok p
  if va + len ≤ 0x80000 then
    match (s.group? u.core u.slot).bind fun g => (s.alloc? u.core g.alloc).map fun a => (g.alloc, a) with
    | none => .error (0x07, va)
    | some (id, a) =>
      if a.size < va + len then .error (0x07, Nat.max va a.size)
      else if need != .read && va < 16 * a.bars then .error (0x05, va)
      else aligned (.scratch id va)
  else if va < 0x100000 || 0x300000 < va + len then .error (0x04, va)
  else if off + len ≤ 0x18000 || (0x1F000 ≤ off && off + len ≤ 0x20000) then
    let tail : Bool := 0x1F000 ≤ off
    match s.group? u.core slot with
    | none => .error (0x05, va)
    | some g =>
      if (if u.path.lvl then g.ctx != u.ctx else g.launch != u.launch) then .error (0x05, va)
      else if need = .modify || (tail && (!u.path.lvl || need != .read)) then .error (0x05, va)
      else if tail then aligned (.tail slot (off - 0x1F000))
      else if 512 * g.w < off + len then .error (0x07, Nat.max va (0x100000 + 0x20000 * slot + 512 * g.w))
      else aligned (.frame slot (off / 512) (off % 512 / 4) (off % 4))
  else .error (0x04, va)

/-- The bytes of a frame tail (Table 1 of the control-flow chapter): entry by entry, with free values in a free entry
(log 10). -/
def Group.tailBytes (g : Group) (free : Nat) : List Byte :=
  (List.range 128).flatMap fun i =>
    let held := g.paths.findSome? fun p => ((p.2.recon.zip (List.range p.2.recon.length)).find? fun e => e.1.tail = some i).map fun e =>
      (p.1, p.2.recon.length - 1 - e.2, e.1)
    match held with
    | some (idx, depth, e) => toBytes 8 e.pc.toNat ++ toBytes 1 idx ++ toBytes 1 depth ++ List.replicate 6 0 ++ toBytes 16 e.mask.toNat
    | none => (List.range 32).map fun k => if k = 8 then 0xFF else Config.tailByte free (32 * i + k)

/-- The register of a frame belongs to a thread of the issuing path (R35). -/
def Issuer.ownWord (u : Issuer) (slot thread : Nat) : Bool := u.kind = .simt && slot = u.slot && u.path.members.getLsbD thread

/-- The value that a local-store load finds in a register: at the issuing path's own position, else as of the last clause
boundary of the register's path (R34, R35). -/
def State.frameWord (s : State) (u : Issuer) (slot reg thread : Nat) : Word :=
  if u.ownWord slot thread then s.readV u reg thread
  else match s.group? u.core slot with
  | some g => Assoc.getD g.v (128 * reg + thread) 0
  | none => 0

/-- The bytes that a local-store load finds in a frame. -/
def State.frameBytes (s : State) (u : Issuer) (slot reg thread lo len : Nat) : List Byte :=
  (((List.range ((lo + len + 3) / 4)).flatMap fun k => toBytes 4 (s.frameWord u slot reg (thread + k)).toNat).drop lo).take len

/-- The operations in flight whose destination is a register of the issuing path that a frame access touches (R35, R70). -/
def State.frameWaits (s : State) (u : Issuer) (slot reg thread lo len : Nat) : List Nat :=
  (s.ops.filter fun p => p.2.uid == u.uid && (match p.2.dst with
    | some (.v n) => n ≤ reg && reg < n + (p.2.size + 3) / 4
    | _ => false) && (List.range ((lo + len + 3) / 4)).any fun k =>
      u.ownWord slot (thread + k) && p.2.lanes.any fun a => a.lane = thread + k).map (·.1)

/-- The latest value in program order of a register of a path's thread, visible or not, into which a narrow `st.l` is merged (R35, R68;
log 87). -/
def State.latestV (s : State) (u : Issuer) (reg thread : Nat) : Word :=
  match ((s.path? u.agent).getD u.path).pend.foldl (fun acc w =>
      if w.reg = .v reg then (match w.vals.lookup thread with
        | some x => some x
        | none => acc) else acc) none with
  | some x => x.setWidth 32
  | none => s.baseV u reg thread

/-- The thread's path is inside a clause, so that a store into its registers is held (R34, R51). -/
def Group.holdsStores (g : Group) (thread : Nat) : Bool :=
  g.paths.any fun p => p.2.members.getLsbD thread && !p.2.clause.words.isEmpty &&
    !(g.stopping && (match p.2.phase with
      | .stalled _ => true
      | .resumable => true
      | _ => false))

/-- The state with bytes stored into one register of a frame (R34, R35). -/
def State.frameStoreWord (s : State) (u : Issuer) (slot reg thread lo : Nat) (bs : List Byte) : State :=
  if u.ownWord slot thread then
    s.pushWrites u [(.v reg, [(thread, (patchWord (s.latestV u reg thread) lo bs).setWidth 64)])] 2
  else s.modGroup u.core slot fun g =>
    if g.holdsStores thread then { g with heldStores := g.heldStores ++ [{ thread := thread, reg := reg, lo := lo, bytes := bs }] }
    else
      let key := 128 * reg + thread
      { g with v := Assoc.put 0 g.v key (patchWord (Assoc.getD g.v key 0) lo bs) }

/-- The state with bytes stored into a frame from a register upward. -/
def State.frameStore (s : State) (u : Issuer) (slot reg thread lo : Nat) (bs : List Byte) : State :=
  (List.range ((lo + bs.length + 3) / 4)).foldl (fun s k =>
    s.frameStoreWord u slot reg (thread + k) (if k = 0 then lo else 0) ((bs.drop (4 * k)).take 4)) s

/-! ## Making operations (R40, R41, R191, R192, R326, R454) -/

/-- The state with an operation in flight, entered on its counter (R40, R192). -/
def State.startOp (s : State) (u : Issuer) (f : FM) (kind : OpKind) (dst : Option Reg) (lanes todo : List Access)
    (vals : List (Nat × Nat)) : State :=
  let (id, s) := s.freshId
  let o : Op :=
    { kind := kind, agent := u.agent, uid := u.uid, owner := s.ownerOf u, who := s.whoOf u, core := u.core, mask := u.path.exec, ctx := u.ctx
      view := u.path.view, size := f.sz.bytes, order := f.ord, scope := f.scp, uni := f.u, dst := dst, lanes := lanes, todo := todo
      vals := vals, pc := u.path.wordAddr, nfp := u.fmt.getLsbD 12, seq := s.seqOf u.agent, born := s.cyc u.core }
  ({ s with ops := Assoc.set s.ops id o }.enterRing u.agent kind.ctr id).bumpSeq u.agent

/-- An instruction's own read of some lines is in turn under replay: its agent is logged with the first thread of exec (R433). -/
def State.readsInTurn (s : State) (u : Issuer) (lines : List (LogKind × Nat)) : Bool :=
  s.linesInTurn u.ctx (s.whoOf u) (u.lanes.headD 0) lines

/-- The state with an instruction's own read of some lines logged; under replay a call that waits for its turn may follow (R432, R433). -/
def State.logRead (s : State) (u : Issuer) (lines : List (LogKind × Nat)) (value : Nat := 0) : State :=
  if s.recorded u.ctx || s.replayed u.ctx then (s.logLines u.ctx (s.whoOf u) (u.lanes.headD 0) lines value).postCalls else s

/-- An instruction's own read of some lines, once it is in turn under replay (R432, R433). -/
def State.readInTurn (s : State) (u : Issuer) (lines : List (LogKind × Nat)) (k : State → State) : State :=
  if s.readsInTurn u lines then k (s.logRead u lines) else s.stall u (.turn lines)

/-- The path stalls while a counter stands at 1,023 (R41); else it goes on. -/
def State.withRoom (s : State) (u : Issuer) (c : Ctr) (k : State) : State :=
  if 1023 ≤ (s.rings u.agent).count c then s.stall u (.counter c 1022) else k

/-- A release waits first (R194, R199). -/
def State.releaseFirst (s : State) (u : Issuer) (o : Order) (k : State → State) : State :=
  if o.releases then s.afterRelease u k else k s

/-- The checks of an instruction's accesses, one for each lane or one for a uniform instruction: the failing lanes fault and
the others go on with their accesses (R191, R391, R454). A walk that reads a borrowed line not at hand is waited for (R330). -/
def State.checkLanes {α : Type} (s : State) (u : Issuer) (uni : Bool) (check : Nat → Except FaultInfo α)
    (k : State → Issuer → List α → State) : State :=
  let rs := (u.over uni).map fun l => (l, check l)
  let bad := rs.filterMap fun r => match r.2 with
    | .error e => some (r.1, e)
    | .ok _ => none
  match bad.findSome? fun b => b.2.waits with
  | some l => (s.fetchMiss { waits := some l }).stall u (.line l.1 l.2)
  | none =>
  let faults := if uni then (match bad.head? with
    | some b => u.lanes.map fun l => (l, b.2)
    | none => []) else bad
  s.withFaults u faults fun s u => k s u (rs.filterMap fun r => match r.2 with
    | .ok a => some a
    | .error _ => none)

end Machine
end Sys2Proof
end

