-- ==== Sys2Proof/Machine/Mem.lean ====
section
/-! DEFINITION. Loads, stores, prefetch, extent transfers, fences, waits, and the cache-control instructions (R189 to R199,
R205, R210, R215 to R218). -/
namespace Sys2Proof.Machine

/-- Checks of a memory instruction (R55). -/
def memReq (uni : Bool) (uses : List Use) : Req := { cls := Cls.mem, uni := uni, uses := uses }

/-- The operand position of data or a destination of a size (R63). -/
def dataRole (z : Size) : Role := if z.bytes ≤ 4 then .w32 else if z.bytes = 8 then .w64 else .w128

/-- An operand is a v register. -/
def Opnd.isV : Opnd → Bool
  | .v _ => true
  | .g _ => false

/-- The register a destination operand names. -/
def Opnd.reg : Opnd → Reg
  | .v n => .v n.val
  | .g n => .g n.val

/-- The operand positions of a global address (R64). -/
def globalUses (f : FM) : List Use := [{ o := f.a, role := .w64 }, { o := f.b, role := .w32 }]
/-- The operand positions of a local-store address (R64). -/
def localUses (f : FM) : List Use := [{ o := f.a, role := .w32 }, { o := f.b, role := .w32 }]

/-! ## Global loads and stores (R195, R196) -/

/-- What a global load or store asks of an access (R190, R330, R332, R344). -/
def askOf (f : FM) (store : Bool) : Ask :=
  { need := if store then .write else .read, len := f.sz.bytes, align := f.sz.bytes
    inWindow := !store || 8 ≤ f.sz.bytes, finite := store }

/-- A counted global instruction issues: room on its counter, its release, its checks, its operation (R191, R192). -/
def State.globalOp (s : State) (u : Issuer) (f : FM) (kind : OpKind) (ask : Ask) (index : Bool) (dst : Option Reg) (commits : Bool)
    (data : Nat → Nat × Nat) : State :=
  s.withRoom u kind.ctr (s.releaseFirst u f.ord fun s =>
    s.checkLanes u f.u (fun l =>
        let va := s.globalAddr u f index l
        match s.target u ask va (data l).1 with
        | .error e => .error e
        | .ok (t, m) => .ok ({ lane := l, va := va, len := ask.len, tgt := t, mode := m, x := (data l).1, y := (data l).2 } : Access))
      fun s u as =>
        let s := as.foldl (fun s a => s.cacheTarget u a ask.need) s
        ((if commits then s.commitRegion u else s).startOp u f kind dst as as []).retire u f.sc)

/-- `ld.g` (R196). -/
def execLdG (f : FM) (s : State) : Host.Outcome State Fault Refusal :=
  issue s (.ldG f)
    (fun _ => { memReq f.u (globalUses f ++ [{ o := f.d, role := dataRole f.sz, write := true }]) with valid := f.u || Opnd.isV f.d })
    fun u => s.globalOp u f .load (askOf f false) true (some (Opnd.reg f.d)) false fun _ => (0, 0)

/-- `st.g` (R196). -/
def execStG (f : FM) (s : State) : Host.Outcome State Fault Refusal :=
  issue s (.stG f) (fun _ => { memReq f.u (globalUses f ++ [{ o := f.d, role := dataRole f.sz }]) with defers := orderDefers f.ord })
    fun u => s.globalOp u f .store (askOf f true) true none false fun l => (s.readBytes u f.d l f.sz.bytes, 0)

/-! ## Local loads and stores (R30 to R35, R196) -/

/-- The access of a lane to the scratchpad, or to a frame, which names allocation 0. -/
def localAccess (core lane va len : Nat) (p : LocalPlace) (x y : Nat) : Access :=
  { lane := lane, va := va, len := len, x := x, y := y
    tgt := match p with
      | .scratch id off => .scratch core id off
      | _ => .scratch core 0 va }

/-- A place is in the scratchpad. -/
def LocalPlace.isScratch : LocalPlace → Bool
  | .scratch _ _ => true
  | _ => false

/-- The registers of the issuing path that an access to a frame touches. -/
def LocalPlace.ownRegs (u : Issuer) (len : Nat) : LocalPlace → List Reg
  | .frame slot reg thread lo =>
    if (List.range ((lo + len + 3) / 4)).any fun k => u.ownWord slot (thread + k) then [.v reg] else []
  | _ => []

/-- A counted local-store instruction issues. Accesses to frames wait for interlocked registers and raise poisoned lanes as
register operands do, and perform at issue (R35, log 23); those to the scratchpad become an operation. -/
def State.localOp (s : State) (u : Issuer) (f : FM) (kind : OpKind) (need : Need) (index : Bool) (dst : Option Reg) (commits : Bool)
    (data : Nat → Nat × Nat) : State :=
  s.withRoom u kind.ctr (s.releaseFirst u f.ord fun s =>
    let len := f.sz.bytes
    s.checkLanes u f.u (fun l =>
        let va := s.localAddr u f index l
        match s.localPlace u va len need with
        | .error e => .error (u.faultAt e.1 e.2)
        | .ok p => .ok (p, localAccess u.core l va len p (data l).1 (data l).2))
      fun s u ps =>
        let waits := ps.flatMap fun p => match p.1 with
          | .frame slot reg thread lo => s.frameWaits u slot reg thread lo len
          | _ => []
        let poison := u.poisoned (some (ps.flatMap fun p => p.1.ownRegs u len))
        if !waits.isEmpty then s.stall u (.drain waits)
        else if !poison.isEmpty then s.raisePoison u poison
        else
          let tails := ps.any fun p => match p.1 with
            | .tail _ _ => true
            | _ => false
          let vals := if need != .read then [] else ps.filterMap fun p => match p.1 with
            | .frame slot reg thread lo => some (p.2.lane, ofBytes (s.frameBytes u slot reg thread lo len))
            | .tail slot off => some (p.2.lane, ofBytes (((((s.group? u.core slot).map fun g => g.tailBytes s.free).getD []).drop off).take len))
            | .scratch _ _ => none
          let s := if need = .read then s else ps.foldl (fun s p => match p.1 with
            | .frame slot reg thread lo => s.frameStore u slot reg thread lo (toBytes len p.2.x)
            | _ => s) s
          let s := if tails then { s with free := s.free + 1 } else s
          let as := ps.map (·.2)
          ((if commits then s.commitRegion u else s).startOp u f kind dst as ((ps.filter fun p => p.1.isScratch).map (·.2)) vals).retire u f.sc)

/-- `ld.l` (R196). -/
def execLdL (f : FM) (s : State) : Host.Outcome State Fault Refusal :=
  issue s (.ldL f)
    (fun u => { memReq f.u (localUses f ++ [{ o := f.d, role := dataRole f.sz, write := true }]) with
                may := u.kind != .steward, valid := f.u || Opnd.isV f.d })
    fun u => s.localOp u f .load .read true (some (Opnd.reg f.d)) false fun _ => (0, 0)

/-- `st.l` (R196). -/
def execStL (f : FM) (s : State) : Host.Outcome State Fault Refusal :=
  issue s (.stL f)
    (fun u => { memReq f.u (localUses f ++ [{ o := f.d, role := dataRole f.sz }]) with
                may := u.kind != .steward, defers := orderDefers f.ord })
    fun u => s.localOp u f .store .write true none false fun l => (s.readBytes u f.d l f.sz.bytes, 0)

/-! ## Prefetch (R197) -/

/-- `pf`: the lines of the lanes that pass their checks go towards a level (R197). It asks no lender that no route leads to, since it
changes nothing that programs see (log 35). -/
def execPf (f : FM) (s : State) : Host.Outcome State Fault Refusal :=
  issue s (.pf f) (fun _ => memReq f.u (globalUses f)) fun u =>
    let one := fun (s : State) (l : Nat) =>
      let va := s.globalAddr u f true l
      match s.target u { need := .read, len := 1, align := 1 } va 0 with
      | .error _ => s
      | .ok (t, m) =>
        let s := s.cacheTarget u { lane := l, va := va, len := 1, tgt := t, mode := m } .read
        if f.sz = .b8 then
          match t with
          | .phys pa => (s.physLoad u.core m pa 1).1
          | .block w v ps => (s.blockLoad u.core u.ctx w v ps).1
          | .lent e off => ((s.lentLoad u.core m e off 1).map (·.1)).getD s
          | .scratch _ _ _ => s
        else if f.sz = .b32 then
          match t with
          | .lent e off => if s.lenderNear e then s.wantRead e (off / 64) else s
          | _ => s
        else s
    ((u.over f.u).foldl one s).retire u f.sc

/-! ## Extent transfers (R198) -/

/-- The parts of an extent: from each address that begins it or a line, up to the next line or the end. -/
def extentParts (va len : Nat) : List (Nat × Nat) :=
  (List.range ((va % 64 + len + 63) / 64)).map fun k =>
    let a := Nat.max va ((va / 64 + k) * 64)
    (a, Nat.min (va + len) (a / 64 * 64 + 64) - a)

/-- The step of R390 that a check which fails at a VA belongs to; the flag says that the VA lies in a codec window. -/
def checkStep (window : Bool) (f : FaultInfo) : Nat :=
  if 2 ^ 60 ≤ f.faddr.toNat then 1
  else if window then 5
  else if f.cause = 0x05 then 4
  else if 0x21 ≤ f.cause.toNat then 6
  else 3

/-- The accesses of an extent, or the fault of the first check that fails, at its lowest failing byte (R198, R390). -/
def State.extentAccesses (s : State) (u : Issuer) (need : Need) (va off len : Nat) : Except FaultInfo (List Access) :=
  let parts := (extentParts va len).map fun p => (p, s.target u { need := need, len := p.2, align := 1 } p.1 0)
  let bad := parts.filterMap fun p => match p.2 with
    | .error e => some (if e.waits.isSome then 0 else checkStep (windowAt u.path.view.windows p.1.1).isSome e, e)
    | .ok _ => none
  match best (fun a b => a.1 < b.1) bad with
  | some b => .error b.2
  | none => .ok (parts.filterMap fun p => match p.2 with
    | .ok (t, m) => some { lane := 0, va := p.1.1, len := p.1.2, tgt := t, mode := m, x := off + (p.1.1 - va) }
    | .error _ => none)

/-- An extent transfer issues (R198, R454). -/
def State.extentOp (s : State) (u : Issuer) (f : FM) (kind : Nat → OpKind) (need : Need) : State :=
  let d := (s.read64 u f.d 0).toNat
  let off := bits d 0 32
  let len := bits d 32 32
  let va := s.globalAddr u f true 0
  let g := s.group? u.core u.slot
  let al := (g.map (·.alloc)).getD 0
  let size := ((s.alloc? u.core al).map (·.size)).getD 0
  if off % 16 != 0 || len % 16 != 0 || len < 16 || 524288 < len then s.raiseHere u 0x02
  else s.withRoom u (kind al).ctr (s.releaseFirst u f.ord fun s =>
    if 2 ^ 60 ≤ va then s.raise u (u.faultOn 0x04 va)
    else if size < off + len then s.raise u (u.faultAt 0x07 off)
    else if va % 16 != 0 then s.raise u (u.faultOn 0x06 va)
    else match s.extentAccesses u need va off len with
    | .error e => s.raiseOrWait u e
    | .ok as =>
      let s := as.foldl (fun s a => s.cacheTarget u a need) s
      let s := if f.ord.acquires then s.acquire u.core f.scp else s
      (s.startOp u f (kind al) none as as []).retire u f.sc)

/-- `ldx` (R198). -/
def execLdx (f : FM) (s : State) : Host.Outcome State Fault Refusal :=
  issue s (.ldx f) (fun u => { memReq true (gUse f.d false :: globalUses f) with may := u.kind != .steward })
    fun u => s.extentOp u f .ldx .read

/-- `stx` (R198). -/
def execStx (f : FM) (s : State) : Host.Outcome State Fault Refusal :=
  issue s (.stx f) (fun u => { memReq true (gUse f.d false :: globalUses f) with may := u.kind != .steward, defers := orderDefers f.ord })
    fun u => s.extentOp u f .stx .write

/-! ## Fences and waits (R194, R199, R205, R210) -/

/-- `fence` (R205). An acquire waits for the operations issued before it (log 9). -/
def execFence (f : FM) (s : State) : Host.Outcome State Fault Refusal :=
  issue s (.fence f) (fun _ => { memReq false [] with defers := orderDefers f.ord }) fun u => s.releaseFirst u f.ord fun s =>
    let ids := s.releaseIds u
    if f.ord.acquires && !ids.isEmpty then s.stall u (.drain ids)
    else (if f.ord.acquires then s.acquire u.core f.scp else s).retire u f.sc

/-- Checks of `wait` (R181, R210). -/
def waitReq (f : F3) (d : Defers) (u : Issuer) : Req := { memReq false [gUse f.a false] with may := u.kind != .helper, defers := d }

/-- `wait` on a counter: the deferred faults it concerns are raised, then the path stalls until the counter is low enough
(R194, R210, R239). -/
def State.waitOn (s : State) (u : Issuer) (f : F3) (c : Ctr) (d : Defers) : State :=
  match s.raiseDeferred u (fun e => e.raisedAt d) u.path.wordAddr with
  | some s' => s'
  | none =>
    let limit := Nat.min (s.read64 u f.a 0).toNat 1023
    if limit < (s.rings u.agent).count c then s.stall u (.counter c limit) else s.retire u f.sc

/-- `wait.ld` (R210). -/
def execWaitLd (f : F3) (s : State) : Host.Outcome State Fault Refusal :=
  issue s (.waitLd f) (waitReq f .none) fun u => s.waitOn u f .ld .none

/-- `wait.st` (R194, R210). -/
def execWaitSt (f : F3) (s : State) : Host.Outcome State Fault Refusal :=
  issue s (.waitSt f) (waitReq f .stores) fun u => s.waitOn u f .st .stores

/-- `wait.at` (R210). -/
def execWaitAt (f : F3) (s : State) : Host.Outcome State Fault Refusal :=
  issue s (.waitAt f) (waitReq f .none) fun u => s.waitOn u f .am .none

/-- `wait.cp` (R210, R239). -/
def execWaitCp (f : F3) (s : State) : Host.Outcome State Fault Refusal :=
  issue s (.waitCp f) (waitReq f .copies) fun u => s.waitOn u f .cp .copies

/-- `wait.tt` (R210, R239). -/
def execWaitTt (f : F3) (s : State) : Host.Outcome State Fault Refusal :=
  issue s (.waitTt f) (waitReq f .tasks) fun u => s.waitOn u f .tt .tasks

/-- `wait.sv` (R210). -/
def execWaitSv (f : F3) (s : State) : Host.Outcome State Fault Refusal :=
  issue s (.waitSv f) (waitReq f .none) fun u => s.waitOn u f .sv .none

/-! ## Coherence objects and codec windows (R215 to R217) -/

/-- Operations of the issuer's threads in flight that touch a place, which a read of it must follow (R300). -/
def State.olderAt (s : State) (u : Issuer) (t : Target) (len : Nat) : List Nat :=
  s.olderThan { stewardOp u .load [{ lane := 0, va := 0, len := len, tgt := t }] with owner := 0, size := len }

/-- The 32-byte record of `cobj` or `cwin`, read at issue as a load is, in its turn under replay, where the hub supplies what a borrowed line gave
(R215, R432, R433). -/
def State.withRecord (s : State) (u : Issuer) (f : FM) (k : State → List Byte → State) : State :=
  let va := s.globalAddr u f true 0
  let poisoned := fun (s : State) (i : Nat) => s.raise u { u.faultOn 0x09 (va + i) with deferred := true }
  match s.target u { need := .read, len := 32, align := 32 } va 0 with
  | .error e => s.raiseOrWait u e
  | .ok (t, m) =>
    let took := fun (s : State) (bs : List Byte) => k (s.logRead u [t.logged] (ofBytes bs)) bs
    let older := s.olderAt u t 32
    if !older.isEmpty then s.stall u (.drain older)
    else if !s.readsInTurn u [t.logged] then s.stall u (.turn [t.logged])
    else match t.isLent, s.replayEntry? u.ctx t.logged.1 t.logged.2 with
    | true, some e => took s (toBytes 32 e.value)
    | _, _ => match t with
    | .block w v ps =>
      let (s, r) := s.blockLoad u.core u.ctx w v ps
      (match r with
       | .ok bs => took s ((bs.drop (va % 64)).take 32)
       | .error .poisoned => poisoned s 0
       | .error .malformed => s.raise u (u.faultOn 0x08 v))
    | _ => match s.landedPart t 32 with
      | some (some bs) => took s bs
      | some none => poisoned s 0
      | none => match s.freshLoad u.core m t 32 with
        | some (s, .ok bs) => took s bs
        | some (s, .error (c, i)) => s.raise u { u.faultOn c (va + i) with deferred := true }
        | none => (s.request 0 t false).stall u (.line (t.lentLine).1 (t.lentLine).2)

/-- The sum of ⌊(a·i + b)/m⌋ for i below n; fuel for Euclid's descent. -/
def floorSum (n m a b : Nat) : Nat → Nat
  | 0 => 0
  | fuel + 1 =>
    if n = 0 || m = 0 then 0
    else
      let whole := n * (n - 1) / 2 * (a / m) + n * (b / m)
      let a := a % m
      let b := b % m
      let top := a * n + b
      if top < m then whole else whole + floorSum (top / m) a m (top % m) fuel

/-- An interval shares a byte with a row of a shape. -/
def CohObj.rowMeets (o : CohObj) (base len : Nat) : Bool :=
  o.base < base + len &&
  (let r := Nat.min (o.rows - 1) ((base + len - 1 - o.base) / o.stride)
   base < o.base + r * o.stride + o.rowb)

/-- Two shapes share a byte of a row (R216): one of the first and last rows of the second does, or, between them, some row
of the first reaches a row of the second. -/
def CohObj.meets (o p : CohObj) : Bool :=
  o.rowMeets p.base p.rowb || o.rowMeets (p.base + (p.rows - 1) * p.stride) p.rowb ||
  (let lo := (p.base + p.rowb - o.base + o.stride - 1) / o.stride
   let top := p.base + (p.rows - 1) * p.stride
   let hi := if o.base + o.rowb ≤ top then Nat.min o.rows ((top - o.rowb - o.base) / o.stride + 1) else 0
   lo < hi &&
   (let c := o.base + lo * o.stride - p.base - p.rowb
    floorSum (hi - lo) p.stride o.stride c 200 < floorSum (hi - lo) p.stride o.stride (c + o.rowb + p.rowb - 1) 200))

/-- A shape record: declared (true) or retired; none where a field is out of its limits (Table 5 of the memory-access chapter). -/
def shapeOf (ctx : Nat) (bs : List Byte) : Option (Bool × CohObj) :=
  let o : CohObj :=
    { ctx := ctx, base := valueAt bs 0 8, rowb := valueAt bs 8 4, rows := valueAt bs 12 4, stride := valueAt bs 16 8
      scope := valueAt bs 25 1 }
  let op := valueAt bs 24 1
  if o.base % 64 != 0 || 2 ^ 60 ≤ o.base || valueAt bs 26 6 != 0 then none
  else if op = 2 then some (false, o)
  else if op = 1 && o.rowb % 64 = 0 && o.rowb != 0 && o.rows != 0 && o.stride % 64 = 0 && o.rowb ≤ o.stride && 3 ≤ o.scope && o.scope ≤ 6 then
    some (true, o)
  else none

/-- `cobj` (R215, R216). -/
def execCobj (f : FM) (s : State) : Host.Outcome State Fault Refusal :=
  issue s (.cobj f) (fun u => { memReq false [gUse f.a false, gUse f.b false] with may := u.kind != .steward }) fun u =>
    s.withRecord u f fun s bs =>
      match shapeOf u.ctx bs with
      | none => s.raiseHere u 0x02
      | some (false, o) => { s with objects := s.objects.filter fun p => !(p.ctx = o.ctx && p.base = o.base) }.retire u f.sc
      | some (true, o) =>
        if s.objects.any fun p => p.ctx = o.ctx && (p.meets o) then s.raiseHere u 0x02
        else if 8192 ≤ s.objects.length then (s.observe 4096 9 1).retire u f.sc
        else { s with objects := s.objects ++ [o] }.retire u f.sc

/-- `cwin` (R215, R217). -/
def execCwin (f : FM) (s : State) : Host.Outcome State Fault Refusal :=
  issue s (.cwin f) (fun u => { memReq false [gUse f.a false, gUse f.b false] with may := u.kind != .steward }) fun u =>
    let group := ((s.group? u.core u.slot).map (·.rings)).getD {}
    match [Ctr.ld, .st, .am].find? fun c => (s.rings u.agent).count c != 0 with
    | some c => s.stall u (.counter c 0)
    | none =>
      if [Ctr.ld, .st, .am].any fun c => group.count c != 0 then s.stall u .idle
      else s.withRecord u f fun s bs =>
        let win := bits (valueAt bs 24 8) 61 3
        let open' := (s.context u.ctx).windows
        match windowOf bs 0 win with
        | .error () => s.raiseHere u 0x02
        | .ok new =>
          if new.any fun w => open'.any fun p => p.1 != win && p.2.overlaps w then s.raiseHere u 0x02
          else
            -- the ranges that begin or cease to be a window's
            let ranges := ((Assoc.get? open' win).toList ++ new.toList).map fun w => (w.base, w.size)
            match ranges.findSome? fun r => s.rangeWaits u.ctx r.1 r.2 with
            | some l => (s.fetchMiss { waits := some l }).stall u (.line l.1 l.2)
            | none =>
              let s := s.modContext u.ctx fun k => { k with
                windows := match new with
                  | some w => Assoc.set k.windows win w
                  | none => Assoc.erase k.windows win }
              (ranges.foldl (fun s r => s.dropRange u.ctx r.1 r.2) s).retire u f.sc

/-! ## Cache control (R91, R218) -/

/-- The line of the L1 and of the remote line cache that `cctl` names at a VA, whose translation alone is checked; none where that
fails; or the state in which it waits for a line of a page table (R218, R330). -/
def State.cctlLine (s : State) (u : Issuer) (va : Nat) : Except State (Option LineTag) :=
  match windowAt u.path.view.windows va with
  | some _ => .ok (some (.block u.ctx (va / 64)))
  | none => match s.located u.core u.ctx u.path.view.root va with
    | .error m => (match m.waits with
      | some l => .error ((s.fetchMiss m).stall u (.line l.1 l.2))
      | none => .ok none)
    | .ok x => .ok (some (if paClass x.pa = .borrowed then .lent (entryOf u.ctx x.slot) ((x.pa - 0x8000000000000) / 64) else .phys (x.pa / 64)))

/-- The acquires in flight of the issuer's threads, which a discard of L1 copies follows (R300, R312). -/
def State.olderAcquires (s : State) (u : Issuer) : List Nat :=
  (s.ops.filter fun p => p.2.uid == u.uid && (p.2.mask &&& u.path.exec) != 0 && p.2.order.acquires).map (·.1)

/-- `cctl` goes on once the acquires before it have performed (R300, R312; log 9). -/
def State.afterAcquires (s : State) (u : Issuer) (k : State) : State :=
  if (s.olderAcquires u).isEmpty then k else s.stall u (.drain (s.olderAcquires u))

/-- `cctl.l1inv`: the core's copy of the line is discarded (R218). -/
def execCctlL1inv (f : FM) (s : State) : Host.Outcome State Fault Refusal :=
  issue s (.cctlL1inv f) (fun _ => memReq false [gUse f.a false]) fun u => s.afterAcquires u
    (match s.cctlLine u (s.globalAddr u f false 0) with
     | .error s => s
     | .ok t => (match t with
       | some tag => s.dropCopy u.core tag
       | none => s).retire u f.sc)

/-- `cctl.l1all`: the core's whole L1 is discarded (R218); a steward has none (R91). -/
def execCctlL1all (f : FM) (s : State) : Host.Outcome State Fault Refusal :=
  issue s (.cctlL1all f) (fun _ => memReq false []) fun u => s.afterAcquires u
    ((if u.core < 4096 then s.modCore u.core fun k => { k with l1 := [] } else s).retire u f.sc)

/-- `cctl.rlcev`: the line is evicted from the remote line cache (R218, R324). -/
def execCctlRlcev (f : FM) (s : State) : Host.Outcome State Fault Refusal :=
  issue s (.cctlRlcev f) (fun _ => memReq false [gUse f.a false]) fun u =>
    match s.cctlLine u (s.globalAddr u f false 0) with
    | .error s => s
    | .ok (some (.lent e line)) => (s.evict e line).retire u f.sc
    | .ok _ => s.retire u f.sc

end Sys2Proof.Machine
end

