-- ==== Sys2Proof/Machine/Engine.lean ====
section
/-! DEFINITION. Engine commands: their reads and writes, when they may run, faults, and completion (R221, R222, R226, R227,
R229, R239, R240, R244, R313, R402). -/
namespace Sys2Proof.Machine

/-- What reaching some bytes comes to. -/
inductive Reach (α : Type) where
  | done (a : α)
  /-- A line is not at hand; it has been asked for. -/
  | wait (s : State)
  | fault (f : FaultInfo)
deriving Repr

/-! ## A command as the source of accesses -/

/-- The state with a command changed. -/
def State.modCmd (s : State) (id : Nat) (f : Cmd → Cmd) : State := { s with cmds := Assoc.update s.cmds id f }

/-- The issuer whose rights and view a command's accesses have: the enqueuing path's, or supervisor level for a submission
slot (R221, R417). -/
def Cmd.issuer (c : Cmd) : Issuer :=
  { agent := .steward 0, uid := c.uid, kind := if c.ofSlot then .steward else .simt, core := c.core, slot := 0, idx := 0
    path := { view := c.view, lvl := c.lvl, fmt := c.fmt }, width := 1, window := 8, gcount := 8, w32 := false, ctx := c.ctx
    sup := c.ofSlot, launch := c.launch }

/-- The columns of a tile task's part (R234). -/
def Cmd.partColumns (c : Cmd) : Nat := c.field 0x1E 2 / 2 ^ bits (c.field 0x23 1) 0 2

/-- The tiles a tile task writes (R234). -/
def Cmd.tiles (c : Cmd) : List Nat :=
  match c.kind with
  | .tile =>
    let wide := bits (c.field 0x22 1) 6 1 = 1
    let across := c.partColumns / (if wide then 32 else 64)
    (List.range (c.field 0x1C 2 / 64 * across)).map fun k => bits (c.field 0x22 1) 0 6 + k
  | _ => []

/-- The tags a command produces (R226). -/
def Cmd.tags (c : Cmd) : List Nat := c.tiles ++ c.outTag

/-- The input tags of a command (R226). -/
def Cmd.inTags (c : Cmd) : List Nat :=
  match c.kind with
  | .tile => (List.range (bits (c.field 0x2D 1) 0 3)).map fun i => c.field (0x28 + i) 1
  | .copy => if c.ofSlot then [] else (List.range (bits (c.field 3 1) 0 3)).map fun i => c.field (4 + i) 1
  | .svc => []

/-- The counter of a command (R192). -/
def CmdKind.ctr : CmdKind → Ctr
  | .tile => .tt
  | .copy => .cp
  | .svc => .sv

/-- A fault of a command (R239). -/
def Cmd.faultInfo (c : Cmd) (id : Nat) (cause : Byte) (addr : Nat) (lease : Word) (global : Bool := true) : FaultInfo :=
  { cause := cause, faddr := BitVec.ofNat 64 addr, pc := c.pc, lease := lease, deferred := true, engine := true, thread := c.thread
    global := global
    tags := c.tags, tiles := c.tiles, onTt := c.kind = .tile, onCp := c.kind = .copy, cmd := id }

/-! ## Reads and writes (R240, R244, R344, R345) -/

/-- Where an operand or range of a command lies. -/
inductive Loc where
  /-- An offset of its group's scratchpad allocation. -/
  | scratch (off : Nat)
  | global (va : Nat)
deriving DecidableEq, Repr

/-- A place so many bytes on; a VA wraps (R64). -/
def Loc.plus (l : Loc) (n : Nat) : Loc :=
  match l with
  | .scratch o => .scratch ((o + n) % 2 ^ 64)
  | .global a => .global ((a + n) % 2 ^ 64)

/-- What keeps a command from a place: a fault, or a line that the check waits for, which is asked for (R330). -/
def State.kept {α : Type} (s : State) (f : FaultInfo) : Reach α :=
  match f.waits with
  | some l => .wait (s.fetchMiss { waits := some l })
  | none => .fault f

/-- A command's part of a codec block or of a line of memory, checked (R191, R239); `pool` where only pool and borrowed memory
will do (R241). -/
def State.engineTarget (s : State) (id : Nat) (c : Cmd) (need : Need) (va n align : Nat) (pool : Bool) : Except FaultInfo Target :=
  match s.target c.issuer { need := need, len := n, align := align } va 0 with
  | .error e => .error { c.faultInfo id e.cause e.faddr.toNat e.lease e.global with waits := e.waits }
  | .ok (t, _) =>
    let ok : Bool := !pool || (match t with
      | .phys pa => paClass pa == .pool
      | .lent _ _ => true
      | _ => false)
    if ok then .ok t else .error (c.faultInfo id 0x05 va 0)

/-! ### Fomar (R432, R433) -/

/-- The state with an engine's access logged (R432). -/
def State.logEngine (s : State) (c : Cmd) (t : Target) (v : Nat) (err : Option (Byte × Nat) := none) : State :=
  s.logEntry c.ctx { kind := t.logged.1, uid := c.uid, idx := commandIdx, lane := c.num, line := t.logged.2, value := v, err := err }

/-- An engine's access is in turn under replay (R433). -/
def State.engineInTurn (s : State) (c : Cmd) (t : Target) : Bool :=
  s.inTurn c.ctx c.uid commandIdx c.num t.logged.1 t.logged.2

/-- The parts of a range that lie in one line each. -/
def lineParts (va n : Nat) : List (Nat × Nat) := partsOf 64 va n

/-- A command's scratchpad lines from an offset. -/
def Cmd.scratchLines (c : Cmd) (off n : Nat) : List Target := (lineParts off n).map fun p => .scratch c.core c.alloc p.1

/-- The state with a command's access to its scratchpad logged, line by line (R432). -/
def State.logScratch (s : State) (c : Cmd) (off n : Nat) : State := (c.scratchLines off n).foldl (fun s t => s.logEngine c t 0) s

/-- The state with the place where a command erred logged, if it is one of memory (R432). -/
def State.logFault (s : State) (id : Nat) (c : Cmd) (f : FaultInfo) : State :=
  if f.cause.toNat < 8 || 0xA < f.cause.toNat || !f.global then s
  else match s.engineTarget id c .read f.faddr.toNat 1 1 false with
  | .ok t => s.logEngine c t 0 (some (f.cause, f.faddr.toNat % 64))
  | .error _ => s

/-- What the log has of an engine's access whose turn it is under replay (R433). -/
def State.engineEntry? (s : State) (c : Cmd) (t : Target) : Option LogEntry := s.replayEntry? c.ctx t.logged.1 t.logged.2

/-! ### Reads -/

/-- The borrowed line of a VA that a command has asked for, by entry and line (R359). -/
def State.askedLine? (s : State) (c : Cmd) (va : Nat) : Option (Nat × Nat) :=
  match s.place c.issuer va .read with
  | .error _ => none
  | .ok x =>
    let l := (entryOf c.ctx x.slot, (x.pa - 0x8000000000000) / 64)
    if paClass x.pa = .borrowed && (windowAt c.view.windows va).isNone && (c.asked.contains l || c.got.any fun g => g.1 = l) then some l
    else none

/-- The state in which a command waits for a borrowed line that it reads, which it asks for (R359). -/
def State.askFor (s : State) (id : Nat) (c : Cmd) (l : Nat × Nat) : State :=
  (if c.asked.contains l then s else s.modCmd id fun c => { c with asked := c.asked ++ [l] }).wantRead l.1 l.2

/-- A command's read of some bytes of one line, at the home (R313). A borrowed line that it has waited for serves the read once, as
it came (R359, R367). -/
def State.engineReadLine (s : State) (id : Nat) (c : Cmd) (va n align : Nat) (pool : Bool) : Reach (State × List Byte) :=
  let cut := fun (bs : List Byte) => (bs.drop (va % 64)).take n
  match if s.replayed c.ctx then none else s.askedLine? c va with
  | some l => match c.got.find? fun g => g.1 = l with
    | none => .wait (s.askFor id c l)
    | some (_, none) => .fault (c.faultInfo id 0x09 va 0)
    | some (_, some data) =>
      let bs := cut (toBytes 64 data.toNat)
      .done ((s.logEngine c (.lent l.1 (64 * l.2)) (ofBytes bs)).modCmd id fun c => { c with got := c.got.filter fun g => g.1 != l }, bs)
  | none => match s.engineTarget id c .read va n align pool with
  | .error e => s.kept e
  | .ok t =>
    if !s.engineInTurn c t then .wait s
    else match s.engineEntry? c t with
    | some e => match e.err with
      | some (k, off) => .fault (c.faultInfo id k (va / 64 * 64 + off) 0)
      | none => .done (s.logEngine c t e.value, toBytes n e.value)
    | none => match t with
    | .block w v ps =>
      match s.blockLoad 4096 c.ctx w v ps with
      | (s, .ok bs) => .done (s.logEngine c t (ofBytes (cut bs)), cut bs)
      | (_, .error .poisoned) => .fault (c.faultInfo id 0x09 va 0)
      | (_, .error .malformed) => .fault (c.faultInfo id 0x08 v 0)
    | _ => match s.loadAt 4096 .uncached t n with
      | some (s, .ok bs) => .done (s.logEngine c t (ofBytes bs), bs)
      | some (_, .error (e, k)) => .fault (c.faultInfo id e (va + k) 0)
      | none => .wait (s.askFor id c t.lentLine)

/-- A command's read of some bytes. -/
def State.engineRead (s : State) (id : Nat) (c : Cmd) (l : Loc) (n align : Nat) (pool : Bool) : Reach (State × List Byte) :=
  match l with
  | .scratch off =>
    if off % align != 0 then .fault (c.faultInfo id 0x06 off 0 false)
    else if !(c.scratchLines off n).all fun t => s.engineInTurn c t then .wait s
    else .done (s.logScratch c off n, s.scratchRead c.core c.alloc off n)
  | .global va =>
    let one := fun (s : State) (p : Nat × Nat) => s.engineReadLine id c p.1 p.2 (if p.1 = va then align else 1) pool
    let blocked := (lineParts va n).findSome? fun p => match one s p with
      | .done _ => none
      | r => some r
    match blocked with
    | some r => r
    | none => (lineParts va n).foldl (fun (acc : Reach (State × List Byte)) p => match acc with
      | .done (s, bs) => (match one s p with
        | .done (s, new) => .done (s, bs ++ new)
        | r => r)
      | r => r) (.done (s, []))

/-! ### Writes -/

/-- The state with the issuing core's L1 copy of a place dropped (R244). -/
def State.dropTarget (s : State) (core : Nat) (t : Target) : State :=
  match t.tag? with
  | some tag => s.dropCopy core tag
  | none => s

/-- The state with a write or an update of a command made by an operation of its own, whose completion the command waits for: it takes its
turn at the home, or goes to the lender, and those of one command to a place perform in their order (R300, R359, R361). -/
def State.engineOp (s : State) (id : Nat) (c : Cmd) (kind : OpKind) (a : Access) : State :=
  let (op, s) := s.freshId
  let o : Op :=
    { kind := kind, agent := .steward 0, uid := id, owner := id, who := (c.uid, commandIdx), core := 4096, mask := 1, ctx := c.ctx, view := c.view
      size := a.len, order := .rlx, scope := .pkg, uni := true, lanes := [a], todo := [a], carries := [id], discards := some c.core, pc := c.pc, born := s.cyc c.core }
  { s with ops := Assoc.set s.ops op o }.modCmd id fun c => { c with awaits := c.awaits + 1 }

/-- A command's write of some bytes of a line of the package may be made at once: its turn has come at the home and under replay, and no
earlier one of the command to the line is on its way. -/
def State.engineAtOnce (s : State) (id : Nat) (c : Cmd) (t : Target) : Bool :=
  (match t with
   | .phys pa => s.localTurn id (pa / 64)
   | _ => false) && s.engineInTurn c t && !s.ops.any fun p => p.2.uid == id && p.2.todo.any fun a => a.tgt.tag? == t.tag?

/-- A command as the maker of a write step (R338). -/
def Cmd.writer (c : Cmd) (id : Nat) : Writer :=
  { id := id, owner := c.uid, who := (c.uid, commandIdx), lane := c.num, core := c.core, ctx := c.ctx, root := c.view.root, pc := c.pc }

/-- The state in which a command has done with its turns at the counter blocks of some windows. -/
def State.countersDone (s : State) (id : Nat) (c : Cmd) : State := c.view.windows.foldl (fun s w => s.counterDone (c.writer id) w.2) s

/-- What keeps a command from writing some bytes of one line: the checks, and for a codec block its turn under replay and its counter
block. -/
def State.writeKept? (s : State) (id : Nat) (c : Cmd) (va n : Nat) (pool : Bool) : Option (Reach State) :=
  match s.engineTarget id c .write va n 1 pool with
  | .error e => some (s.kept e)
  | .ok (.block w v ps) =>
    if !s.engineInTurn c (.block w v ps) then some (.wait s)
    else (s.counterKept? (c.writer id) w).map .wait
  | .ok _ => none

/-- A command's write of some bytes of one line that nothing keeps it from. -/
def State.engineWriteLine (s : State) (id : Nat) (c : Cmd) (va : Nat) (bs : List Byte) (pool : Bool) : Reach State :=
  match s.engineTarget id c .write va bs.length 1 pool with
  | .error e => s.kept e
  | .ok t => match t with
    | .block w v ps =>
      let off := va % 64
      let touched := (List.range 8).filter fun i => off < 8 * i + 8 && 8 * i < off + bs.length
      let (s, r) := s.writeBlock (c.writer id) w v ps (c.fmt.getLsbD 12) (bs.length = 64) touched fun old =>
        old.take off ++ bs ++ old.drop (off + bs.length)
      (match r with
       | .written => .done ((s.logEngine c t 0).markTarget c.ctx t)
       | .error .poisoned => .fault (c.faultInfo id 0x0A va 0)
       | .error .malformed => .fault (c.faultInfo id 0x08 v 0)
       | .nonFinite i => .fault (c.faultInfo id 0x08 (v + 8 * i) 0))
    | _ =>
      if s.engineAtOnce id c t then
        match s.storeAt id 4096 t bs with
        | some (s, _, _) => .done (((s.dropTarget c.core t).logEngine c t 0).markTarget c.ctx t)
        | none => .wait s
      else .done (s.engineOp id c .store { lane := c.num, va := va, len := bs.length, tgt := t, x := ofBytes bs })

/-- A command's write of some bytes: none of it while something keeps it from a part. -/
def State.engineWrite (s : State) (id : Nat) (c : Cmd) (l : Loc) (bs : List Byte) (pool : Bool) : Reach State :=
  match l with
  | .scratch off =>
    if !(c.scratchLines off bs.length).all fun t => s.engineInTurn c t then .wait s
    else .done ((s.scratchWrite c.core c.alloc off bs).logScratch c off bs.length)
  | .global va =>
    let parts := lineParts va bs.length
    match parts.findSome? fun p => s.writeKept? id c p.1 p.2 pool with
    | some r => r
    | none => match parts.foldl (fun (acc : Reach State) p => match acc with
        | .done s => s.engineWriteLine id c p.1 ((bs.drop (p.1 - va)).take p.2) pool
        | r => r) (.done s) with
      | .done s => .done (s.countersDone id c)
      | r => r

/-- A command's update of one element, which needs W as a reduction does (R330, R370): at once, or by an operation of its own. -/
def State.engineUpdate (s : State) (id : Nat) (c : Cmd) (kind : OpKind) (va n x : Nat) (pool : Bool) : Reach State :=
  match s.engineTarget id c .write va n n pool with
  | .error e => s.kept e
  | .ok t =>
    let a : Access := { lane := c.num, va := va, len := n, tgt := t, x := x }
    if !s.engineAtOnce id c t then .done (s.engineOp id c kind a)
    else match s.updateAt id 4096 .uncached false t n (kind.update a) with
    | none => .wait s
    | some (_, _, .error (e, k)) => .fault (c.faultInfo id e (va + k) 0)
    | some (s, _, .ok m) => .done (((s.dropTarget c.core t).logEngine c t m).markTarget c.ctx t)

/-! ## Running (R222, R227, R238, R294, R382) -/

/-- A tile task whose time counts as something else from now on (R238; log 14). -/
def Cmd.turnTo (c : Cmd) (now : Nat) (p : Spell) : Cmd :=
  let k := match c.spell with
    | .none => 4 | .copyIn => 0 | .operands => 1 | .compute => 2 | .copyOut => 3
  { c with counts := modifyAt c.counts k fun n => n + (now - c.mark), mark := now, spell := p }

/-- A command of which a producer has gone: its wait for operands ends with the last (R238). -/
def Cmd.depends (c : Cmd) (s : State) (now : Nat) : Cmd :=
  if c.spell = .operands && (c.deps.filter fun d => (Assoc.get? s.cmds d).isSome).length ≤ 1 then c.turnTo now .none else c

/-- The group of a command is in a slot and no pre-emption holds it; a slot's command, and a copy that needs nothing of its
core, always run (R382, R417). -/
def State.cmdPresent (s : State) (c : Cmd) : Bool :=
  c.ofSlot || c.runsOn || (match s.unit? c.uid with
    | some (.slot k sl) => ((s.group? k sl).map fun g => !g.stopping || g.killed).getD false
    | _ => false)

/-- A launch has ended or is ending, so that its handles are stale (R419). -/
def State.launchEnded (s : State) (launch : Nat) : Bool :=
  match Assoc.get? s.engine.running launch with
  | some r => r.ending.isSome
  | none => true

/-- Every producer a command depends on has completed (R227). -/
def State.depsMet (s : State) (c : Cmd) : Bool := c.deps.all fun d => (Assoc.get? s.cmds d).isNone

/-- A command may make its accesses: the accesses before it are acknowledged, its producers have completed without a fault, and
it neither waits for service nor has been stopped (R222, R227, R239). -/
def State.cmdReady (s : State) (c : Cmd) : Bool :=
  s.cmdPresent c && s.depsMet c && !c.badDep && c.held.isNone && c.refer.isNone &&
  c.after.all fun i => (Assoc.get? s.ops i).isNone

/-- The command of a name, ready to run, of a kind. -/
def State.runnable? (s : State) (id : Nat) (kind : CmdKind) : Option Cmd :=
  match Assoc.get? s.cmds id with
  | some c => if c.kind = kind && s.cmdReady c then some c else none
  | none => none

/-- The acquire of a command, before its first read (R313). -/
def State.cmdAcquire (s : State) (c : Cmd) (on : Bool) (scope : Nat) : State :=
  let sc : Scope := match scope with
    | 2 => .core | 3 => .clu | 4 => .die | 5 => .pkg | _ => .fab
  if on then s.acquire c.core sc else s

/-! ## Faults and completion (R239, R402) -/

/-- A deferred fault in its place: those of engine commands stand in enqueue order (R239). -/
def insertDeferred (l : List FaultInfo) (f : FaultInfo) : List FaultInfo :=
  let later := fun (x : FaultInfo) => x.engine && f.cmd < x.cmd
  l.filter (fun x => !later x) ++ [f] ++ l.filter later

/-- The state with the marks of a faulted command on its group, and the pending faults whose mark it bears widened to it
(R239). -/
def State.markFaulted (s : State) (c : Cmd) : State :=
  s.modGroupNamed c.uid fun g =>
    let reached := fun (f : FaultInfo) => f.engine && (c.inTags ++ c.tiles).any fun t => f.tags.contains t
    { g with
      tagBad := g.tagBad ++ c.tags.filter fun t => !g.tagBad.contains t
      accBad := g.accBad ++ c.tiles.filter fun t => !g.accBad.contains t
      deferred := g.deferred.map fun f =>
        if reached f then
          { f with tags := f.tags ++ c.tags, tiles := f.tiles ++ c.tiles, onTt := f.onTt || c.kind = .tile, onCp := f.onCp || c.kind = .copy }
        else f }

/-- A command leaves: its counter's ring moves, its tags complete, and commands that depend on a faulted one are marked (R229,
R239). -/
def State.endCmd (s : State) (id : Nat) (c : Cmd) (faulted : Bool) : State :=
  let s := s.modRingsNamed c.uid fun r => r.complete c.kind.ctr id
  let s := { s with cmds := (Assoc.erase s.cmds id).mapVals fun d =>
    if d.deps.contains id then { (d.depends s (s.cyc d.core)) with badDep := d.badDep || faulted } else d }
  let s := (if faulted then s.markFaulted c else s).cancelTurn id
  if c.kind = .svc then s
  else State.postCalls <| s.logEntry c.ctx { kind := .command, uid := c.uid, idx := commandIdx, lane := c.num, line := 0, value := faulted.toNat }

/-- A command stops with a fault: it completes with a fault status and the fault is held for its group, or counted where the
group drains; a slot's command answers with the cause (R239, R402, R417). -/
def State.stopCmd (s : State) (id : Nat) (c : Cmd) (f : FaultInfo) : State :=
  let (now, s) := ((s.logFault id c f).endCmd id c true).freshId
  match c.slot with
  | some k => s.answer k f.cause.toNat []
  | none => match s.groupNamed? c.uid with
    | none => s
    | some g =>
      if g.life = .draining then s.countErrors g.launch [f]
      else s.modGroupNamed c.uid fun g => { g with deferred := insertDeferred g.deferred { f with arose := now } }

/-- Every write that a command has made has reached its home and has been counted at its barrier, so that the command may end (R243,
R244). -/
def State.landed (s : State) (c : Cmd) : Bool := c.awaits = 0 && (c.owed = 0 || (s.allocNamed? c.core c.alloc).isNone)

/-- A fault of a command is served by the steward: it is restartable and its launch is not ending (R239, R402, R417). -/
def State.served (s : State) (c : Cmd) (f : FaultInfo) : Bool :=
  0x20 ≤ f.cause.toNat && f.cause.toNat ≤ 0x24 && !c.ofSlot && !s.launchEnded c.launch &&
    !(f.global && s.inTrapArea c.ctx f.faddr.toNat)

/-- A command meets a fault: on the trap area its context ends, and it stops (R400); a restartable one stalls it while the steward serves it, any other stops it, as does one of a launch that is
ending, for which nobody serves it (R239, R402). -/
def State.meetFault (s : State) (id : Nat) (c : Cmd) (f : FaultInfo) : State :=
  let meta' : RecordOf := { flags := 33, path := 0xFF, thread := c.thread, gid := c.gid, rgpc := 0, launch := s.lidOf c.launch, mask := 0 }
  if f.global && !c.ofSlot && s.inTrapArea c.ctx f.faddr.toNat then
    ((s.endContext c.ctx c.lvl { f with deferred := false } meta').logFault id c f).endCmd id c true
  else if s.served c f then
    let handle := s.engine.nextHandle
    let rec' := recordBytes f meta'
    -- the cycles that a task waits for service are those of an operand load, once it has run (R238)
    let wait := fun (c : Cmd) => if c.spell = .compute then c.turnTo (s.cyc c.core) .copyIn else c
    (s.modCmd id fun c => { wait c with held := some (handle, f) }).postFault c.ctx rec'
  else s.stopCmd id c f

/-- A row of a command that may make progress: it does, or the row does not occur. -/
def Reach.outcome (r : Reach State) (s : State) : Host.Outcome State Fault Refusal :=
  match r with
  | .done s => .next s
  | .wait s' => if s' = s then .fault .notEnabled else .next s'
  | .fault _ => .fault .notEnabled

end Sys2Proof.Machine
end

