-- ==== Sys2Proof/Machine/Records.lean ====
section
/-! DEFINITION. Launch records and kernel headers: their checks and their queueing (R29, R245, R277 to R284, R289, R291). -/
namespace Sys2Proof.Machine

/-! ## The launch record (Table 7 of the asynchronous-command chapter) -/

/-- KHDR. -/
def recKhdr (r : List Byte) : Nat := valueAt r 0 8
/-- FMT. -/
def recFmt (r : List Byte) : DWord := BitVec.ofNat 64 (valueAt r 8 8)
/-- CTX. -/
def recCtx (r : List Byte) : Nat := valueAt r 0x10 2
/-- PRIO. -/
def recPrio (r : List Byte) : Nat := valueAt r 0x12 1
/-- QUEUE. -/
def recQueue (r : List Byte) : Nat := valueAt r 0x13 1
/-- FUSEDL1. -/
def recFused (r : List Byte) : Bool := valueAt r 0x14 1 = 1
/-- NLVL. -/
def recNlvl (r : List Byte) : Nat := valueAt r 0x15 1
/-- NSTG. -/
def recNstg (r : List Byte) : Nat := valueAt r 0x16 1
/-- LSDIV. -/
def recLsdiv (r : List Byte) : Nat := valueAt r 0x18 2
/-- DONE. -/
def recDone (r : List Byte) : Nat := valueAt r 0x20 8
/-- LID. -/
def recLid (r : List Byte) : DWord := BitVec.ofNat 64 (valueAt r 0x28 8)
/-- The domain of a level. -/
def recDomain (r : List Byte) (l : Nat) : Nat := valueAt r (0x30 + 8 * l) 1
/-- The count of a level. -/
def recCount (r : List Byte) (l : Nat) : Nat := valueAt r (0x34 + 8 * l) 4
/-- The groups of a stage. -/
def recStage (r : List Byte) (st : Nat) : Nat := valueAt r (0x70 + 16 * st) 4
/-- The queue offset, the entries and the entry bytes of a stage's queue. -/
def recQueueOf (r : List Byte) (st : Nat) : Nat × Nat × Nat :=
  (valueAt r (0x74 + 16 * st) 4, valueAt r (0x78 + 16 * st) 4, valueAt r (0x7C + 16 * st) 2)
/-- PARAM p. -/
def recParam (r : List Byte) (p : Nat) : DWord := BitVec.ofNat 64 (valueAt r (0xB0 + 8 * p) 8)
/-- The PRED words that are nonzero. -/
def recPreds (r : List Byte) : List Nat := [valueAt r 0xF0 8, valueAt r 0xF8 8].filter (· != 0)

/-- WA or WB of an initial fmt holds 0x7, or a bit that fmt does not have is set (R104, R245). -/
def badInitialFmt (x : DWord) : Bool :=
  bits x.toNat 4 3 == 7 || bits x.toNat 7 3 == 7 || bits x.toNat 13 51 != 0 || x.getLsbD 10

/-- The field limits of Table 7 (R245). -/
def recordOk (r : List Byte) : Bool :=
  recKhdr r % 256 = 0 && !badInitialFmt (recFmt r) && recCtx r < 1024 && recPrio r < 8 && recQueue r < 64 && valueAt r 0x14 1 < 2 &&
  1 ≤ recNlvl r && recNlvl r ≤ 8 && 1 ≤ recNstg r && recNstg r ≤ 4 && valueAt r 0x17 1 = 0 && bits (recLsdiv r) 4 4 = 0 &&
  valueAt r 0x1A 6 = 0 && recDone r % 8 = 0 &&
  ((List.range 8).all fun l =>
    if l < recNlvl r then recDomain r l ≤ 5 && valueAt r (0x31 + 8 * l) 3 = 0 else valueAt r (0x30 + 8 * l) 8 = 0) &&
  (List.range 4).all fun st => if st < recNstg r then valueAt r (0x7E + 16 * st) 2 = 0 else valueAt r (0x70 + 16 * st) 16 = 0

/-! ## The kernel header (R277) -/

/-- What a kernel header declares, if it keeps to Table 1 of the launch chapter. -/
def kernelOf (h : List Byte) : Option Kernel :=
  let nstg := valueAt h 0x10 1
  let entry := (List.range nstg).map fun st => valueAt h (0x18 + 4 * st) 4
  let k : Kernel :=
    { w32 := (valueAt h 6 2).testBit 0, hlp := (valueAt h 6 2).testBit 1, regs := valueAt h 8 1, gregs := valueAt h 9 1
      tiles := valueAt h 0xA 1, bars := valueAt h 0xB 1, scr := valueAt h 0xC 4, entry := entry }
  if valueAt h 0 4 = 0x4C594B48 && valueAt h 4 2 = 1 && valueAt h 6 2 < 4 &&
     k.regs % 8 = 0 && 8 ≤ k.regs && k.regs ≤ 192 && k.gregs % 8 = 0 && 8 ≤ k.gregs && k.gregs ≤ 64 &&
     k.tiles ≤ 48 && k.bars ≤ 64 && k.scr % 4096 = 0 && k.scr ≤ 524288 && 16 * k.bars ≤ k.scr &&
     1 ≤ nstg && nstg ≤ 4 && valueAt h 0x11 7 = 0 && (entry.all fun e => e % 8 = 0 && 256 ≤ e) &&
     valueAt h (0x18 + 4 * nstg) (4 * (4 - nstg)) = 0 && valueAt h 0x28 0xD8 = 0 then some k
  else none

/-! ## The hierarchy, the division and the stages (R29, R280 to R284, R289) -/

/-- A division that LSCFG accepts (R29). -/
def divisionOk (d : Nat) : Bool :=
  let scru := bits d 8 8
  let l1 := bits d 0 4
  scru ≤ 128 && 1 ≤ l1 && l1 ≤ 10 && scru + 16 * l1 + 24 ≤ 192

/-- The pool units of a division (R29). -/
def divisionPool (d : Nat) : Nat := 192 - bits d 8 8 - 16 * bits d 0 4

/-- A core gang's groups, or 1 for a group of its own (R280, R284). -/
def recUnit (r : List Byte) : Nat := if 1 < recNlvl r && recDomain r 1 = 1 then recCount r 0 else 1

/-- The level bound to domain 2, if there is one. -/
def recClusterLevel (r : List Byte) : Option Nat := (List.range (recNlvl r)).find? fun l => recDomain r l = 2

/-- The core units, or single groups, of one cluster gang (R284). -/
def recClusterUnits (r : List Byte) (l : Nat) : Nat :=
  ((List.range l).foldl (fun n i => n * recCount r i) 1) / recUnit r

/-- The groups of the whole launch (R280). -/
def recGroups (r : List Byte) : Nat := (List.range (recNlvl r)).foldl (fun n l => n * recCount r l) 1

/-- The core units that an empty core holds of a launch (R284). -/
def unitsPerCore (r : List Byte) (k : Kernel) : Nat :=
  let n := recUnit r
  let t := if k.w32 then 32 else 128
  let cap := fun (have' need : Nat) => if need = 0 then 2048 else have' / need
  Nat.min (cap 16 n) (Nat.min (cap 2048 (n * t)) (Nat.min (cap (divisionPool (recLsdiv r)) (n * (k.regs / 8 + 1)))
    (Nat.min (cap 48 (n * k.tiles)) (cap (bits (recLsdiv r) 8 8 * 4096) k.scr))))

/-- The queue of a stage is allowed (R289). -/
def queueOk (r : List Byte) (k : Kernel) (st : Nat) : Bool :=
  let (off, cap, eb) := recQueueOf r st
  if st + 1 = recNstg r then off = 0 && cap = 0 && eb = 0
  else off % 16 = 0 && 1 ≤ cap && cap ≤ 65536 && eb % 4 = 0 && 4 ≤ eb && eb ≤ 4096 && 16 * k.bars ≤ off && off + 16 + cap * eb ≤ k.scr

/-- Two stages' queues do not overlap (R289). -/
def queuesApart (r : List Byte) (i j : Nat) : Bool :=
  let (a, ca, ea) := recQueueOf r i
  let (b, cb, eb) := recQueueOf r j
  a + 16 + ca * ea ≤ b || b + 16 + cb * eb ≤ a

/-- The checks of a record together with its header (R278, R281, R289). -/
def launchOk (r : List Byte) (k : Kernel) : Bool :=
  let n := recNlvl r
  k.entry.length = recNstg r && recDomain r 0 = 0 && ((List.range (n - 1)).all fun l => recDomain r l < recDomain r (l + 1)) &&
  ((List.range n).all fun l => 1 ≤ recCount r l && (recDomain r l < 4 || (l + 1 = n && recCount r l = 1))) &&
  ((List.range (recNstg r)).foldl (fun m st => m + recStage r st) 0) = recCount r 0 &&
  (recNstg r = 1 || (1 < n && recDomain r 1 = 1)) &&
  (!recFused r || (recClusterLevel r).isSome) && divisionOk (recLsdiv r) &&
  (!(1 < n && recDomain r 1 = 1) || 1 ≤ unitsPerCore r k) &&
  (match recClusterLevel r with
   | none => true
   | some l => recClusterUnits r l ≤ 16 * unitsPerCore r k) &&
  ((List.range (recNstg r)).all fun st => queueOk r k st) &&
  (List.range (recNstg r - 1)).all fun i => (List.range i).all fun j => queuesApart r i j

/-! ## Queueing (R245, R278, R291) -/

/-- The reader of a kernel header: a path, or a submission slot for a context (R278, R279). -/
def Issuer.reader (u : Issuer) : Cmd :=
  { kind := .svc, rec' := [], fmt := u.fmt, uid := u.uid, core := u.core, gid := 0, ctx := u.ctx, launch := u.launch, view := u.path.view
    lvl := u.path.lvl, pc := u.path.wordAddr }
/-- The reader for a submission slot (R279). -/
def State.slotReader (s : State) (slot ctx : Nat) : Cmd :=
  { kind := .svc, rec' := [], fmt := 0, uid := 0, core := 4096, gid := 0, ctx := ctx, launch := 0, view := s.viewOf ctx, slot := some slot }

/-- How a submitted record comes out. -/
inductive Submission where
  /-- The kernel and the header as read. -/
  | ok (s : State) (header : List Byte)
  | wait (s : State)
  /-- Illegal operand. -/
  | illegal
  | fault (f : FaultInfo)
deriving Repr

/-- The read and the checks of a record's header, after the checks of the record alone (R221, R278). -/
def State.readHeader (s : State) (c : Cmd) (r : List Byte) : Submission :=
  match s.engineRead 0 c (.global (recKhdr r)) 256 1 false with
  | .wait s => .wait s
  | .fault f => .fault f
  | .done (s, h) => match kernelOf h with
    | none => .illegal
    | some k => if launchOk r k then .ok s h else .illegal

/-- The borrowed line that the read of a record's header waits for (R278, R359). -/
def State.headerLine (s : State) (c : Cmd) (r : List Byte) : Nat × Nat :=
  ((lineParts (recKhdr r) 256).findSome? fun p => match s.engineTarget 0 c .read p.1 p.2 1 false with
    | .error f => f.waits
    | .ok t => match t with
      | .lent e off => if (s.lentRead? e (off / 64)).isNone then some (e, off / 64) else none
      | _ => none).getD (0, 0)

/-- The records of a launch queue. -/
def State.queue (s : State) (q : Nat) : List LaunchRec := Assoc.getD s.engine.queues q []

/-- How the groups of a record are placed together (R280, R284 to R287). -/
def launchShape (r : List Byte) : Shape :=
  let upTo := fun (l : Nat) => (List.range l).foldl (fun n i => n * recCount r i) 1
  let cl := recClusterLevel r
  let gang := match cl with
    | some l => upTo l
    | none => recUnit r
  { div := recLsdiv r, unit := recUnit r, gang := gang, cluster := cl.isSome, fused := recFused r
    die := (((List.range (recNlvl r)).find? fun l => recDomain r l = 3).map upTo).getD 0 }

/-- The state with a record queued, and its launch running (R245, R246, R291); it follows some operations of the issuing group
(R222). -/
def State.queueLaunch (s : State) (r header : List Byte) (after : List Nat) : State :=
  let e := s.engine
  let l : LaunchRec :=
    { id := e.nextLaunch, record := r, header := header, after := after
      st := if (recPreds r).isEmpty && after.isEmpty then .placing else .held }
  { s with
    engine := { e with
      queues := Assoc.set e.queues (recQueue r) (s.queue (recQueue r) ++ [l])
      running := Assoc.set e.running e.nextLaunch
        { ctx := recCtx r, lid := recLid r, done := recDone r, prio := recPrio r, shape := launchShape r, left := recGroups r }
      nextLaunch := e.nextLaunch + 1 } }

end Sys2Proof.Machine
end

