-- ==== Sys2Proof/Machine/Bars.lean ====
section
/-! DEFINITION. The barrier instructions (R181, R206 to R209). -/
namespace Sys2Proof.Machine

/-- The state with an object changed by arrivals: the slots that have arrived are known until the phase ends (R207, R214). -/
def State.arriveAt (s : State) (c al i : Nat) (slot : Option Nat) (f : Barrier → Barrier) : State :=
  match s.alloc? c al with
  | none => s
  | some a =>
    let b := a.barrier i
    let b' := f b
    let mask := Assoc.getD a.arrived i 0
    let mask' : BitVec 16 := if b'.phase != b.phase then 0 else match slot with
      | some sl => mask ||| (1#16 <<< sl)
      | none => mask
    (s.modAlloc c al fun a => { a with arrived := Assoc.put 0 a.arrived i mask' }).setBarrier c al i b'

/-- The group and allocation that a barrier instruction acts for: a helper's are its recruiter's (R181). -/
def State.barAlloc? (s : State) (u : Issuer) : Option (Group × Alloc) :=
  (s.group? u.core u.slot).bind fun g => (s.alloc? u.core g.alloc).map fun a => (g, a)

/-- The index of the object an instruction names (R207). -/
def State.barIndex (s : State) (u : Issuer) (f : FM) : Nat := (s.read32 u f.a 0 + f.off.signExtend 32).toNat

/-- Checks of a barrier instruction: A and B are g registers (R91, R181, R207). -/
def barReq (f : FM) (u : Issuer) (helper : Bool) : Req :=
  { memReq false [gUse f.a false, gUse f.b false] with
    may := u.kind == .simt || (helper && u.kind == .helper), defers := orderDefers f.ord }

/-- The object an instruction names, below the kernel's declared count; else the illegal-operand trap (R207). The threads'
older accesses to it, and their older acquires, perform first (R300). -/
def State.withBarrier (s : State) (u : Issuer) (f : FM) (k : Group → Nat → Barrier → State) : State :=
  match s.barAlloc? u with
  | none => s.raiseHere u 0x02
  | some (g, a) =>
    let i := s.barIndex u f
    let older := s.olderAt u (.scratch u.core g.alloc (16 * i)) 16
    if g.kernel.bars ≤ i then s.raiseHere u 0x02
    else if !older.isEmpty then s.stall u (.drain older)
    else k g i (a.barrier i)

/-- `bar.init` (R207): parked paths wake with BRK seen as 1. -/
def execBarInit (f : FM) (s : State) : Host.Outcome State Fault Refusal :=
  issue s (.barInit f) (fun u => barReq f u false) fun u => s.withBarrier u f fun g i _ =>
    let v := (s.read64 u f.b 0).toNat
    if bits v 32 15 != 0 || bits v 0 32 = 0 then s.raiseHere u 0x02
    else s.releaseFirst u f.ord fun s =>
      let b : Barrier :=
        { pend := bits v 0 32, init := bits v 0 32, pmask := bits v 48 16, kind := bits v 47 1 == 1, brk := false, phase := 0 }
      ((s.modAlloc u.core g.alloc fun a => { a.setBarrier i b with arrived := Assoc.erase a.arrived i }).wakeBarrier
        u.core g.alloc i b true).retire u f.sc

/-- The arrivals of `bar.arr`: every thread in exec, or a count (R207). -/
def State.arrivals (s : State) (u : Issuer) (f : FM) : Nat :=
  if f.b = .none then u.lanes.length else bits (s.read64 u f.b 0).toNat 0 32

/-- The effect of `bar.arr` and `bar.arr.drop` on an object (R207). -/
def Barrier.arriveDrop (b : Barrier) (slot c : Nat) : Barrier :=
  if b.brk then b
  else { b with pmask := if b.pmask.testBit slot then b.pmask - 2 ^ slot else b.pmask, init := b.init - c }.arrive c

/-- `bar.arr` (R181, R207). -/
def execBarArr (f : FM) (s : State) : Host.Outcome State Fault Refusal :=
  issue s (.barArr f) (fun u => barReq f u true) fun u => s.withBarrier u f fun g i _ => s.releaseFirst u f.ord fun s =>
    (s.arriveAt u.core g.alloc i (some u.slot) fun b => b.arrive (s.arrivals u f)).retire u f.sc

/-- `bar.arr.drop` (R181, R207). -/
def execBarArrDrop (f : FM) (s : State) : Host.Outcome State Fault Refusal :=
  issue s (.barArrDrop f) (fun u => barReq f u true) fun u => s.withBarrier u f fun g i _ => s.releaseFirst u f.ord fun s =>
    (s.arriveAt u.core g.alloc i (some u.slot) fun b => b.arriveDrop u.slot (s.arrivals u f)).retire u f.sc

/-- The fault of a path that finds an object broken (R207). -/
def Issuer.broken (u : Issuer) (i : Nat) : FaultInfo := u.faultAt 0x0B (16 * i)

/-- `bar.wait`: the path goes on when the phase has moved on, faults on a broken object, and parks otherwise (R207). -/
def execBarWait (f : FM) (s : State) : Host.Outcome State Fault Refusal :=
  issue s (.barWait f) (fun u => barReq f u false) fun u => s.withBarrier u f fun _ i b =>
    let p := (s.read64 u f.b 0).setWidth 32
    let pass := (if f.ord.acquires then s.acquire u.core f.scp else s).retire u f.sc
    match u.path.woken with
    | some true => s.raise u (u.broken i)
    | some false => pass
    | none =>
      if b.brk then s.raise u (u.broken i)
      else if b.phase != p then pass
      else (s.modPath u.agent fun q => { q with parked := some (i, p) }).stall u .barrier

/-- `bar.test`: BRK, PHASE[30:0] and PEND (R207). -/
def execBarTest (f : FM) (s : State) : Host.Outcome State Fault Refusal :=
  issue s (.barTest f) (fun u => { barReq f u false with uses := [gUse f.d true, gUse f.a false, gUse f.b false] }) fun u =>
    s.withBarrier u f fun _ _ b =>
      (s.pushWrites u (resultWrites f.d false
        [(0, BitVec.ofNat 64 (b.brk.toNat * 2 ^ 63 + b.phase.toNat % 2 ^ 31 * 2 ^ 32 + b.pend))]) 1).retire u f.sc

end Sys2Proof.Machine
end

