-- ==== Sys2Proof/Machine/Fp.lean ====
section
/-! DEFINITION. Floating-point instructions on values: arithmetic, compares, conversions and transcendentals (opcodes
0x30 to 0x32, 0x38, 0x40; R132 to R150). -/
namespace Sys2Proof.Machine

/-! ## Shared: the environment, sources and results -/

/-- The mode that RM selects; RM 0 reads RND of fmt (R100). -/
def Issuer.mode (u : Issuer) (rm : RMode) : Mode :=
  match rm with
  | .rne => .rne | .rtz => .rtz | .rup => .rup | .rdn => .rdn
  | .fmt =>
    match bits u.fmt.toNat 0 2 with
    | 0 => .rne | 1 => .rtz | 2 => .rup | _ => .rdn

/-- FTZ of the fmt in use (R101). -/
def Issuer.ftz (u : Issuer) : Bool := u.fmt.getLsbD 2
/-- SAT of the fmt in use (R102). -/
def Issuer.satf (u : Issuer) : Bool := u.fmt.getLsbD 3

/-- The environment of an instruction that rounds and accepts S (R134). -/
def Issuer.fenv (u : Issuer) (rm : RMode) (s : Bool) : FEnv := { mode := u.mode rm, ftz := u.ftz, sat := s || u.satf }

/-- A function on one element applied to raw bits: to both halves of an .f16x2 (R97). -/
def onHalves1 (t : DType) (f : FFmt → Nat → Nat) (a : Nat) : DWord :=
  if t = .f16x2 then BitVec.ofNat 64 (f fp16 (bits a 0 16) + 2 ^ 16 * f fp16 (bits a 16 16))
  else BitVec.ofNat 64 (f (ffmt t) a)

/-- A function on two elements applied to raw bits (R97). -/
def onHalves2 (t : DType) (f : FFmt → Nat → Nat → Nat) (a b : Nat) : DWord :=
  if t = .f16x2 then
    BitVec.ofNat 64 (f fp16 (bits a 0 16) (bits b 0 16) + 2 ^ 16 * f fp16 (bits a 16 16) (bits b 16 16))
  else BitVec.ofNat 64 (f (ffmt t) a b)

/-- A function on three elements applied to raw bits (R97). -/
def onHalves3 (t : DType) (f : FFmt → Nat → Nat → Nat → Nat) (a b c : Nat) : DWord :=
  if t = .f16x2 then
    BitVec.ofNat 64 (f fp16 (bits a 0 16) (bits b 0 16) (bits c 0 16)
      + 2 ^ 16 * f fp16 (bits a 16 16) (bits b 16 16) (bits c 16 16))
  else BitVec.ofNat 64 (f (ffmt t) a b c)

/-- Latency of an FP result: 4, or 6 where a 64-bit type is involved (Table 1 of the opcode map, R83). -/
def fpLat (wide : Bool) : Nat := if wide then 6 else 4

/-- The sum of two elements (R137). -/
def fAdd (v : FEnv) (f : FFmt) (a b : Nat) : Nat := f.encode v (FVal.add v.mode (f.decode v.ftz a) (f.decode v.ftz b))
/-- The difference of two elements (R137). -/
def fSub (v : FEnv) (f : FFmt) (a b : Nat) : Nat :=
  f.encode v (FVal.add v.mode (f.decode v.ftz a) (f.decode v.ftz b).negate)
/-- The product of two elements (R137). -/
def fMul (v : FEnv) (f : FFmt) (a b : Nat) : Nat := f.encode v (FVal.mul (f.decode v.ftz a) (f.decode v.ftz b))
/-- a·b + c rounded once (R137). -/
def fMulAdd (v : FEnv) (f : FFmt) (a b c : Nat) : Nat :=
  f.encode v (FVal.mulAdd v.mode (f.decode v.ftz a) (f.decode v.ftz b) (f.decode v.ftz c))

/-- Checks of an FP instruction with one source of TY. -/
def fp1 (f : F3) (wd : Bool) : Req := { req1 Cls.fp f wd (isWide f.ty) with fmt := true }
/-- Checks of an FP instruction with two sources of TY. -/
def fp2 (f : F3) : Req := let w := isWide f.ty; { req2 Cls.fp f w w w with fmt := true }
/-- Checks of an FP instruction with three sources of TY. -/
def fp3 (f : F3) : Req := let w := isWide f.ty; { req3 Cls.fp f w w w w with fmt := true }

/-- An operation on one source of TY (R135). -/
def State.fpOp1 (s : State) (u : Issuer) (f : F3) (op : FFmt → Nat → Nat) : State :=
  let w := isWide f.ty
  s.result u f.u f.d w (fpLat w) f.sc fun t => onHalves1 f.ty op (s.src u w f.a t).toNat

/-- An operation on two sources of TY (R135). -/
def State.fpOp2 (s : State) (u : Issuer) (f : F3) (op : FFmt → Nat → Nat → Nat) : State :=
  let w := isWide f.ty
  s.result u f.u f.d w (fpLat w) f.sc fun t => onHalves2 f.ty op (s.src u w f.a t).toNat (s.src u w f.b t).toNat

/-! ## Opcode 0x30 (R137 to R139) -/

/-- `fadd` (R137). -/
def execFadd (f : F3) (s : State) : Host.Outcome State Fault Refusal :=
  issue s (.fadd f) (fun _ => fp2 f) fun u => s.fpOp2 u f (fAdd (u.fenv f.rm f.s))

/-- `fsub` (R137). -/
def execFsub (f : F3) (s : State) : Host.Outcome State Fault Refusal :=
  issue s (.fsub f) (fun _ => fp2 f) fun u => s.fpOp2 u f (fSub (u.fenv f.rm f.s))

/-- `fmul` (R137). -/
def execFmul (f : F3) (s : State) : Host.Outcome State Fault Refusal :=
  issue s (.fmul f) (fun _ => fp2 f) fun u => s.fpOp2 u f (fMul (u.fenv f.rm f.s))

/-- `fma` (R137). -/
def execFma (f : F3) (s : State) : Host.Outcome State Fault Refusal :=
  issue s (.fma f) (fun _ => fp3 f) fun u =>
    let w := isWide f.ty
    s.result u f.u f.d w (fpLat w) f.sc fun t =>
      onHalves3 f.ty (fMulAdd (u.fenv f.rm f.s)) (s.src u w f.a t).toNat (s.src u w f.b t).toNat (s.src u w f.c t).toNat

/-- `fmin` (R138). -/
def execFmin (f : F3) (s : State) : Host.Outcome State Fault Refusal :=
  issue s (.fmin f) (fun _ => fp2 f) fun u => s.fpOp2 u f fun k => k.minMax false u.ftz

/-- `fmax` (R138). -/
def execFmax (f : F3) (s : State) : Host.Outcome State Fault Refusal :=
  issue s (.fmax f) (fun _ => fp2 f) fun u => s.fpOp2 u f fun k => k.minMax true u.ftz

/-- `fabs`: clears the sign bit (R139). -/
def execFabs (f : F3) (s : State) : Host.Outcome State Fault Refusal :=
  issue s (.fabs f) (fun _ => fp1 f (isWide f.ty)) fun u => s.fpOp1 u f fun k a => bits a 0 (k.width - 1)

/-- `fneg`: inverts the sign bit (R139). -/
def execFneg (f : F3) (s : State) : Host.Outcome State Fault Refusal :=
  issue s (.fneg f) (fun _ => fp1 f (isWide f.ty)) fun u =>
    s.fpOp1 u f fun k a => k.signed (bits a (k.width - 1) 1 == 0) (bits a 0 (k.width - 1))

/-! ## Opcode 0x38 (R140) -/

/-- Checks of an FI instruction on FP values. -/
def fpImm (f : FI) (w : Bool) : Req :=
  { cls := Cls.fp, uni := f.u, uses := [dstUse f.u w f.d, srcUse w f.a], fmt := true }

/-- An operation with an immediate: fmt's RND and SAT (R140). -/
def State.fpImmOp (s : State) (u : Issuer) (f : FI) (wide : Bool) (op : FEnv → FFmt → Nat → Nat → Nat) : State :=
  let b := if wide then f.imm.toNat * 2 ^ 32 else f.imm.toNat
  s.result u f.u f.d wide (fpLat wide) f.sc fun t =>
    BitVec.ofNat 64 (op (u.fenv .fmt false) (if wide then fp64 else fp32) (s.src u wide f.a t).toNat b)

/-- `fadd.f32` with an immediate (R140). -/
def execFaddF32Imm (f : FI) (s : State) : Host.Outcome State Fault Refusal :=
  issue s (.faddF32Imm f) (fun _ => fpImm f false) fun u => s.fpImmOp u f false fAdd

/-- `fmul.f32` with an immediate (R140). -/
def execFmulF32Imm (f : FI) (s : State) : Host.Outcome State Fault Refusal :=
  issue s (.fmulF32Imm f) (fun _ => fpImm f false) fun u => s.fpImmOp u f false fMul

/-- `fadd.f64` with an immediate (R140). -/
def execFaddF64Imm (f : FI) (s : State) : Host.Outcome State Fault Refusal :=
  issue s (.faddF64Imm f) (fun _ => fpImm f true) fun u => s.fpImmOp u f true fAdd

/-- `fmul.f64` with an immediate (R140). -/
def execFmulF64Imm (f : FI) (s : State) : Host.Outcome State Fault Refusal :=
  issue s (.fmulF64Imm f) (fun _ => fpImm f true) fun u => s.fpImmOp u f true fMul

/-! ## Opcode 0x32 (R141) -/

/-- Checks of `fcmp`: D is a mask, or a g register where U = 1. -/
def fcmpReq (f : F3) : Req :=
  let w := isWide f.ty
  { cls := Cls.fp, uni := f.u, fmt := true
    uses := [{ o := f.d, role := if f.u then .greg else .mask, write := true }, srcUse w f.a, srcUse w f.b] }

/-- `fcmp` under a condition (R141). -/
def State.fcmpOp (s : State) (u : Issuer) (f : F3) (c : FCond) : State :=
  let w := isWide f.ty
  s.condResult u f.u f.d (fpLat w) f.sc fun t =>
    c.holds ((ffmt f.ty).decode u.ftz (s.src u w f.a t).toNat) ((ffmt f.ty).decode u.ftz (s.src u w f.b t).toNat)

/-- `fcmp.eq` (R141). -/
def execFcmpEq (f : F3) (s : State) : Host.Outcome State Fault Refusal :=
  issue s (.fcmpEq f) (fun _ => fcmpReq f) fun u => s.fcmpOp u f .eq
/-- `fcmp.ne` (R141). -/
def execFcmpNe (f : F3) (s : State) : Host.Outcome State Fault Refusal :=
  issue s (.fcmpNe f) (fun _ => fcmpReq f) fun u => s.fcmpOp u f .ne
/-- `fcmp.lt` (R141). -/
def execFcmpLt (f : F3) (s : State) : Host.Outcome State Fault Refusal :=
  issue s (.fcmpLt f) (fun _ => fcmpReq f) fun u => s.fcmpOp u f .lt
/-- `fcmp.le` (R141). -/
def execFcmpLe (f : F3) (s : State) : Host.Outcome State Fault Refusal :=
  issue s (.fcmpLe f) (fun _ => fcmpReq f) fun u => s.fcmpOp u f .le
/-- `fcmp.gt` (R141). -/
def execFcmpGt (f : F3) (s : State) : Host.Outcome State Fault Refusal :=
  issue s (.fcmpGt f) (fun _ => fcmpReq f) fun u => s.fcmpOp u f .gt
/-- `fcmp.ge` (R141). -/
def execFcmpGe (f : F3) (s : State) : Host.Outcome State Fault Refusal :=
  issue s (.fcmpGe f) (fun _ => fcmpReq f) fun u => s.fcmpOp u f .ge
/-- `fcmp.un` (R85, R141). -/
def execFcmpUn (f : F3) (s : State) : Host.Outcome State Fault Refusal :=
  issue s (.fcmpUn f) (fun _ => fcmpReq f) fun u => s.fcmpOp u f .un
/-- `fcmp.ord` (R85, R141). -/
def execFcmpOrd (f : F3) (s : State) : Host.Outcome State Fault Refusal :=
  issue s (.fcmpOrd f) (fun _ => fcmpReq f) fun u => s.fcmpOp u f .ord

/-! ## Opcode 0x31 (R142 to R148) -/

/-- `fclass` (R142). -/
def execFclass (f : F3) (s : State) : Host.Outcome State Fault Refusal :=
  issue s (.fclass f) (fun _ => fp1 f false) fun u =>
    s.result u f.u f.d false (fpLat (isWide f.ty)) f.sc fun t =>
      BitVec.ofNat 64 ((ffmt f.ty).classify (s.src u (isWide f.ty) f.a t).toNat)

/-- `frnd` (R143). -/
def execFrnd (f : F3) (s : State) : Host.Outcome State Fault Refusal :=
  issue s (.frnd f) (fun _ => fp1 f (isWide f.ty)) fun u =>
    s.fpOp1 u f fun k a => k.encode { mode := u.mode f.rm, ftz := u.ftz } ((k.decode u.ftz a).roundIntegral (u.mode f.rm))

/-- `fcvt` (R84, R144). -/
def execFcvt (f : F3) (s : State) : Host.Outcome State Fault Refusal :=
  let st := typeOfCode f.x.toNat
  issue s (.fcvt f) (fun _ => { req1 Cls.fp f (isWide f.ty) (isWide st) with fmt := true }) fun u =>
    s.result u f.u f.d (isWide f.ty) (fpLat (isWide f.ty || isWide st)) f.sc fun t =>
      BitVec.ofNat 64 ((ffmt f.ty).encode (u.fenv f.rm f.s) ((ffmt st).decode u.ftz (s.src u (isWide st) f.a t).toNat))

/-- `f2i` (R145): the result is extended as an integer of TY (R94, R133). -/
def execF2i (f : F3) (s : State) : Host.Outcome State Fault Refusal :=
  let st := typeOfCode f.x.toNat
  issue s (.f2i f) (fun _ => { req1 Cls.fp f (isWide f.ty) (isWide st) with fmt := true }) fun u =>
    s.result u f.u f.d (isWide f.ty) (fpLat (isWide f.ty || isWide st)) f.sc fun t =>
      BitVec.ofInt 64 (((ffmt st).decode u.ftz (s.src u (isWide st) f.a t).toNat).toInteger (u.mode f.rm)
        (typeWidth f.ty) (isSigned f.ty))

/-- `i2f` (R146). -/
def execI2f (f : F3) (s : State) : Host.Outcome State Fault Refusal :=
  let st := typeOfCode f.x.toNat
  issue s (.i2f f) (fun _ => { req1 Cls.fp f (isWide f.ty) (isWide st) with fmt := true }) fun u =>
    s.result u f.u f.d (isWide f.ty) (fpLat (isWide f.ty || isWide st)) f.sc fun t =>
      BitVec.ofNat 64 ((ffmt f.ty).encode (u.fenv f.rm f.s) (.ofInt (intValue st (s.src u (isWide st) f.a t))))

/-- `fldexp` (R147): n is one .s32 register. -/
def execFldexp (f : F3) (s : State) : Host.Outcome State Fault Refusal :=
  let w := isWide f.ty
  issue s (.fldexp f) (fun _ => { req2 Cls.fp f w w false with fmt := true }) fun u =>
    s.result u f.u f.d w (fpLat w) f.sc fun t =>
      onHalves1 f.ty (fun k a => k.encode (u.fenv f.rm f.s) ((k.decode u.ftz a).scale (s.read32 u f.b t).toInt))
        (s.src u w f.a t).toNat

/-- `ffrexp` (R148). -/
def execFfrexp (f : F3) (s : State) : Host.Outcome State Fault Refusal :=
  issue s (.ffrexp f) (fun _ => fp1 f (isWide f.ty)) fun u =>
    s.fpOp1 u f fun k a => k.encode { ftz := u.ftz } (k.decode u.ftz a).significand

/-- `ffrexp.exp` (R148). -/
def execFfrexpExp (f : F3) (s : State) : Host.Outcome State Fault Refusal :=
  issue s (.ffrexpExp f) (fun _ => fp1 f false) fun u =>
    s.result u f.u f.d false (fpLat (isWide f.ty)) f.sc fun t =>
      BitVec.ofInt 64 ((ffmt f.ty).decode u.ftz (s.src u (isWide f.ty) f.a t).toNat).exponent

/-! ## Opcode 0x40 (R149, R150) -/

/-- Checks of a transcendental. -/
def sfuReq (f : F3) : Req := let w := isWide f.ty; { req1 Cls.sfu f w w with fmt := true }

/-- A transcendental, with latency 8. -/
def State.sfuOp (s : State) (u : Issuer) (f : F3) (op : FFmt → FEnv → FVal → Nat) (v : FEnv) : State :=
  let w := isWide f.ty
  s.result u f.u f.d w 8 f.sc fun t =>
    BitVec.ofNat 64 (op (ffmt f.ty) v ((ffmt f.ty).decode u.ftz (s.src u w f.a t).toNat))

/-- The environment of a transcendental that reads no rounding mode (R149). -/
def Issuer.rneEnv (u : Issuer) (s : Bool) : FEnv := { u.fenv .rne s with mode := .rne }

/-- `frcp` (R149). -/
def execFrcp (f : F3) (s : State) : Host.Outcome State Fault Refusal :=
  issue s (.frcp f) (fun _ => sfuReq f) fun u =>
    s.sfuOp u f (fun k v a => k.encode v a.recip) (u.fenv f.rm f.s)
/-- `frsq` (R149). -/
def execFrsq (f : F3) (s : State) : Host.Outcome State Fault Refusal :=
  issue s (.frsq f) (fun _ => sfuReq f) fun u => s.sfuOp u f (fun k v a => k.encode v a.rsqrt) (u.rneEnv f.s)
/-- `fsqrt` (R149). -/
def execFsqrt (f : F3) (s : State) : Host.Outcome State Fault Refusal :=
  issue s (.fsqrt f) (fun _ => sfuReq f) fun u =>
    s.sfuOp u f (fun k v a => k.encode v a.sqrt) (u.fenv f.rm f.s)
/-- `fexp2` (R149). -/
def execFexp2 (f : F3) (s : State) : Host.Outcome State Fault Refusal :=
  issue s (.fexp2 f) (fun _ => sfuReq f) fun u => s.sfuOp u f FFmt.exp2 (u.rneEnv f.s)
/-- `flog2` (R149). -/
def execFlog2 (f : F3) (s : State) : Host.Outcome State Fault Refusal :=
  issue s (.flog2 f) (fun _ => sfuReq f) fun u => s.sfuOp u f FFmt.log2 (u.rneEnv f.s)
/-- `fsin` (R149). -/
def execFsin (f : F3) (s : State) : Host.Outcome State Fault Refusal :=
  issue s (.fsin f) (fun _ => sfuReq f) fun u => s.sfuOp u f (fun k v a => k.trig v false a) (u.rneEnv f.s)
/-- `fcos` (R149). -/
def execFcos (f : F3) (s : State) : Host.Outcome State Fault Refusal :=
  issue s (.fcos f) (fun _ => sfuReq f) fun u => s.sfuOp u f (fun k v a => k.trig v true a) (u.rneEnv f.s)

end Sys2Proof.Machine
end

