-- ==== Sys2Proof/Machine/Block.lean ====
section
/-! DEFINITION. Block-format instructions and the format register (opcode 0x34; R104 to R108, R151 to R157). -/
namespace Sys2Proof.Machine

/-- A BFP block: the shared exponent and the mantissas by element (R107). -/
structure Block where
  ex   : Nat
  mant : List (Nat × Int)
deriving DecidableEq, Repr

/-- A value under saturation: an infinity becomes the largest finite value and a NaN +0 (R102, R152). -/
def FFmt.saturate (f : FFmt) (a : FVal) : FVal :=
  match a with
  | .nan _ _ => .zero false
  | .inf s => f.decode false (f.signed s (f.inf - 1))
  | x => x

/-- The floor of log2 of a nonzero number's magnitude. -/
def FVal.ilog2 (a : FVal) : Option Int :=
  match a with
  | .num _ m e => if m = 0 then none else some (e + Nat.log2 m)
  | _ => none

/-- A number rounded to an integer after scaling by 2^k, clamped to a mantissa of width w (R152). -/
def mantissaOf (mode : Mode) (w : Nat) (k : Int) (a : FVal) : Int :=
  match a with
  | .num s m e =>
    let n : Int := roundNat mode s m (e + k)
    clampInt w true (if s then -n else n)
  | _ => 0

/-- The greatest of a list of integers. -/
def maxOf (l : List Int) : Option Int := best (fun a b => b < a) l

/-- The block of some elements (R152). -/
def packBlock (mode : Mode) (w : Nat) (xs : List (Nat × FVal)) : Block :=
  let finite := xs.all fun x => match x.2 with | .num _ _ _ => true | _ => false
  if !finite then { ex := 255, mant := xs.map fun x => (x.1, 0) }
  else match maxOf (xs.filterMap fun x => x.2.ilog2) with
    | none => { ex := 0, mant := xs.map fun x => (x.1, 0) }
    | some e =>
      let ex := (if e + 128 < 1 then 1 else if 254 < e + 128 then 254 else e + 128).toNat
      { ex := ex, mant := xs.map fun x => (x.1, mantissaOf mode w (127 + (w : Int) - 1 - (ex : Int)) x.2) }

/-- The value of an element (R107). -/
def elementValue (w ex : Nat) (m : Int) : FVal :=
  if ex = 0 then .zero false else .ofScaled m ((ex : Int) - 127 - ((w : Int) - 1))

/-- FT: the floating type of X[5:4] (Table 4). -/
def blockFmt (x : Byte) : FFmt :=
  match bits x.toNat 4 2 with
  | 0 => fp32 | 1 => fp16 | _ => bf16

/-- The width of X[2:0]: w − 2 is held (R60). -/
def blockWidth (x : Byte) : Nat := bits x.toNat 0 3 + 2

/-- The block of the lanes of block b (R151, R152). -/
def State.blockOf (s : State) (u : Issuer) (f : F3) (lanes : List Nat) (b : Nat) : Block :=
  let v := u.fenv f.rm f.s
  let k := blockFmt f.x
  packBlock v.mode (blockWidth f.x) ((lanes.filter fun t => t / 32 == b).map fun t =>
    let a := k.decode v.ftz (s.read32 u f.a t).toNat
    (t % 32, if v.sat then k.saturate a else a))

/-- The blocks of an instruction, over its lanes. -/
def State.blocksOf (s : State) (u : Issuer) (f : F3) : List Block :=
  (List.range 4).map fun b => s.blockOf u f (u.over f.u) b

/-- The block and mantissa of a lane. -/
def blockLane (bs : List Block) (t : Nat) : Nat × Int :=
  match bs[t / 32]? with
  | none => (0, 0)
  | some b => (b.ex, (b.mant.lookup (t % 32)).getD 0)

/-- The bits of a block's mantissas, packed from the least significant bit upward (R108, R153). -/
def mantBits (w : Nat) (mant : List (Nat × Int)) : Nat :=
  mant.foldl (fun n p => n + Int.toNat (p.2 % ((2 ^ w : Nat) : Int)) * 2 ^ (w * p.1)) 0

/-- Checks of `bfpk`, `bfup` and `bfq`. -/
def blockReq (f : F3) : Req := { req1 Cls.fp f false false with fmt := true }

/-- `bfpk`: element form (R152, R153). -/
def execBfpk (f : F3) (s : State) : Host.Outcome State Fault Refusal :=
  issue s (.bfpk f) (fun _ => blockReq f) fun u =>
    let bs := s.blocksOf u f
    s.result u f.u f.d false 4 f.sc fun t =>
      let e := blockLane bs t
      BitVec.ofNat 64 (e.1 * 256 + (e.2 % 256).toNat)

/-- `bfpk.pk`: packed form (R152, R153). -/
def execBfpkPk (f : F3) (s : State) : Host.Outcome State Fault Refusal :=
  issue s (.bfpkPk f) (fun _ => blockReq f) fun u =>
    let bs := s.blocksOf u f
    let w := blockWidth f.x
    s.result u f.u f.d false 4 f.sc fun t =>
      match bs[t / 32]? with
      | none => 0
      | some b =>
        if t % 32 < w then BitVec.ofNat 64 (bits (mantBits w b.mant) (32 * (t % 32)) 32)
        else if t % 32 = 31 then BitVec.ofNat 64 b.ex else 0

/-- `bfup`: lanes whose E is 255 raise poisoned data with fault address 0, the others complete (R154). -/
def execBfup (f : F3) (s : State) : Host.Outcome State Fault Refusal :=
  issue s (.bfup f) (fun _ => blockReq f) fun u =>
    let w := blockWidth f.x
    let invalid := fun t => bits (s.read32 u f.a t).toNat 8 8 == 255
    let bad := if f.u then (if invalid 0 then u.lanes else []) else u.lanes.filter invalid
    s.withFaults u (bad.map fun t => (t, { cause := 0x09, faddr := 0, pc := u.path.wordAddr })) fun s u =>
      s.result u f.u f.d false 4 f.sc fun t =>
        let a := (s.read32 u f.a t).toNat
        BitVec.ofNat 64 ((blockFmt f.x).encode (u.fenv f.rm f.s)
          (elementValue w (bits a 8 8) (wrapInt w true (bits a 0 w))))

/-- `bfq`: `bfpk` and `bfup` in one, in the source format; an element of an invalid block is the default quiet NaN
(R155). -/
def execBfq (f : F3) (s : State) : Host.Outcome State Fault Refusal :=
  issue s (.bfq f) (fun _ => blockReq f) fun u =>
    let bs := s.blocksOf u f
    let k := blockFmt f.x
    s.result u f.u f.d false 4 f.sc fun t =>
      let e := blockLane bs t
      BitVec.ofNat 64 (if e.1 = 255 then k.encode {} .qnan
        else k.encode (u.fenv f.rm f.s) (elementValue (blockWidth f.x) e.1 e.2))

/-- WA or WB of an fmt holds 0x7 (R104). -/
def fmtBad (x : DWord) : Bool := bits x.toNat 4 3 == 7 || bits x.toNat 7 3 == 7

/-- The bits of fmt that are not reserved (Table 3 of the format chapter). -/
def fmtMask : DWord := 0x1BFF

/-- The value that `fmtset` writes: whole, or under the mask B (R156). -/
def fmtNew (old a b : DWord) (masked : Bool) : DWord :=
  (if masked then (old &&& ~~~b) ||| (a &&& b) else a) &&& fmtMask

/-- `fmtset` (R104, R105, R156). -/
def execFmtset (f : F3) (s : State) : Host.Outcome State Fault Refusal :=
  issue s (.fmtset f)
    (fun _ => { cls := Cls.fp, uni := f.u, uses := [{ o := f.a, role := .greg }, { o := f.b, role := .greg }], fmt := true })
    fun u =>
      let x := fmtNew u.fmt (s.read64 u f.a 0) (s.read64 u f.b 0) (f.b != Opnd.none)
      if fmtBad x then s.raiseHere u 0x02
      else (s.pushWrites u [(.fmt, [(0, x)])] 4).retire u f.sc

/-- `fmtget` (R157). -/
def execFmtget (f : F3) (s : State) : Host.Outcome State Fault Refusal :=
  issue s (.fmtget f)
    (fun _ => { cls := Cls.fp, uni := f.u, uses := [{ o := f.d, role := .greg, write := true }], fmt := true })
    fun u => (s.pushWrites u (resultWrites f.d false [(0, u.fmt)]) 4).retire u f.sc

end Sys2Proof.Machine
end

