-- ==== Sys2Proof/Machine/Mx.lean ====
section
/-! DEFINITION. Conversions between BFP and MX blocks with seeded stochastic rounding (R107, R108, R114). -/
namespace Sys2Proof.Machine

/-- An exact number: sign, and magnitude m · 2^e. -/
structure Dyadic where
  neg : Bool
  m   : Nat
  e   : Int
deriving DecidableEq, Repr

/-- An MX element type (Table 5 of the format chapter): the code, and for a floating type its fields. -/
structure MxType where
  code : Nat
deriving DecidableEq, Repr

/-- Exponent and mantissa bits of a floating element type. -/
def MxType.fmt (t : MxType) : FFmt :=
  match t.code with
  | 0 => { eb := 4, fb := 3 } | 1 => { eb := 5, fb := 2 } | 2 => { eb := 3, fb := 2 } | 3 => { eb := 2, fb := 3 } | _ => { eb := 2, fb := 1 }

/-- The element width b. -/
def MxType.width (t : MxType) : Nat := if t.code ≤ 1 || t.code = 5 then 8 else if t.code = 4 then 4 else 6

/-- emax of a type. -/
def MxType.emax (t : MxType) : Int :=
  match t.code with
  | 0 => 8 | 1 => 15 | 2 => 4 | 3 => 2 | 4 => 2 | _ => 0

/-- The magnitude bits of the largest finite value. -/
def MxType.maxBits (t : MxType) : Nat :=
  match t.code with
  | 0 => 0x7E | 1 => 0x7B | 2 => 0x1F | 3 => 0x1F | 4 => 7 | _ => 127

/-- The bytes of an MX block, and of a BFP block of width w (R108, R114). -/
def mxBytes (t : MxType) : Nat := 1 + 4 * t.width
/-- The bytes of a BFP block (R108). -/
def bfpBytes (w : Nat) : Nat := 1 + 4 * w

/-- The random value r(j) of a seed (R114). -/
def randomAt (seed j : Nat) : Nat :=
  let m := 2 ^ 64
  let z := (seed + 0x9E3779B97F4A7C15 * (j + 1)) % m
  let z := ((z ^^^ (z / 2 ^ 30)) * 0xBF58476D1CE4E5B9) % m
  let z := ((z ^^^ (z / 2 ^ 27)) * 0x94D049BB133111EB) % m
  (z ^^^ (z / 2 ^ 31)) / 2 ^ 48

/-- The magnitude m · 2^k rounded stochastically to an integer (R114). -/
def stochastic (r m : Nat) (k : Int) : Nat :=
  if 0 ≤ k then m * 2 ^ k.toNat
  else
    let d := 2 ^ k.natAbs
    m / d + (if r < 2 ^ 16 * (m % d) / d then 1 else 0)

/-- The floor of log2 of the greatest magnitude; none where every element is zero. -/
def topExponent (l : List Dyadic) : Option Int :=
  maxOf (l.filterMap fun x => if x.m = 0 then none else some (x.e + Nat.log2 x.m))

/-- An integer between bounds. -/
def clampTo (lo hi x : Int) : Int := if x < lo then lo else if hi < x then hi else x

/-- The bits of an element nearest to an exact value, rounded with r (R114). -/
def MxType.encode (t : MxType) (r : Nat) (x : Dyadic) : Nat :=
  if t.code = 5 then
    let n := Nat.min 127 (stochastic r x.m (x.e + 6))
    if x.neg && n != 0 then 256 - n else n
  else
    let f := t.fmt
    let q : Int := if x.m = 0 then f.qmin else x.e + Nat.log2 x.m - f.fb
    let q := if q < f.qmin then f.qmin else q
    let n := Nat.min t.maxBits (stochastic r x.m (x.e - q) + (q - f.qmin).toNat * 2 ^ f.fb)
    if x.neg && n != 0 then n + 2 ^ (t.width - 1) else n

/-- The value of an element's bits; none for a NaN or an infinity (R114). -/
def MxType.decode (t : MxType) (raw : Nat) : Option Dyadic :=
  if t.code = 5 then
    let n := (BitVec.ofNat 8 raw).toInt
    some { neg := n < 0, m := n.natAbs, e := -6 }
  else
    let f := t.fmt
    let neg := bits raw (t.width - 1) 1 == 1
    let ex := bits raw f.fb f.eb
    let fr := bits raw 0 f.fb
    if (t.code = 0 && ex = 15 && fr = 7) || (t.code = 1 && ex = 31) then none
    else if ex = 0 then some { neg := neg, m := fr, e := f.qmin }
    else some { neg := neg, m := 2 ^ f.fb + fr, e := f.qmin + ex - 1 }

/-- The 32 fields of a width in the bytes after a block's first (R108). -/
def blockFields (w : Nat) (bs : List Byte) : List Nat :=
  let n := ofBytes (bs.drop 1)
  (List.range 32).map fun i => bits n (w * i) w

/-- A block of a first byte and 32 fields (R108). -/
def mxFields (w first : Nat) (fs : List Nat) : List Byte :=
  BitVec.ofNat 8 first :: toBytes (4 * w) (((List.range 32).map fun i => fs.getD i 0 % 2 ^ w * 2 ^ (w * i)).foldl (· + ·) 0)

/-- A BFP block converted to an MX block; its first element has number j (R114). -/
def bfpToMx (t : MxType) (w seed j : Nat) (bs : List Byte) : List Byte :=
  let ex := valueAt bs 0 1
  if ex = 255 then mxFields t.width 255 []
  else
    let vs := (blockFields w bs).map fun raw =>
      let m := (BitVec.ofNat w raw).toInt
      ({ neg := m < 0, m := if ex = 0 then 0 else m.natAbs, e := (ex : Int) - 127 - ((w : Int) - 1) } : Dyadic)
    match topExponent vs with
    | none => mxFields t.width 0 []
    | some top =>
      let x := clampTo 0 254 (top - t.emax + 127)
      mxFields t.width x.toNat ((vs.zip (List.range 32)).map fun v => t.encode (randomAt seed (j + v.2)) { v.1 with e := v.1.e + 127 - x })

/-- An MX block converted to a BFP block (R114). -/
def mxToBfp (t : MxType) (w seed j : Nat) (bs : List Byte) : List Byte :=
  let x := valueAt bs 0 1
  let vs := (blockFields t.width bs).map t.decode
  if x = 255 || vs.any Option.isNone then mxFields w 255 []
  else
    let vs := vs.filterMap fun v => v.map fun d => { d with e := d.e + x - 127 }
    match topExponent vs with
    | none => mxFields w 0 []
    | some top =>
      let ex := clampTo 1 254 (top + 128)
      mxFields w ex.toNat ((vs.zip (List.range 32)).map fun v =>
        let n : Int := stochastic (randomAt seed (j + v.2)) v.1.m (v.1.e + 127 + w - 1 - ex)
        (clampTo (-(2 ^ (w - 1) : Nat)) ((2 ^ (w - 1) : Nat) - 1) (if v.1.neg then -n else n) % (2 ^ w : Nat)).toNat)

end Sys2Proof.Machine
end

