-- ==== Sys2Proof/Machine/Copy.lean ====
section
/-! DEFINITION. Copy requests: the checks of a record, the kinds that one package carries out, and their completion (R114,
R241 to R244, R313, R370, R371, R411). -/
namespace Sys2Proof.Machine

/-! ## The record (Table 5 of the asynchronous-command chapter) -/

/-- A bit of FLAGS. -/
def Cmd.flag (c : Cmd) (k : Nat) : Bool := (c.field 1 1).testBit k
/-- KIND. -/
def Cmd.copyKind (c : Cmd) : Nat := c.field 0 1
/-- LEN. -/
def Cmd.len (c : Cmd) : Nat := c.field 0x0C 4
/-- ROWS. -/
def Cmd.rows (c : Cmd) : Nat := c.field 0x30 4
/-- AUX. -/
def Cmd.aux (c : Cmd) : Nat := c.field 0x38 8
/-- The source of a byte of a row, or of a row of a gather by its index. -/
def Cmd.src (c : Cmd) (row off : Nat) : Loc :=
  (if c.flag 0 then Loc.scratch (c.field 0x10 8) else .global (c.field 0x10 8)).plus (row * c.field 0x20 8 + off)
/-- The destination of a byte of a row. -/
def Cmd.dst (c : Cmd) (row off : Nat) : Loc :=
  (if c.flag 1 then Loc.scratch (c.field 0x18 8) else .global (c.field 0x18 8)).plus (row * c.field 0x28 8 + off)
/-- The bytes over which a command makes its progress. -/
def Cmd.total (c : Cmd) : Nat := if c.copyKind = 2 || c.copyKind = 3 then c.len * c.rows else c.len

/-- The MX element type of OPX (R114). -/
def Cmd.mxType (c : Cmd) : MxType := { code := bits (c.field 0x0A 2) 0 4 }
/-- The BFP width of the fmt copy (R104, R114). -/
def Cmd.bfpWidth (c : Cmd) : Nat := bits c.fmt.toNat 4 3 + 2
/-- A conversion from MX to BFP. -/
def Cmd.fromMx (c : Cmd) : Bool := bits (c.field 0x0A 2) 4 4 = 1
/-- Bytes of a source block, and of a destination block, of a conversion. -/
def Cmd.blockSizes (c : Cmd) : Nat × Nat :=
  let m := mxBytes c.mxType
  let b := bfpBytes c.bfpWidth
  if c.fromMx then (m, b) else (b, m)

/-! ## The checks at `cpkick` (R241 to R243, R411) -/

/-- The element type and operation of a reduction are allowed, and the data are whole elements (R370, R411). -/
def Cmd.reduceOk (c : Cmd) (collOk : Nat → Bool) : Bool :=
  let opx := c.field 0x0A 2
  let ty := bits opx 0 4
  bits opx 4 4 ≤ 2 && bits opx 8 8 = 0 &&
  (if c.copyKind = 6 then
      (ty ≤ 3 || (0xA ≤ ty && ty ≤ 0xD)) && c.len % opxBytes ty = 0 && c.field 0x10 8 % opxBytes ty = 0 && c.field 0x18 8 % opxBytes ty = 0
   else
      (ty ≤ 3 || ty = 0xA || ty = 0xC || ty = 0xD || ty = 0xF) &&
      c.len % (if ty = 0xF then bfpBytes c.bfpWidth else opxBytes ty) = 0 && c.aux < 64 && collOk c.aux)

/-- A tag that names a tile at or above a group's number of tiles is illegal (R38, R226). -/
def tagOk (tiles t : Nat) : Bool := t < tiles || 48 ≤ t

/-- The checks of a copy record whose cause is the illegal-operand trap: for a group with its declared tiles and barriers and the kind
of a barrier object, or for a submission slot, in which the tag fields and the barrier are not used (R241, R243, R417). -/
def Cmd.copyOk (c : Cmd) (tiles bars : Nat) (byteBar : Nat → Bool) (collOk : Nat → Bool) : Bool :=
  let k := c.copyKind
  let ordered := c.flag 3 || c.flag 4
  1 ≤ k && k ≤ 10 && c.field 1 1 < 32 &&
  c.field 2 1 < 8 && (!ordered || (2 ≤ c.field 2 1 && c.field 2 1 ≤ 6)) &&
  c.field 3 1 < 16 && bits (c.field 3 1) 0 3 ≤ 4 && (bits (c.field 3 1) 3 1 = 0 || 48 ≤ c.field 8 1) &&
  (c.inTags.all (tagOk tiles)) &&
  (!c.flag 2 || (c.field 9 1 < bars && byteBar (c.field 9 1))) &&
  1 ≤ c.len && c.len ≤ 2 ^ 31 && 1 ≤ c.rows && c.rows ≤ 2 ^ 31 && c.field 0x34 4 = 0 &&
  (k = 2 || k = 3 || k = 7 || c.rows = 1) &&
  (k = 1 || k = 2 || k = 10 || (!c.flag 0 && (k = 3 || !c.flag 1))) &&
  (if k = 6 || k = 7 then c.reduceOk collOk
   else if k = 10 then
     bits (c.field 0x0A 2) 0 4 ≤ 5 && bits (c.field 0x0A 2) 4 4 ≤ 1 && bits (c.field 0x0A 2) 8 8 = 0 && c.len % c.blockSizes.1 = 0
   else c.field 0x0A 2 = 0)

/-- The lowest byte past an allocation of rows of scratchpad at a signed stride (R242): an address below 0 stands, modulo
2^64, above every other. -/
def rowsBeyond (size base len rows : Nat) (stride : Int) : Option Nat :=
  if 0 ≤ stride then
    -- the first row that reaches past the end
    let r := if base + len > size then 0 else if stride = 0 then rows else (size - base - len) / stride.toNat + 1
    if r < rows then some (Nat.max size (base + r * stride.toNat)) else none
  else
    let d := stride.natAbs
    -- rows at addresses of 0 or above, of which the last that reaches past the end lies lowest
    let up := Nat.min rows (base / d + 1)
    let past := if base + len ≤ size then 0 else Nat.min up ((base + len - size - 1) / d + 1)
    if 0 < past then some (Nat.max size (base - (past - 1) * d))
    else if up < rows then some (2 ^ 64 - ((rows - 1) * d - base) % 2 ^ 64) else none

/-- The least of two optional numbers. -/
def leastOf : Option Nat → Option Nat → Option Nat
  | some a, some b => some (Nat.min a b)
  | some a, none => some a
  | none, b => b

/-- The lowest byte of the scratchpad ranges of a copy record past the group's allocation (R242). -/
def Cmd.copyBeyond (c : Cmd) (size : Nat) : Option Nat :=
  let rows := if c.copyKind = 2 || c.copyKind = 3 then c.rows else 1
  let out := if c.copyKind = 10 then c.len / c.blockSizes.1 * c.blockSizes.2 else c.len
  let part := fun (on : Bool) (base len : Nat) (stride : Nat) =>
    if on then rowsBeyond size base len rows (BitVec.ofNat 64 stride).toInt else none
  leastOf (part (c.flag 0) (c.field 0x10 8) c.len (c.field 0x20 8))
    (leastOf (part (c.flag 1) (c.field 0x18 8) out (c.field 0x28 8)) (part (c.copyKind = 3) (c.aux % 2 ^ 32) 4 4))

/-! ## Progress (R240, R243, R244; log 13) -/

/-- A step of a copy: what it comes to, and by how many bytes of progress and of destination. -/
abbrev CopyStep := State → Nat → Cmd → Nat → Reach (State × Nat × Nat)

/-- The bytes of a copy's row from a source to a destination. -/
def moveBytes (s : State) (id : Nat) (c : Cmd) (src dst : Loc) (n : Nat) : Reach (State × Nat × Nat) :=
  match s.engineRead id c src n 1 false with
  | .fault f => .fault f
  | .wait s => .wait s
  | .done (s, bs) => match s.engineWrite id c dst bs false with
    | .fault f => .fault f
    | .wait s => .wait s
    | .done s => .done (s, n, n)

/-- Kind 1, a portion of at most so many bytes. -/
def copyStep : CopyStep := fun s id c n =>
  let n := Nat.min n (c.len - c.bytes)
  moveBytes s id c (c.src 0 c.bytes) (c.dst 0 c.bytes) n

/-- Kind 2, a portion within a row. -/
def stridedStep : CopyStep := fun s id c n =>
  let row := c.bytes / c.len
  let off := c.bytes % c.len
  moveBytes s id c (c.src row off) (c.dst row off) (Nat.min n (c.len - off))

/-- Kind 3, a portion within a row; the index is read when its row begins (R242). -/
def gatherStep : CopyStep := fun s id c n =>
  let row := c.bytes / c.len
  let off := c.bytes % c.len
  let x := if off = 0 then ofBytes (s.scratchRead c.core c.alloc (c.aux % 2 ^ 32 + 4 * row) 4) else c.row
  match moveBytes s id c (c.src x off) (c.dst row off) (Nat.min n (c.len - off)) with
  | .done (s, k, w) => .done (s.modCmd id fun c => { c with row := x }, k, w)
  | r => r

/-- Kind 4: the pattern from its byte 0 (R241, R370). -/
def fillStep : CopyStep := fun s id c n =>
  let n := Nat.min n (c.len - c.bytes)
  let bs := (List.range n).map fun k => (toBytes 8 c.aux).getD ((c.bytes + k) % 8) 0
  match s.engineWrite id c (c.dst 0 c.bytes) bs true with
  | .fault f => .fault f
  | .wait s => .wait s
  | .done s => .done (s, n, n)

/-- The lowest offset at which two ranges differ, or all ones (R370). -/
def firstMismatch (a b : List Byte) : Nat :=
  ((List.range a.length).find? fun k => a[k]? != b[k]?).getD 0xFFFFFFFFFFFFFFFF

/-- Kind 5: both ranges are read and compared, then the word at AUX is written (R370). -/
def compareStep : CopyStep := fun s id c _ =>
  match c.result with
  | some r => (match s.engineWrite id c (.global c.aux) r false with
    | .done s => .done (s.modCmd id fun c => { c with row := 1 }, 0, 0)
    | .wait s => .wait s
    | .fault f => .fault f)
  | none => match s.engineRead id c (c.src 0 0) c.len 1 true with
    | .fault f => .fault f
    | .wait s => .wait s
    | .done (s, a) => match s.engineRead id c (c.dst 0 0) c.len 1 true with
      | .fault f => .fault f
      | .wait s => .wait s
      | .done (s, b) => .done (s.modCmd id fun c => { c with result := some (toBytes 8 (firstMismatch a b)) }, c.len, c.len)

/-- The environment of a command's single roundings (R102, R370). -/
def Cmd.reduceEnv (c : Cmd) : FEnv := Sys2Proof.Machine.reduceEnv c.fmt

/-- Kind 6, one element: an indivisible update at its home, which orders those of the command to one place (R370). -/
def reduceOne (s : State) (id : Nat) (c : Cmd) : Reach (State × Nat × Nat) :=
  let opx := c.field 0x0A 2
  let n := opxBytes (bits opx 0 4)
  match s.engineRead id c (c.src 0 c.bytes) n n true with
  | .fault f => .fault f
  | .wait s => .wait s
  | .done (s, bs) =>
    let va := match c.dst 0 c.bytes with
      | .global a => a
      | .scratch a => a
    match s.engineUpdate id c (.pool opx c.fmt) va n (ofBytes bs) true with
    | .fault f => .fault f
    | .wait s => .wait s
    | .done s => .done (s, n, n)

/-- The lines of a range of borrowed memory, with the VAs of its parts in them, as Booth entry and line within it, or what keeps from the
first part that is not reached; parts in the package's own pool memory have none. Lines that the command has asked for are not checked
again (R359, R371). -/
def State.rangeLines (s : State) (id : Nat) (c : Cmd) (va n : Nat) (active : Bool) : Except FaultInfo (List (Nat × Nat × Nat)) :=
  (lineParts va n).foldl (fun acc p => match acc with
    | .error e => .error e
    | .ok l => match s.askedLine? c p.1 with
      | some x => .ok (l ++ [(p.1, x)])
      | none => match s.engineTarget id c .read p.1 p.2 1 true with
        | .error e => .error e
        | .ok (.lent e off) =>
          (match if active then s.leaseCause c.ctx e off p.2 true else none with
           | some k => .error (c.faultInfo id k p.1 (s.borrowed e).lid)
           | none => .ok (l ++ [(p.1, e, off / 64)]))
        | .ok _ => .ok l) (.ok [])

/-- Kind 8: the lines of a portion are asked for, and the portion ends when they are present; one that comes poisoned is an error
(R367, R371). -/
def prefetchStep : CopyStep := fun s id c n =>
  let n := Nat.min n (c.len - c.bytes)
  match s.rangeLines id c (c.field 0x10 8 + c.bytes) n true with
  | .error e => s.kept e
  | .ok ls =>
    match ls.find? fun l => c.got.any fun g => g.1 = l.2 && g.2.isNone with
    | some l => .fault (c.faultInfo id 0x09 l.1 0)
    | none =>
      let missing := ls.filter fun l => !(c.got.any fun g => g.1 = l.2) && (s.lentRead? l.2.1 l.2.2).isNone
      if missing.isEmpty then .done (s, n, n) else .wait (missing.foldl (fun s l => s.askFor id c l.2) s)

/-- Kind 9: no Wr to the range is without its Cmp; then the lines of a portion are evicted, and the portion ends when they are
gone (R371). -/
def writeBackStep : CopyStep := fun s id c n =>
  let n := Nat.min n (c.len - c.bytes)
  match s.rangeLines id c (c.field 0x10 8) c.len false, s.rangeLines id c (c.field 0x10 8 + c.bytes) n false with
  | .error e, _ => s.kept e
  | _, .error e => s.kept e
  | .ok all, .ok ls =>
    if all.any fun l => (s.line? l.2.1 l.2.2).any fun x => !x.wrs.isEmpty then .wait s
    else
      let s' := ls.foldl (fun s l => s.evict l.2.1 l.2.2) s
      if ls.all fun l => (s'.line? l.2.1 l.2.2).isNone then .done (s', n, n) else .wait s'

/-- Kind 10, one block: its elements are numbered on from those of the blocks before it (R114). -/
def convertOne (s : State) (id : Nat) (c : Cmd) : Reach (State × Nat × Nat) :=
  let i := c.bytes / c.blockSizes.1
  match s.engineRead id c (c.src 0 c.bytes) c.blockSizes.1 1 false with
  | .fault f => .fault f
  | .wait s => .wait s
  | .done (s, bs) =>
    let out := if c.fromMx then mxToBfp c.mxType c.bfpWidth c.aux (32 * i) bs else bfpToMx c.mxType c.bfpWidth c.aux (32 * i) bs
    match s.engineWrite id c (c.dst 0 (i * c.blockSizes.2)) out false with
    | .fault f => .fault f
    | .wait s => .wait s
    | .done s => .done (s, c.blockSizes.1, c.blockSizes.2)

/-- The cause with which the instance of a kind-7 command has been stopped (R413). -/
def State.instanceBroken? (s : State) (c : Cmd) : Option Byte :=
  (s.fabric.instances.find? fun i => i.coll = c.aux && i.inst = c.inst).bind (·.broken)

/-- The bytes of the smallest portion that a copy moves next: one, or what is left of the element of a codec window that it writes, so
that no part of an element enters whose merge is refused (R344; log 13). -/
def Cmd.grain (c : Cmd) : Nat :=
  match (if c.copyKind = 2 || c.copyKind = 3 then c.dst (c.bytes / c.len) (c.bytes % c.len) else c.dst 0 c.bytes) with
  | .global va => if (windowAt c.view.windows va).isSome then 8 - va % 8 else 1
  | .scratch _ => 1

/-- The smallest step of a command's next progress, by its kind: where its next access faults, this faults. -/
def Cmd.nextStep (c : Cmd) : State → Nat → Reach (State × Nat × Nat) :=
  fun s id => match c.copyKind with
  | 1 => copyStep s id c c.grain
  | 2 => stridedStep s id c c.grain
  | 3 => gatherStep s id c c.grain
  | 4 => fillStep s id c 1
  | 5 => compareStep s id c 1
  | 6 => reduceOne s id c
  | 7 => (match c.result with
    | some r => (match s.engineWrite id c (c.dst 0 0) r false with
      | .done s => .done (s, 0, 0)
      | .wait s => .wait s
      | .fault f => .fault f)
    | none => match s.instanceBroken? c with
      | some e => .fault (c.faultInfo id e 0 0 false)
      | none =>
        if c.row = 1 then .wait s
        else match s.engineRead id c (c.src 0 0) c.len 1 false with
          | .done (s, _) => .done (s, 0, 0)
          | .wait s => .wait s
          | .fault f => .fault f)
  | 8 => prefetchStep s id c 1
  | 9 => writeBackStep s id c 1
  | _ => convertOne s id c

/-- A copy has made its last access (R241). -/
def Cmd.finished (c : Cmd) : Bool := c.bytes = c.total && (c.copyKind != 5 || c.row = 1)

/-- A command of a kind at its next progress: its acquire first (R244, R313), then the step, whose bytes a byte-count barrier
is owed (R243). -/
def State.progress (s : State) (id kind : Nat) (step : State → Cmd → Reach (State × Nat × Nat)) : Host.Outcome State Fault Refusal :=
  match s.runnable? id .copy with
  | none => .fault .notEnabled
  | some c =>
    if c.copyKind != kind || c.finished then .fault .notEnabled
    else
      let s0 := if c.started then s
        else (s.cmdAcquire c (c.flag 3) (c.field 2 1)).modCmd id fun c => { c with started := true, begun := s.cyc c.core }
      match step s0 c with
      | .done (s, n, w) => .next (s.modCmd id fun c => { c with bytes := c.bytes + n, owed := if c.flag 2 then c.owed + w else 0, got := [] })
      | .wait s' => if s' = s then .fault .notEnabled else .next s'
      | .fault _ => .fault .notEnabled

/-- Single steps repeated, at most so many, until one must wait or fault. -/
def repeatStep (step : State → Cmd → Reach (State × Nat × Nat)) : Nat → State → Cmd → Reach (State × Nat × Nat)
  | 0, s, _ => .wait s
  | n + 1, s, c => match step s c with
    | .done (s, k, w) =>
      let c := { c with bytes := c.bytes + k }
      if c.bytes = c.total then .done (s, k, w)
      else match repeatStep step n s c with
        | .done (s, k', w') => .done (s, k + k', w + w')
        | _ => .done (s, k, w)
    | r => r

/-! ## The rows -/

/-- COPY_KIND_COPY (R241). -/
def execCopyKindCopy (cmd bytes : Nat) (s : State) : Host.Outcome State Fault Refusal :=
  if bytes = 0 then .fault .notEnabled else s.progress cmd 1 fun s c => copyStep s cmd c bytes

/-- STRIDED_COPY (R241). -/
def execStridedCopy (cmd bytes : Nat) (s : State) : Host.Outcome State Fault Refusal :=
  if bytes = 0 then .fault .notEnabled else s.progress cmd 2 fun s c => stridedStep s cmd c bytes

/-- GATHER (R241, R242). -/
def execGather (cmd bytes : Nat) (s : State) : Host.Outcome State Fault Refusal :=
  if bytes = 0 then .fault .notEnabled else s.progress cmd 3 fun s c => gatherStep s cmd c bytes

/-- POOL_FILL (R370). -/
def execPoolFill (cmd bytes : Nat) (s : State) : Host.Outcome State Fault Refusal :=
  if bytes = 0 then .fault .notEnabled else s.progress cmd 4 fun s c => fillStep s cmd c bytes

/-- POOL_COMPARE (R370): the comparison, and then the write of its result. -/
def execPoolCompare (cmd : Nat) (s : State) : Host.Outcome State Fault Refusal :=
  s.progress cmd 5 fun s c => compareStep s cmd c 1

/-- POOL_REDUCE (R370). -/
def execPoolReduce (cmd bytes : Nat) (s : State) : Host.Outcome State Fault Refusal :=
  s.progress cmd 6 fun s c => repeatStep (fun s c => reduceOne s cmd c) (bytes / opxBytes (bits (c.field 0x0A 2) 0 4)) s c

/-- LEASE_PREFETCH (R371). -/
def execLeasePrefetch (cmd bytes : Nat) (s : State) : Host.Outcome State Fault Refusal :=
  if bytes = 0 then .fault .notEnabled else s.progress cmd 8 fun s c => prefetchStep s cmd c bytes

/-- LEASE_WRITE_BACK (R371). -/
def execLeaseWriteBack (cmd bytes : Nat) (s : State) : Host.Outcome State Fault Refusal :=
  if bytes = 0 then .fault .notEnabled else s.progress cmd 9 fun s c => writeBackStep s cmd c bytes

/-- FORMAT_CONVERSION (R114). -/
def execFormatConversion (cmd blocks : Nat) (s : State) : Host.Outcome State Fault Refusal :=
  s.progress cmd 10 (repeatStep (fun s c => convertOne s cmd c) blocks)

/-- BYTE_COUNT_PORTION: what has been written, and has reached its home, lowers the barrier (R243). -/
def execByteCountPortion (cmd : Nat) (s : State) : Host.Outcome State Fault Refusal :=
  match Assoc.get? s.cmds cmd with
  | none => .fault .notEnabled
  | some c =>
    if c.owed = 0 || c.awaits != 0 || (s.alloc? c.core c.alloc).isNone then .fault .notEnabled
    else .next ((s.arriveAt c.core c.alloc (c.field 9 1) none fun b => b.arrive c.owed).modCmd cmd fun c => { c with owed := 0 })

/-- COPY_COMPLETE: after its last write, which its release follows, and its last barrier decrement, a copy lowers cp and
completes its tag, or answers its slot (R244, R417). -/
def execCopyComplete (cmd : Nat) (s : State) : Host.Outcome State Fault Refusal :=
  match s.runnable? cmd .copy with
  | none => .fault .notEnabled
  | some c =>
    if !c.finished || c.owed != 0 || c.awaits != 0 || !s.inTurn c.ctx c.uid commandIdx c.num .command 0 then .fault .notEnabled
    else
      let s := (s.endCmd cmd c false).observe c.core 5 (s.cyc c.core - c.born)
      .next (match c.slot with
        | some k => s.answer k 0 []
        | none => s)

end Sys2Proof.Machine
end

