-- ==== Sys2Proof/Machine/Tile.lean ====
section
/-! DEFINITION. Tile tasks: the checks of a record, the sums of runs, the stamp, and the faults of engine commands (R107, R109,
R112, R223, R226, R230 to R240). -/
namespace Sys2Proof.Machine

/-! ## The record (Table 2 of the asynchronous-command chapter) -/

/-- An operand of a tile task. -/
structure TileOperand where
  base  : Nat
  str   : Nat
  /-- TYPE: a TY code, 15 for BFP. -/
  ty    : Nat
  tr    : Bool
  ax    : Nat
  lcl   : Bool
  /-- The width of its BFP blocks. -/
  w     : Nat
  /-- A stride step holds one row along K (Table 3). -/
  along : Bool
deriving DecidableEq, Repr

/-- Operand A (false) or B (true). -/
def Cmd.operand (c : Cmd) (b : Bool) : TileOperand :=
  let f := c.field (if b then 0x21 else 0x20) 1
  let tr := f.testBit 4
  { base := c.field (if b then 8 else 0) 8, str := c.field (if b then 0x14 else 0x10) 4, ty := bits f 0 4, tr := tr, ax := bits f 5 1
    lcl := f.testBit 6, w := bits c.fmt.toNat (if b then 7 else 4) 3 + 2, along := tr == b }

/-- K, M and N. -/
def Cmd.dimK (c : Cmd) : Nat := c.field 0x18 4
/-- M. -/
def Cmd.dimM (c : Cmd) : Nat := c.field 0x1C 2
/-- N. -/
def Cmd.dimN (c : Cmd) : Nat := c.field 0x1E 2
/-- FP64 accumulation. -/
def Cmd.wide (c : Cmd) : Bool := (c.field 0x22 1).testBit 6
/-- The columns of a tile in the view of the accumulation (R223). -/
def Cmd.tileCols (c : Cmd) : Nat := if c.wide then 32 else 64
/-- The number of cooperating cores: 2 to the C code (R234). -/
def Cmd.coop (c : Cmd) : Nat := 2 ^ bits (c.field 0x23 1) 0 2
/-- PART. -/
def Cmd.part (c : Cmd) : Nat := bits (c.field 0x23 1) 2 2

/-- BFP. -/
def TileOperand.isBfp (o : TileOperand) : Bool := o.ty = 15
/-- The bytes of an element, 1 for BFP, which needs no alignment. -/
def TileOperand.elem (o : TileOperand) : Nat := if o.isBfp then 1 else opxBytes o.ty
/-- The bytes of `n` elements along a row that is along K, or across it: blocks lie along K (R108, R232). -/
def TileOperand.rowBytes (o : TileOperand) (n : Nat) : Nat :=
  if !o.isBfp then n * o.elem else if o.along then n / 32 * bfpBytes o.w else n * bfpBytes o.w
/-- The steps of stride of an operand of `p` rows or columns over K, and the bytes of each (R232). -/
def TileOperand.shape (o : TileOperand) (p k : Nat) : Nat × Nat :=
  if o.along then (p, o.rowBytes k) else (if o.isBfp then k / 32 else k, o.rowBytes p)

/-- The operand fields are in their limits (Table 2, R233). -/
def TileOperand.ok (o : TileOperand) (f : Nat) : Bool :=
  f < 128 && (o.ty = 15 || (0xA ≤ o.ty && o.ty ≤ 0xD)) && (o.ax = 0 || o.isBfp) && o.base < 2 ^ (if o.lcl then 32 else 60)

/-- The checks of a tile record whose cause is the illegal-operand trap, for a group's declared tiles (R226, R230, R231, R233,
R234). -/
def Cmd.tileOk (c : Cmd) (tiles : Nat) : Bool :=
  let a := c.operand false
  let b := c.operand true
  let ordf := c.field 0x2E 1
  let tagc := c.field 0x2D 1
  a.ok (c.field 0x20 1) && b.ok (c.field 0x21 1) &&
  1 ≤ c.dimK && c.dimK < 2 ^ 20 && (!(a.isBfp || b.isBfp) || c.dimK % 32 = 0) &&
  64 ≤ c.dimM && c.dimM ≤ 512 && c.dimM % 64 = 0 && c.tileCols ≤ c.dimN && c.dimN ≤ 768 &&
  (if c.wide then a.ty = 0xB && b.ty = 0xB else a.ty != 0xB && b.ty != 0xB) &&
  bits (c.field 0x23 1) 0 2 != 3 && c.part < c.coop && c.field 0x23 1 < 16 && (c.coop = 1 || c.field 0x24 4 != 0) &&
  tagc < 16 && bits tagc 0 3 ≤ 4 && (bits tagc 3 1 = 0 || 48 ≤ c.field 0x2C 1) &&
  ordf < 32 && (bits ordf 0 2 = 0 || (2 ≤ bits ordf 2 3 && bits ordf 2 3 ≤ 6)) &&
  c.field 0x2F 1 = 0 && c.field 0x32 6 = 0 && c.field 0x38 8 % 32 = 0 &&
  c.dimN % c.coop = 0 && c.partColumns % c.tileCols = 0 && c.partColumns != 0 &&
  c.inTags.all (tagOk tiles) && c.tiles.all fun t => t < tiles

/-- Every BFP operand's blocks lie along K (R109, R232). -/
def Cmd.axisOk (c : Cmd) : Bool :=
  [c.operand false, c.operand true].all fun o => !o.isBfp || o.ax = (if o.along then 0 else 1)

/-- The lowest byte of the local operands past the group's allocation (R233). -/
def Cmd.tileBeyond (c : Cmd) (size : Nat) : Option Nat :=
  let of := fun (o : TileOperand) (p : Nat) =>
    if o.lcl then rowsBeyond size o.base (o.shape p c.dimK).2 (o.shape p c.dimK).1 o.str else none
  leastOf (of (c.operand false) c.dimM) (of (c.operand true) c.dimN)

/-! ## Reading operands (R112, R232, R239) -/

/-- Elements from the bytes of a row that is along K, or of a step across it, with a number that tells an invalid block's place
(R107, R108, R112). For BFP, one list of 32 values for each block. -/
def TileOperand.parse (o : TileOperand) (ftz : Bool) (bs : List Byte) : Except Nat (List (List FVal)) :=
  if o.isBfp then
    let n := bfpBytes o.w
    (List.range (bs.length / n)).foldl (fun acc q => match acc with
      | .error e => .error e
      | .ok l =>
        let b := (bs.drop (n * q)).take n
        let ex := valueAt b 0 1
        if ex = 255 then .error (n * q)
        else .ok (l ++ [(blockFields o.w b).map fun (m : Nat) => elementValue o.w ex (wrapInt o.w true (m : Int))])) (.ok [])
  else
    let z := o.elem
    .ok ((List.range (bs.length / z)).map fun e => [(ffmt (typeOfCode o.ty)).decode (ftz && o.ty != 0xB) (valueAt bs (z * e) z)])

/-- The columns of a list of rows of the same length. -/
def transposeRows (n : Nat) (rows : List (List (List FVal))) : List (List (List FVal)) :=
  (List.range n).map fun j => rows.map fun r => r.getD j []

/-- An operand's rows or columns from number `first`, `count` of them, each as `n` values along K from number `k`; both are multiples of
32 where it is in blocks (R109, R232). -/
def State.readOperand (s : State) (id : Nat) (c : Cmd) (o : TileOperand) (first count k n : Nat) : Reach (State × List (List FVal)) :=
  let ftz := c.fmt.getLsbD 2
  let start : Loc := if o.lcl then .scratch o.base else .global o.base
  let steps := if o.along then (List.range count).map fun p => ((first + p) * o.str + o.rowBytes k, o.rowBytes n)
    else if o.isBfp then (List.range (n / 32)).map fun q => ((k / 32 + q) * o.str + o.rowBytes first, o.rowBytes count)
    else (List.range n).map fun q => ((k + q) * o.str + o.rowBytes first, o.rowBytes count)
  let read := steps.foldl (fun (acc : Reach (State × List (List (List FVal)))) p => match acc with
    | .done (s, l) => (match s.engineRead id c (start.plus p.1) p.2 o.elem false with
      | .done (s, bs) => (match o.parse ftz bs with
        | .ok vs => .done (s, l ++ [vs])
        | .error k => .fault (c.faultInfo id 0x09 (match start.plus (p.1 + k) with
          | .scratch a => a
          | .global a => a) 0 !o.lcl))
      | .wait s => .wait s
      | .fault f => .fault f)
    | r => r) (.done (s, []))
  match read with
  | .done (s, rows) => .done (s, ((if o.along then rows else transposeRows count rows).map List.flatten))
  | .wait s => .wait s
  | .fault f => .fault f

/-! ## Runs (R112, R236) -/

/-- The exact sum of numbers; an exact zero is +0. -/
def exactSum (l : List FVal) : FVal :=
  let parts := l.filterMap fun x => match x with
    | .num s m e => if m = 0 then none else some (s, m, e)
    | _ => none
  let q := ((best (fun (a b : Bool × Nat × Int) => a.2.2 < b.2.2) parts).map (·.2.2)).getD 0
  FVal.ofScaled (parts.foldl (fun n p => n + scaled p.1 p.2.1 p.2.2 q) 0) q

/-- The sum of a run's products (R112). -/
def runSum (ps : List FVal) : FVal :=
  let inf := fun (n : Bool) => ps.any fun p => match p with
    | .inf s => s == n
    | _ => false
  if ps.any FVal.isNan || (inf false && inf true) then .qnan
  else if inf false then .inf false
  else if inf true then .inf true
  else exactSum ps

/-- An accumulator after the update of one run (R112, R236). -/
def runUpdate (f : FFmt) (v : FEnv) (acc : Nat) (a b : List FVal) : Nat :=
  f.encode v (FVal.add .rne (f.decode false acc) (runSum (a.zipWith FVal.mul b)))

/-- RL: the steps of K in a run (R112). -/
def Cmd.runLength (c : Cmd) : Nat := if c.wide then 8 else 32
/-- The number of runs over K (R236). -/
def Cmd.runs (c : Cmd) : Nat := (c.dimK + c.runLength - 1) / c.runLength

/-- A group's accumulator element of a view (R223). -/
def Group.element (g : Group) (wide : Bool) (tile e : Nat) : Nat :=
  let t := Assoc.getD g.acc tile []
  if wide then (Assoc.getD t (2 * e + 1) 0).toNat * 2 ^ 32 + (Assoc.getD t (2 * e) 0).toNat else (Assoc.getD t e 0).toNat

/-- A tile of 4,096 words given by a function, as the table holds it. -/
def tileOf (f : Nat → Word) : Assoc Word :=
  (List.range 4096).filterMap fun k => if f k = 0 then none else some (k, f k)

/-- The words of a tile from its elements in a view, row by row (R223). -/
def tileWords (wide : Bool) (rows : List (List Nat)) : List Word :=
  rows.flatMap fun r => r.flatMap fun x => if wide then [BitVec.ofNat 32 x, BitVec.ofNat 32 (x / 2 ^ 32)] else [BitVec.ofNat 32 x]

/-- The tiles of a task after one run's update of the rows from number `row` on, whose values along the run are given with those of the
part's columns (R234, R236). -/
def Cmd.updated (c : Cmd) (g : Group) (row : Nat) (as bs : List (List FVal)) : List (Nat × Assoc Word) :=
  let f := if c.wide then fp64 else fp32
  let v : FEnv := { mode := .rne, ftz := false, sat := c.fmt.getLsbD 3 }
  let cols := c.tileCols
  let across := c.partColumns / cols
  let first := bits (c.field 0x22 1) 0 6
  let as := as.toArray
  let bs := bs.toArray
  c.tiles.map fun t =>
    let ti := (t - first) / across
    let tj := (t - first) % across
    let new := (List.range 64).map fun i => (List.range cols).map fun j =>
      let old := g.element c.wide t (cols * i + j)
      if row ≤ 64 * ti + i && 64 * ti + i < row + as.size then
        runUpdate f v old (as.getD (64 * ti + i - row) []) (bs.getD (cols * tj + j) [])
      else old
    let ws := (tileWords c.wide new).toArray
    (t, tileOf fun k => ws.getD k 0)

/-! ## The rows -/

/-- The dependences of a task are met and no other task of its core's engine runs (R227, R236): it starts, with its acquire and
with its tiles as +0 where ZA says so, or goes on where it stopped (R237). -/
def execTileTaskStart (cmd : Nat) (s : State) : Host.Outcome State Fault Refusal :=
  match s.runnable? cmd .tile with
  | none => .fault .notEnabled
  | some c =>
    if c.started || s.cmds.any (fun p => p.1 != cmd && p.2.kind == .tile && p.2.core = c.core && p.2.started && s.cmdPresent p.2) then
      .fault .notEnabled
    else
      let ordf := c.field 0x2E 1
      let s := if c.entered then s else s.cmdAcquire c (ordf.testBit 0) (bits ordf 2 3)
      let s := if !c.entered && (c.field 0x22 1).testBit 7 then
          s.modGroupNamed c.uid fun g => { g with acc := g.acc.filter fun t => !c.tiles.contains t.1 }
        else s
      .next ((s.modCore c.core fun k => { k with run := c.run, row := c.row }).modCmd cmd fun c =>
        { (c.turnTo (s.cyc c.core) (if c.run < c.runs then .copyIn else .copyOut)) with started := true, entered := true })

/-- The state after a task has done so many rows of its run and taken its register on to the next (R236). -/
def State.advanceTask (s : State) (id : Nat) (c : Cmd) (rows : Nat) : State :=
  let last := c.dimM ≤ c.row + rows
  let run := if last then c.run + 1 else c.run
  let row := if last then 0 else c.row + rows
  (s.modCore c.core fun k => if run < c.runs then { k with run := run, row := row } else { k with run := c.runs - 1, row := c.dimM - 1 }).modCmd id
    fun c => { (c.turnTo (s.cyc c.core) (if run < c.runs then .compute else .copyOut)) with run := run, row := row, got := [] }

/-- At most so many rows of a task's run are updated, from (RUN, ROW) on; a draining group keeps no result (R236, R237, R294). -/
def State.runRows (s : State) (id : Nat) (c : Cmd) (rows : Nat) : Reach State :=
  let rows := Nat.min rows (c.dimM - c.row)
  let k := c.runLength * c.run
  let n := Nat.min c.runLength (c.dimK - k)
  match s.readOperand id c (c.operand false) c.row rows k n with
  | .wait s => .wait s
  | .fault f => .fault f
  | .done (s, as) => match s.readOperand id c (c.operand true) (c.part * c.partColumns) c.partColumns k n with
    | .wait s => .wait s
    | .fault f => .fault f
    | .done (s, bs) =>
      .done ((s.modGroupNamed c.uid fun g => if g.life = .draining then g
        else { g with acc := (c.updated g c.row as bs).foldl (fun m t => Assoc.put [] m t.1 t.2) g.acc }).advanceTask id c rows)

/-- The state in which a task waits for an operand (R238). -/
def State.loadingTask (s : State) (id : Nat) (c : Cmd) : State :=
  if c.spell = .copyIn then s else s.modCmd id fun c => c.turnTo (s.cyc c.core) .copyIn

/-- The stamp record of a task that retires now (R238). -/
def State.stampBytes (s : State) (c : Cmd) : List Byte :=
  let now := s.cyc c.core
  let counts := (c.turnTo now .none).counts
  counts.flatMap (fun n => toBytes 4 (Nat.min n 0xFFFFFFFF)) ++ toBytes 8 c.born ++ toBytes 8 now

/-- A task's stamp written, if it has one (R236, R238). -/
def State.stampTask (s : State) (id : Nat) (c : Cmd) : Reach State :=
  if c.field 0x38 8 = 0 then .done s else s.engineWrite id c (.global (c.field 0x38 8)) (s.stampBytes c) false

/-- The state with a task complete (R229, R236, R434). -/
def State.endTask (s : State) (id : Nat) (c : Cmd) : State :=
  (s.endCmd id c false).observe c.core 4 (c.counts.getD 2 0)

/-- TILE_TASK_COMPLETE: a started task updates the rows of its run that the engine's pace allows, and where one of them faults the first
alone (log 13); after the last row of the last run it writes its stamp, and
once its writes have reached their homes, which its release waits for, it completes (R236, R237). -/
def execTileTaskComplete (cmd : Nat) (s : State) : Host.Outcome State Fault Refusal :=
  match s.runnable? cmd .tile with
  | none => .fault .notEnabled
  | some c =>
    if !c.started then .fault .notEnabled
    else if c.run < c.runs then
      match s.runRows cmd c (s.core c.core).pace with
      | .wait s' => (Reach.wait (s'.loadingTask cmd c)).outcome s
      | .fault _ => (s.runRows cmd c 1).outcome s
      | r => r.outcome s
    else if !s.inTurn c.ctx c.uid commandIdx c.num .command 0 then .fault .notEnabled
    else if c.result.isSome then
      if c.awaits != 0 then .fault .notEnabled else .next (s.endTask cmd c)
    else match s.stampTask cmd c with
      | .done s' =>
        .next (if ((Assoc.get? s'.cmds cmd).map (·.awaits)) = some 0 then s'.endTask cmd c else s'.modCmd cmd fun c => { c with result := some [] })
      | r => r.outcome s

/-- The fault that a command's next access meets, if it meets one (R239). -/
def State.nextFault? (s : State) (id : Nat) (c : Cmd) : Option FaultInfo :=
  match c.kind with
  | .copy => if c.finished then none else match c.nextStep s id with
    | .fault f => some f
    | _ => none
  | .tile =>
    if !c.started || c.result.isSome then none
    else match if c.run < c.runs then s.runRows id c 1 else s.stampTask id c with
    | .fault f => some f
    | _ => none
  | .svc => none

/-- ENGINE_FAULT: a command meets a fault and stalls or stops, stops because a write of it failed, because the steward refers
it or because its launch has ended while it waited for service, or does not run because a producer has faulted (R239, R419). It stops
once its writes have landed and have been counted (R243, R244). -/
def execEngineFault (cmd : Nat) (s : State) : Host.Outcome State Fault Refusal :=
  match Assoc.get? s.cmds cmd with
  | none => .fault .notEnabled
  | some c =>
    if c.kind = .svc then .fault .notEnabled
    else match c.refer, c.held with
    | some f, _ =>
      if s.landed c then .next (s.stopCmd cmd c (c.faultInfo cmd f.cause f.faddr.toNat f.lease f.global)) else .fault .notEnabled
    | none, some (_, f) => if s.launchEnded c.launch && s.landed c then .next (s.stopCmd cmd c f) else .fault .notEnabled
    | none, none =>
      if c.badDep then (if s.depsMet c then .next (s.endCmd cmd c true) else .fault .notEnabled)
      else if !s.cmdReady c then .fault .notEnabled
      else match s.nextFault? cmd c with
        | some f => if s.served c f || s.landed c then .next (s.meetFault cmd c f) else .fault .notEnabled
        | none => .fault .notEnabled

end Sys2Proof.Machine
end

