-- ==== Sys2Proof/Machine/Async.lean ====
section
/-! DEFINITION. The asynchronous instructions: tile tasks, copies, launches and service calls enqueued, tags waited for, and
accumulator tiles in registers (R219 to R231, R239, R241 to R245, R266 to R268, R278, R418, R420). -/
namespace Sys2Proof.Machine

/-! ## Enqueueing (R221, R222, R226, R227) -/

/-- Checks of an asynchronous instruction (R55, R90, R181). -/
def asyncReq (u : Issuer) (uni : Bool) (uses : List Use) : Req :=
  { cls := Cls.async, uni := uni, uses := uses, may := u.kind == .simt }

/-- An operation in flight touches bytes of an allocation: an access to them, or the scratchpad part of an extent. -/
def Op.touchesScratch (o : Op) (alloc off n : Nat) : Bool :=
  o.todo.any fun a =>
    (match a.tgt with
     | .scratch _ i x => i = alloc && x < off + n && off < x + a.len
     | _ => false) ||
    (match o.kind with
     | .ldx al => al = alloc && a.x < off + n && off < a.x + a.len
     | .stx al => al = alloc && a.x < off + n && off < a.x + a.len
     | _ => false)

/-- The operations of a group, and of its helpers, that have not been acknowledged (R222, R298). -/
def State.groupOps (s : State) (owner : Nat) : List Nat := (s.ops.filter fun p => p.2.owner = owner).map (·.1)

/-- The state in which some operations that a record's read must follow have performed as far as they can: scratchpad and the lines of
the package are at hand, so that the issuing path goes on (R222; log 103). -/
def State.hurry (s : State) (ids : List Nat) : State :=
  ids.foldl (fun s id => match Assoc.get? s.ops id with
    | some o => if s.mayPerform id o then s.attempt id else s
    | none => s) s

/-- An instruction goes on once none of the older operations that its read must follow has an access to make: they make theirs first, and
the path stalls only where one of them has to wait itself (R221, R222, R300; log 103). -/
def State.following (s : State) (u : Issuer) (older : State → List Nat) (k : State → State) : State :=
  let s := s.hurry (older s)
  if (older s).isEmpty then k s else s.stall u (.drain (older s))

/-- A record in scratchpad: the checks of R221 steps 1 to 3, and its bytes after the group's own earlier accesses to them. -/
def State.withScratchRecord (s : State) (u : Issuer) (a : Opnd) (size : Nat) (k : State → Nat → List Byte → State) : State :=
  let v := (s.read64 u a 0).toNat
  let al := ((s.group? u.core u.slot).map (·.alloc)).getD 0
  let room := ((s.alloc? u.core al).map (·.size)).getD 0
  if 2 ^ 32 ≤ v then s.raiseHere u 0x02
  else if v % size != 0 then s.raise u (u.faultAt 0x06 v)
  else if room < v + size then s.raise u (u.faultAt 0x07 v)
  else s.following u (fun s => (s.ops.filter fun p => p.2.owner = s.ownerOf u && p.2.touchesScratch al v size).map (·.1))
    fun s => s.readInTurn u ((Target.scratch u.core al v).lines size) fun s => k s v (s.scratchRead u.core al v size)

/-- A command as its instruction issues (R221, R222, R239). -/
def State.newCmd (s : State) (u : Issuer) (kind : CmdKind) (rec' : List Byte) : Cmd :=
  { kind := kind, rec' := rec', fmt := u.fmt, uid := u.uid, core := u.core, gid := gidOf u.core u.slot, ctx := u.ctx, launch := u.launch
    alloc := ((s.group? u.core u.slot).map (·.alloc)).getD 0, thread := u.lanes.headD 0, pc := u.path.wordAddr, view := u.path.view
    lvl := u.path.lvl, after := s.groupOps (s.ownerOf u), num := ((s.group? u.core u.slot).map (·.enqueued)).getD 0, born := s.cyc u.core }

/-- The producers of a command's tags, and the earlier tasks on its tiles, in the group (R227). -/
def State.producers (s : State) (uid : Nat) (tags tiles : List Nat) : List Nat :=
  (s.cmds.filter fun p => p.2.uid == uid && !p.2.ofSlot &&
    (p.2.tags.any (fun t => tags.contains t) || p.2.tiles.any fun t => tiles.contains t)).map (·.1)

/-- A command enters its engine: its counter and its dependences (R40, R176, R221, R226, R227, R239). -/
def State.enqueue (s : State) (u : Issuer) (c : Cmd) (sc : Fin 16) : State :=
  s.withRoom u c.kind.ctr
    (match c.outTag.find? fun t => 255 ≤ s.tagCount u.uid t with
     | some t => s.stall u (.tag t)
     | none =>
       let (id, s) := s.freshId
       let bad := ((s.group? u.core u.slot).map fun g =>
         (c.inTags.any fun t => g.tagBad.contains t) || c.tiles.any fun t => g.accBad.contains t).getD false
       let deps := s.producers u.uid c.inTags c.tiles
       let c := { c with deps := deps, badDep := bad, mark := s.cyc u.core, spell := if c.kind = .tile && !deps.isEmpty then .operands else .none }
       let s := { s with cmds := Assoc.set s.cmds id c }.modGroup u.core u.slot fun g => { g with enqueued := g.enqueued + 1 }
       ((s.enterRing u.agent c.kind.ctr id).commitRegion u).retire u sc)

/-- `tenq` (R221, R230 to R234). -/
def execTenq (f : F3) (s : State) : Host.Outcome State Fault Refusal :=
  issue s (.tenq f) (fun u => { asyncReq u f.u [gUse f.a false] with fmt := true }) fun u =>
    s.withScratchRecord u f.a 64 fun s v bs =>
      let c := s.newCmd u .tile bs
      let g := s.group? u.core u.slot
      let size := ((s.alloc? u.core c.alloc).map (·.size)).getD 0
      if !c.tileOk ((g.map (·.kernel.tiles)).getD 0) then s.raiseHere u 0x02
      else if !c.axisOk then s.raise u (u.faultAt 0x13 v)
      else match c.tileBeyond size with
        | some a => s.raise u (u.faultAt 0x07 a)
        | none => s.enqueue u { c with rec' := bs.take 0x30 ++ toBytes 2 u.fmt.toNat ++ bs.drop 0x32 } f.sc

/-- A collective's entry is valid (R411). -/
def State.collOk (s : State) (n : Nat) : Bool := (Assoc.getD s.fabric.colls n 0).getLsbD 0

/-- A kind-7 command takes its place among those of its collective, which gives its instance (R412). -/
def State.joinCollective (s : State) (c : Cmd) : State × Cmd :=
  if c.copyKind != 7 then (s, c)
  else
    let n := Assoc.getD s.fabric.kicks c.aux 0 + 1
    let nloc := Nat.max 1 (bits (Assoc.getD s.fabric.colls c.aux 0).toNat 8 8)
    ({ s with fabric := { s.fabric with kicks := Assoc.set s.fabric.kicks c.aux n } }, { c with inst := (n + nloc - 1) / nloc })

/-- `cpkick` (R221, R241 to R243, R411). -/
def execCpkick (f : F3) (s : State) : Host.Outcome State Fault Refusal :=
  issue s (.cpkick f) (fun u => { asyncReq u f.u [gUse f.a false] with fmt := true }) fun u =>
    s.withScratchRecord u f.a 64 fun s _ bs =>
      let c := s.newCmd u .copy bs
      let kernel := ((s.group? u.core u.slot).map (·.kernel)).getD {}
      let al := s.alloc? u.core c.alloc
      if !c.copyOk kernel.tiles kernel.bars (fun i => (al.map fun a => (a.barrier i).kind).getD false) s.collOk then s.raiseHere u 0x02
      else match c.copyBeyond ((al.map (·.size)).getD 0) with
        | some a => s.raise u (u.faultAt 0x07 a)
        | none =>
          -- the place in the collective is taken only by a command that issues
          let (s', c') := s.joinCollective c
          if 1023 ≤ (s.rings u.agent).count .cp || c.outTag.any fun t => 255 ≤ s.tagCount u.uid t then s.enqueue u c f.sc
          else s'.enqueue u c' f.sc

/-! ## Tags and tiles (R223 to R228) -/

/-- An instruction that waits for producers enqueued before it: a fault that it raises first (R239), then the wait, which those
enqueued meanwhile do not lengthen, then its effect. -/
def State.afterProducers (s : State) (u : Issuer) (d : Defers) (ids : List Nat) (k : State) : State :=
  match s.raiseDeferred u (fun e => e.raisedAt d) u.path.wordAddr with
  | some s' => s'
  | none =>
    if ids.isEmpty || u.path.woken.isSome then k
    else (s.modPath u.agent fun p => { p with woken := some false }).stall u (.drain ids)

/-- The tag that `twait` names (R228). -/
def State.tagOf (s : State) (u : Issuer) (f : F3) : Nat := if f.a = .none then f.x.toNat else (s.read64 u f.a 0).toNat

/-- `twait` (R38, R228, R239). -/
def execTwait (f : F3) (s : State) : Host.Outcome State Fault Refusal :=
  issue s (.twait f) (fun u => { asyncReq u f.u [gUse f.a false] with defers := .tag (s.tagOf u f) }) fun u =>
    let x := s.tagOf u f
    if 256 ≤ x || !tagOk (((s.group? u.core u.slot).map (·.kernel.tiles)).getD 0) x then s.raiseHere u 0x02
    else s.afterProducers u (.tag x) (s.producers u.uid [x] [])
      ((s.acquire u.core .core).retire u f.sc)

/-- The number of elements of a tile in the view of a type (R223). -/
def viewSize (ty : DType) : Nat := if isWide ty then 2048 else 4096

/-- Checks of `ardr` and `awr` that concern the group: the tile is declared (R219). -/
def State.tileDeclared (s : State) (u : Issuer) (x : Byte) : Bool :=
  x.toNat < ((s.group? u.core u.slot).map (·.kernel.tiles)).getD 0

/-- The first element of `ardr` or `awr`, where every element lies in the tile (R224). -/
def State.firstElement (s : State) (u : Issuer) (f : F3) : Option Nat :=
  let i := (s.read64 u f.b 0).toNat
  if f.u then (if i < viewSize f.ty then some i else none)
  else if i + u.width ≤ viewSize f.ty then some i else none

/-- The group with an accumulator element written (R223). -/
def Group.setElement (g : Group) (wide : Bool) (tile e x : Nat) : Group :=
  let t := Assoc.getD g.acc tile []
  let t := if wide then Assoc.put 0 (Assoc.put 0 t (2 * e) (BitVec.ofNat 32 x)) (2 * e + 1) (BitVec.ofNat 32 (x / 2 ^ 32))
    else Assoc.put 0 t e (BitVec.ofNat 32 x)
  { g with acc := Assoc.put [] g.acc tile t }

/-- `ardr` (R224). -/
def execArdr (f : F3) (s : State) : Host.Outcome State Fault Refusal :=
  issue s (.ardr f)
    (fun u => { asyncReq u f.u [dstUse f.u (isWide f.ty) f.d, gUse f.b false] with valid := s.tileDeclared u f.x, defers := .tile f.x.toNat })
    fun u => match s.firstElement u f, s.group? u.core u.slot with
      | some i, some g =>
        s.afterProducers u (.tile f.x.toNat) (s.producers u.uid [] [f.x.toNat])
          (s.result u f.u f.d (isWide f.ty) 1 f.sc fun t => BitVec.ofNat 64 (g.element (isWide f.ty) f.x.toNat (i + t)))
      | _, _ => s.raiseHere u 0x02

/-- `awr` (R224). -/
def execAwr (f : F3) (s : State) : Host.Outcome State Fault Refusal :=
  issue s (.awr f)
    (fun u => { asyncReq u f.u [srcUse (isWide f.ty) f.a, gUse f.b false] with valid := s.tileDeclared u f.x, defers := .tile f.x.toNat })
    fun u => match s.firstElement u f with
      | some i =>
        s.afterProducers u (.tile f.x.toNat) (s.producers u.uid [] [f.x.toNat])
          ((s.modGroup u.core u.slot fun g => (u.over f.u).foldl (fun g t =>
            g.setElement (isWide f.ty) f.x.toNat (i + t) (s.src u (isWide f.ty) f.a t).toNat) g).retire u f.sc)
      | none => s.raiseHere u 0x02

/-- `azero` (R225). -/
def execAzero (f : F3) (s : State) : Host.Outcome State Fault Refusal :=
  issue s (.azero f) (fun u => { asyncReq u f.u [] with valid := s.tileDeclared u f.x, defers := .tile f.x.toNat }) fun u =>
    s.afterProducers u (.tile f.x.toNat) (s.producers u.uid [] [f.x.toNat])
      ((s.modGroup u.core u.slot fun g => { g with acc := Assoc.erase g.acc f.x.toNat }).retire u f.sc)

/-! ## Launches (R221, R222, R245, R278) -/

/-- The operations of a group in flight that have accesses to make to some bytes at a VA (R222, R278). -/
def State.olderOn (s : State) (u : Issuer) (c : Cmd) (va n : Nat) : List Nat :=
  let ts := (lineParts va n).filterMap fun p => match s.engineTarget 0 c .read p.1 p.2 1 false with
    | .ok t => some (t, p.2)
    | .error _ => none
  (s.ops.filter fun p => p.2.owner = s.ownerOf u && p.2.todo.any fun a => ts.any fun t => a.tgt.meets a.len t.1 t.2).map (·.1)

/-- `launch`: the record and its header are checked and queued; the launch engine goes on with it once the group's own earlier accesses have
been acknowledged (R221, R222, R245, R278). -/
def execLaunch (f : F3) (s : State) : Host.Outcome State Fault Refusal :=
  issue s (.launch f) (fun u => asyncReq u f.u [gUse f.a false]) fun u =>
    s.withScratchRecord u f.a 256 fun s v r =>
      if !recordOk r then s.raiseHere u 0x02
      else if recCtx r != u.ctx || (s.context u.ctx).ended then s.raise u (u.faultAt 0x05 v)
      else s.following u (fun s => s.olderOn u u.reader (recKhdr r) 256) fun s => match s.readHeader u.reader r with
          | .wait s' =>
            let l := s.headerLine u.reader r
            s'.stall u (.line l.1 l.2)
          | .illegal => s.raiseHere u 0x02
          | .fault e => s.raise u (u.faultOn e.cause e.faddr.toNat e.lease)
          | .ok s h =>
            if 32 ≤ (s.queue (recQueue r)).length then s.stall u (.queue (recQueue r))
            else ((s.queueLaunch r h (s.groupOps (s.ownerOf u))).commitRegion u).retire u f.sc

/-! ## Service calls (R266 to R268, R273, R418, R420) -/

/-- `svc`: a call is enqueued, and posted once the group's own earlier accesses have been acknowledged; a steward at user level enters
supervisor level (R222, R266 to R268, R273, R420). -/
def execSvc (f : F3) (s : State) : Host.Outcome State Fault Refusal :=
  issue s (.svc f)
    (fun u => { ctrlReq true [gUse f.a false] with may := u.kind == .simt || (u.kind == .steward && !u.sup) })
    fun u => match u.agent with
      | .steward k => s.stewardEnter k (u.path.nextClause.setWidth 64) 0x40 (s.read64 u f.a 0)
      | _ => s.withScratchRecord u f.a 64 fun s v bs => s.withRoom u .sv
          (let c := { s.newCmd u .svc bs with path := u.idx, bytes := v }
           let (id, s) := s.freshId
           let s := { s with cmds := Assoc.set s.cmds id c }.modGroup u.core u.slot fun g => { g with enqueued := g.enqueued + 1 }
           (((s.enterRing u.agent .sv id).commitRegion u).endClause u u.path.nextClause).postCalls)

end Sys2Proof.Machine
end

