-- ==== Sys2Proof/Machine/Atomics.lean ====
section
/-! DEFINITION. Atomics, local atomics and reductions (R86, R200 to R204). -/
namespace Sys2Proof
open Machine

/-- The operand so many registers after another; none past the last (R86). -/
def Opnd.plus (o : Opnd) (k : Nat) : Option Opnd :=
  match o with
  | .v n => if h : n.val + k < 192 then some (.v ⟨n.val + k, h⟩) else none
  | .g n => if h : n.val + k < 64 then some (.g ⟨n.val + k, h⟩) else none

/-- An atomic without return (R202). -/
def FM.noReturn (f : FM) : Bool := f.d == .none

/-- The registers from one data operand of an atomic to the next (R86). -/
def dataStride (o : Opnd) (z : Size) : Nat :=
  match o with
  | .v _ => if z.bytes = 8 then 2 else 1
  | .g _ => 1

/-- The data operands of an atomic: x, and y of `cas`; none where one would lie past the last register (R86, R202). -/
def FM.atomData (f : FM) (op : AtomOp) : Option (Opnd × Option Opnd) :=
  let first := if f.noReturn then some f.b else Opnd.plus f.d (dataStride f.d f.sz)
  match first with
  | none => none
  | some x => if op = .cas then (Opnd.plus x (dataStride x f.sz)).map fun y => (x, some y) else some (x, none)

/-- The operand positions of an atomic's data and destination (R63, R86). -/
def FM.atomUses (f : FM) (op : AtomOp) : List Use :=
  let data := match f.atomData op with
    | none => []
    | some (x, y) => { o := x, role := dataRole f.sz } :: y.toList.map fun y => { o := y, role := dataRole f.sz }
  (if f.noReturn then [] else [{ o := f.d, role := dataRole f.sz, write := true }]) ++ data

/-- The operand positions of the address: an atomic without return has no index (R202). -/
def FM.atomAddr (f : FM) (base : Role) : List Use :=
  { o := f.a, role := base } :: (if f.noReturn then [] else [{ o := f.b, role := .w32 }])

/-- Checks of an atomic (R55, R63, R86). -/
def FM.atomReq (f : FM) (op : AtomOp) (base : Role) : Req :=
  { memReq f.u (f.atomAddr base ++ f.atomUses op) with
    valid := (f.atomData op).isSome && (f.u || f.noReturn || Opnd.isV f.d), defers := orderDefers f.ord }

/-- The destination of an atomic (R202). -/
def FM.atomDst (f : FM) : Option Reg := if f.noReturn then none else some (Opnd.reg f.d)

namespace Machine

/-- The data of an atomic for a lane. -/
def State.atomValues (s : State) (u : Issuer) (f : FM) (op : AtomOp) (l : Nat) : Nat × Nat :=
  match f.atomData op with
  | none => (0, 0)
  | some (x, y) => (s.readBytes u x l f.sz.bytes, (y.map fun y => s.readBytes u y l f.sz.bytes).getD 0)

/-- An operation that a codec window accepts at 8 bytes (R204). -/
def AtomOp.inWindow : AtomOp → Bool
  | .addF => true | .minF => true | .maxF => true | .exch => true
  | _ => false

/-- What an atomic asks of an access (R190, R204, R330). -/
def atomAsk (f : FM) (op : AtomOp) : Ask :=
  { need := .modify, len := f.sz.bytes, align := f.sz.bytes, inWindow := op.inWindow && f.sz.bytes = 8 }

/-- A global atomic (R200 to R202); one with return commits the region (R176). -/
def State.atomG (s : State) (u : Issuer) (f : FM) (op : AtomOp) : State :=
  s.globalOp u f (.atom op (!f.noReturn)) (atomAsk f op) (!f.noReturn) f.atomDst (!f.noReturn) (s.atomValues u f op)

/-- A local atomic (R200 to R202). -/
def State.atomL (s : State) (u : Issuer) (f : FM) (op : AtomOp) : State :=
  s.localOp u f (.atom op (!f.noReturn)) .modify (!f.noReturn) f.atomDst (!f.noReturn) (s.atomValues u f op)

/-- Checks of a reduction (R63, R86). -/
def redReq (f : FM) : Req :=
  { memReq f.u (globalUses f ++ [{ o := f.d, role := dataRole f.sz }]) with defers := orderDefers f.ord }

/-- What a reduction asks of an access: it needs W alone (R203, R330). -/
def redAsk (f : FM) (op : AtomOp) : Ask := { atomAsk f op with need := .write }

/-- A reduction (R203). -/
def State.reduce (s : State) (u : Issuer) (f : FM) (op : AtomOp) : State :=
  s.globalOp u f (.red op) (redAsk f op) true none false fun l => (s.readBytes u f.d l f.sz.bytes, 0)

/-- `atom.add` (Table 2 of the memory-access chapter). -/
def execAtomAdd (f : FM) (s : State) : Host.Outcome State Fault Refusal :=
  issue s (.atomAdd f) (fun _ => f.atomReq .add .w64) fun u => s.atomG u f .add

/-- `atom.min.n` (Table 2 of the memory-access chapter). -/
def execAtomMinN (f : FM) (s : State) : Host.Outcome State Fault Refusal :=
  issue s (.atomMinN f) (fun _ => f.atomReq .minN .w64) fun u => s.atomG u f .minN

/-- `atom.max.n` (Table 2 of the memory-access chapter). -/
def execAtomMaxN (f : FM) (s : State) : Host.Outcome State Fault Refusal :=
  issue s (.atomMaxN f) (fun _ => f.atomReq .maxN .w64) fun u => s.atomG u f .maxN

/-- `atom.min.s` (Table 2 of the memory-access chapter). -/
def execAtomMinS (f : FM) (s : State) : Host.Outcome State Fault Refusal :=
  issue s (.atomMinS f) (fun _ => f.atomReq .minS .w64) fun u => s.atomG u f .minS

/-- `atom.max.s` (Table 2 of the memory-access chapter). -/
def execAtomMaxS (f : FM) (s : State) : Host.Outcome State Fault Refusal :=
  issue s (.atomMaxS f) (fun _ => f.atomReq .maxS .w64) fun u => s.atomG u f .maxS

/-- `atom.and` (Table 2 of the memory-access chapter). -/
def execAtomAnd (f : FM) (s : State) : Host.Outcome State Fault Refusal :=
  issue s (.atomAnd f) (fun _ => f.atomReq .and .w64) fun u => s.atomG u f .and

/-- `atom.or` (Table 2 of the memory-access chapter). -/
def execAtomOr (f : FM) (s : State) : Host.Outcome State Fault Refusal :=
  issue s (.atomOr f) (fun _ => f.atomReq .or .w64) fun u => s.atomG u f .or

/-- `atom.xor` (Table 2 of the memory-access chapter). -/
def execAtomXor (f : FM) (s : State) : Host.Outcome State Fault Refusal :=
  issue s (.atomXor f) (fun _ => f.atomReq .xor .w64) fun u => s.atomG u f .xor

/-- `atom.exch` (Table 2 of the memory-access chapter). -/
def execAtomExch (f : FM) (s : State) : Host.Outcome State Fault Refusal :=
  issue s (.atomExch f) (fun _ => f.atomReq .exch .w64) fun u => s.atomG u f .exch

/-- `atom.cas` (Table 2 of the memory-access chapter). -/
def execAtomCas (f : FM) (s : State) : Host.Outcome State Fault Refusal :=
  issue s (.atomCas f) (fun _ => f.atomReq .cas .w64) fun u => s.atomG u f .cas

/-- `atom.add.f` (Table 2 of the memory-access chapter). -/
def execAtomAddF (f : FM) (s : State) : Host.Outcome State Fault Refusal :=
  issue s (.atomAddF f) (fun _ => f.atomReq .addF .w64) fun u => s.atomG u f .addF

/-- `atom.min.f` (Table 2 of the memory-access chapter). -/
def execAtomMinF (f : FM) (s : State) : Host.Outcome State Fault Refusal :=
  issue s (.atomMinF f) (fun _ => f.atomReq .minF .w64) fun u => s.atomG u f .minF

/-- `atom.max.f` (Table 2 of the memory-access chapter). -/
def execAtomMaxF (f : FM) (s : State) : Host.Outcome State Fault Refusal :=
  issue s (.atomMaxF f) (fun _ => f.atomReq .maxF .w64) fun u => s.atomG u f .maxF

/-- `atom.l.add` (R200). -/
def execAtomLAdd (f : FM) (s : State) : Host.Outcome State Fault Refusal :=
  issue s (.atomLAdd f) (fun u => { f.atomReq .add .w32 with may := u.kind != .steward }) fun u => s.atomL u f .add

/-- `atom.l.min.n` (R200). -/
def execAtomLMinN (f : FM) (s : State) : Host.Outcome State Fault Refusal :=
  issue s (.atomLMinN f) (fun u => { f.atomReq .minN .w32 with may := u.kind != .steward }) fun u => s.atomL u f .minN

/-- `atom.l.max.n` (R200). -/
def execAtomLMaxN (f : FM) (s : State) : Host.Outcome State Fault Refusal :=
  issue s (.atomLMaxN f) (fun u => { f.atomReq .maxN .w32 with may := u.kind != .steward }) fun u => s.atomL u f .maxN

/-- `atom.l.min.s` (R200). -/
def execAtomLMinS (f : FM) (s : State) : Host.Outcome State Fault Refusal :=
  issue s (.atomLMinS f) (fun u => { f.atomReq .minS .w32 with may := u.kind != .steward }) fun u => s.atomL u f .minS

/-- `atom.l.max.s` (R200). -/
def execAtomLMaxS (f : FM) (s : State) : Host.Outcome State Fault Refusal :=
  issue s (.atomLMaxS f) (fun u => { f.atomReq .maxS .w32 with may := u.kind != .steward }) fun u => s.atomL u f .maxS

/-- `atom.l.and` (R200). -/
def execAtomLAnd (f : FM) (s : State) : Host.Outcome State Fault Refusal :=
  issue s (.atomLAnd f) (fun u => { f.atomReq .and .w32 with may := u.kind != .steward }) fun u => s.atomL u f .and

/-- `atom.l.or` (R200). -/
def execAtomLOr (f : FM) (s : State) : Host.Outcome State Fault Refusal :=
  issue s (.atomLOr f) (fun u => { f.atomReq .or .w32 with may := u.kind != .steward }) fun u => s.atomL u f .or

/-- `atom.l.xor` (R200). -/
def execAtomLXor (f : FM) (s : State) : Host.Outcome State Fault Refusal :=
  issue s (.atomLXor f) (fun u => { f.atomReq .xor .w32 with may := u.kind != .steward }) fun u => s.atomL u f .xor

/-- `atom.l.exch` (R200). -/
def execAtomLExch (f : FM) (s : State) : Host.Outcome State Fault Refusal :=
  issue s (.atomLExch f) (fun u => { f.atomReq .exch .w32 with may := u.kind != .steward }) fun u => s.atomL u f .exch

/-- `atom.l.cas` (R200). -/
def execAtomLCas (f : FM) (s : State) : Host.Outcome State Fault Refusal :=
  issue s (.atomLCas f) (fun u => { f.atomReq .cas .w32 with may := u.kind != .steward }) fun u => s.atomL u f .cas

/-- `atom.l.add.f` (R200). -/
def execAtomLAddF (f : FM) (s : State) : Host.Outcome State Fault Refusal :=
  issue s (.atomLAddF f) (fun u => { f.atomReq .addF .w32 with may := u.kind != .steward }) fun u => s.atomL u f .addF

/-- `atom.l.min.f` (R200). -/
def execAtomLMinF (f : FM) (s : State) : Host.Outcome State Fault Refusal :=
  issue s (.atomLMinF f) (fun u => { f.atomReq .minF .w32 with may := u.kind != .steward }) fun u => s.atomL u f .minF

/-- `atom.l.max.f` (R200). -/
def execAtomLMaxF (f : FM) (s : State) : Host.Outcome State Fault Refusal :=
  issue s (.atomLMaxF f) (fun u => { f.atomReq .maxF .w32 with may := u.kind != .steward }) fun u => s.atomL u f .maxF

/-- `red.add` (R203). -/
def execRedAdd (f : FM) (s : State) : Host.Outcome State Fault Refusal :=
  issue s (.redAdd f) (fun _ => redReq f) fun u => s.reduce u f .add

/-- `red.min.n` (R203). -/
def execRedMinN (f : FM) (s : State) : Host.Outcome State Fault Refusal :=
  issue s (.redMinN f) (fun _ => redReq f) fun u => s.reduce u f .minN

/-- `red.max.n` (R203). -/
def execRedMaxN (f : FM) (s : State) : Host.Outcome State Fault Refusal :=
  issue s (.redMaxN f) (fun _ => redReq f) fun u => s.reduce u f .maxN

/-- `red.min.s` (R203). -/
def execRedMinS (f : FM) (s : State) : Host.Outcome State Fault Refusal :=
  issue s (.redMinS f) (fun _ => redReq f) fun u => s.reduce u f .minS

/-- `red.max.s` (R203). -/
def execRedMaxS (f : FM) (s : State) : Host.Outcome State Fault Refusal :=
  issue s (.redMaxS f) (fun _ => redReq f) fun u => s.reduce u f .maxS

/-- `red.and` (R203). -/
def execRedAnd (f : FM) (s : State) : Host.Outcome State Fault Refusal :=
  issue s (.redAnd f) (fun _ => redReq f) fun u => s.reduce u f .and

/-- `red.or` (R203). -/
def execRedOr (f : FM) (s : State) : Host.Outcome State Fault Refusal :=
  issue s (.redOr f) (fun _ => redReq f) fun u => s.reduce u f .or

/-- `red.xor` (R203). -/
def execRedXor (f : FM) (s : State) : Host.Outcome State Fault Refusal :=
  issue s (.redXor f) (fun _ => redReq f) fun u => s.reduce u f .xor

/-- `red.add.f` (R203). -/
def execRedAddF (f : FM) (s : State) : Host.Outcome State Fault Refusal :=
  issue s (.redAddF f) (fun _ => redReq f) fun u => s.reduce u f .addF

/-- `red.min.f` (R203). -/
def execRedMinF (f : FM) (s : State) : Host.Outcome State Fault Refusal :=
  issue s (.redMinF f) (fun _ => redReq f) fun u => s.reduce u f .minF

/-- `red.max.f` (R203). -/
def execRedMaxF (f : FM) (s : State) : Host.Outcome State Fault Refusal :=
  issue s (.redMaxF f) (fun _ => redReq f) fun u => s.reduce u f .maxF

end Machine
end Sys2Proof
end

