-- ==== Sys2Proof/Machine/Coherence.lean ====
section
/-! DEFINITION. Coherence between packages: the messages of a home and of its borrowers, and what fails a borrower or loses a
lender (R357 to R369). -/
namespace Sys2Proof.Machine

/-! ## The borrower's side -/

/-- A line of the remote line cache with a request or a write outstanding (R363). -/
def RlcLine.busy (l : RlcLine) : Bool := !l.wrs.isEmpty || l.st = .is || l.st = .im || l.st = .sm || l.st = .ei

/-- The lines of an entry in the remote line cache. -/
def State.linesOf (s : State) (e : Nat) : List RlcLine := s.booth.rlc.filter fun l => l.entry = e

/-- An entry whose lines are being dropped: they go when each request and Wr has its completion, and then its ST changes and
its message is sent (R352, R357, R363, R366). -/
def State.leave (s : State) (e : Nat) : State :=
  if (s.borrowed e).leaving.isNone || (s.linesOf e).any (·.busy) then s
  else
    let s := ((s.linesOf e).foldl (fun s l => s.evict e l.line) s).dropLentCopies e
    let b := s.borrowed e
    match b.leaving with
    | none => s
    | some (st, message) =>
      if !(s.linesOf e).isEmpty then s
      else
        let s := s.modBorrowed e fun b => { b with st := st, leaving := none, renewal := none }
        if message = 0x0A then s.send b.lend (.recallDone b.lid)
        else if message = 0x0B then s.send b.lend (.release b.lid)
        else s

/-- The state in which the lines of an entry begin to be dropped (R363). -/
def State.drop (s : State) (e st message : Nat) : State :=
  ((s.modBorrowed e fun b => { b with leaving := some (st, message) }).dropLentCopies e).leave e

/-- The entry that a message of a lender about one of its lines concerns: the one that has the line, else one in use. -/
def State.entryAt? (s : State) (src line : Nat) : Option Nat :=
  let fits := fun (p : Nat × Borrowed) =>
    2 ≤ p.2.st && p.2.lend = src && p.2.rbase / 64 ≤ line && line < p.2.rbase / 64 + 2 ^ p.2.sz / 64
  let has := fun (p : Nat × Borrowed) => fits p && (s.line? p.1 (line - p.2.rbase / 64)).isSome
  ((s.booth.borrowed.find? has).or (s.booth.borrowed.find? fits)).map (·.1)

/-- The line of an entry that a lender's line number names. -/
def State.ownLine (s : State) (e line : Nat) : Nat := line - (s.borrowed e).rbase / 64

/-- The state with LOAD of an entry as last received, which a monitor may see (R369, R434). -/
def State.loaded (s : State) (e level : Nat) : State :=
  (s.modBorrowed e fun b => { b with load := level % 8 }).observe 4096 6 (level % 8)

/-- An access of an operation to a borrowed line. -/
def Access.atLine (a : Access) (e line : Nat) : Bool :=
  match a.tgt with
  | .lent f off => f = e && off / 64 = line
  | _ => false

/-- The accesses that wait for a line are performed (R359, R360). -/
def State.performWaiting (s : State) (e line : Nat) : State :=
  let waiting := s.ops.filter fun p => (p.2.todo.any fun a => a.atLine e line) && s.mayPerform p.1 p.2
  waiting.foldl (fun s p => (p.2.todo.filter fun a => a.atLine e line).foldl (fun s a =>
    match Assoc.get? s.ops p.1 with
    | none => s
    | some o => (s.perform? p.1 o a).getD s) s) s

/-- What waits for a line that its home does not give ends with errors (R357). -/
def State.failWaiting (s : State) (e line : Nat) : State :=
  let s := { s.landAt e line none with cmds := s.cmds.mapVals fun c => c.receive e line none }
  (s.ops.filter fun p => p.2.kind != .load && p.2.todo.any fun a => a.atLine e line).foldl (fun s p =>
    (p.2.todo.filter fun a => a.atLine e line).foldl (fun s a => s.settle p.1 a 0 (.error (0x09, 0))) s) s

/-- A snoop of a line in S, E or Mm without outstanding Wrs, or in EI (Table 3); a recalled entry gives up the line (R366). -/
def State.answerSnoop (s : State) (src e line : Nat) (l : RlcLine) (inv : Bool) : State :=
  let inv := inv || (s.borrowed e).st = 3
  let s := if l.st = .ei then s.setLine { l with snoop := none, conflict := false }
    else if inv then s.dropLine e l.line
    else s.setLine { l with st := .s, snoop := none, conflict := false }
  s.send src (if inv || l.st = .ei then .rspI line else .rspS line)

/-- A snoop reaches a borrower's line: it is answered, or waits for the line's Wrs, or meets a pending request (R359, R360,
R363). A recalled entry gives up every line that is snooped (R366). -/
def State.snooped (s : State) (src line level : Nat) (inv : Bool) : State :=
  match s.entryAt? src line with
  | none => s.send src (.rspI line)
  | some e =>
    let s := s.loaded e level
    let inv := inv || (s.borrowed e).st = 3
    match s.line? e (s.ownLine e line) with
    | none => s.send src (.rspI line)
    | some l =>
      if l.st = .is || l.st = .im || l.st = .sm then
        (s.setLine { l with snoop := some inv, conflict := true }).send src (.conflict line)
      else if l.wrs.isEmpty then (s.answerSnoop src e line l inv).leave e
      else s.setLine { l with snoop := some inv }

/-- BISNPINV (R359). -/
def execBisnpinv (src line load : Nat) (s : State) : Host.Outcome State Fault Refusal := s.receive fun s => .next (s.snooped src line load true)

/-- BISNPSHR (R359). -/
def execBisnpshr (src line load : Nat) (s : State) : Host.Outcome State Fault Refusal := s.receive fun s => .next (s.snooped src line load false)

/-- BICONFLICTACK: the completion has come before it, so the snoop is applied now; or it has not, so the copy goes and the
snoop is answered (R360). -/
def execBiconflictack (src line : Nat) (s : State) : Host.Outcome State Fault Refusal := s.receive fun s =>
  match s.entryAt? src line with
  | none => .next (s.send src (.rspI line))
  | some e => match s.line? e (s.ownLine e line) with
    | none => .next (s.send src (.rspI line))
    | some l => match l.conflict, l.snoop with
      | true, some inv =>
        let l := { l with conflict := false }
        if l.st = .is || l.st = .im || l.st = .sm then
          .next ((s.setLine { l with st := if l.st = .sm then .im else l.st, snoop := none }).send src (.rspI line))
        else if l.wrs.isEmpty then .next ((s.answerSnoop src e line l inv).leave e)
        else .next (s.setLine l)
      | _, _ => .fault .notEnabled

/-- A line whose completion has arrived: the waiting accesses, of operations, of commands and of agents that read it before they go on,
are performed, and a line that is not to be
kept goes (R359, R360). -/
def State.arrived (s : State) (e line : Nat) : State :=
  let came := ((s.line? e line).filter fun l => !l.bad).map (·.data)
  let s := { s.landAt e line came with cmds := s.cmds.mapVals fun c => c.receive e line came }.performWaiting e line
  let s := match s.line? e line with
    | some l => if l.evict && !l.conflict then s.evict e line else s
    | none => s
  s.leave e

/-- CMP_S: IS becomes S; data that came poisoned stay so, and a request for ownership so answered has failed (R357, R359). -/
def execCmpS (src line : Nat) (bytes : Option Line) (load : Nat) (s : State) : Host.Outcome State Fault Refusal := s.receive fun s =>
  match s.entryAt? src line with
  | none => .fault .notEnabled
  | some e =>
    let s := s.loaded e load
    match s.line? e (s.ownLine e line) with
    | none => .fault .notEnabled
    | some l =>
      if l.st = .is then .next ((s.setLine { l with st := .s, data := bytes.getD 0, bad := bytes.isNone }).arrived e l.line)
      else if (l.st = .im || l.st = .sm) && bytes.isNone then .next (((s.failWaiting e l.line).dropLine e l.line).leave e)
      else .fault .notEnabled

/-- CMP_E: IM and SM become E; the waiting access is performed once (R359). -/
def execCmpE (src line : Nat) (bytes : Option Line) (load : Nat) (s : State) : Host.Outcome State Fault Refusal := s.receive fun s =>
  match s.entryAt? src line with
  | none => .fault .notEnabled
  | some e =>
    let s := s.loaded e load
    match s.line? e (s.ownLine e line) with
    | none => .fault .notEnabled
    | some l =>
      if l.st = .im then .next ((s.setLine { l with st := .e, data := bytes.getD 0, bad := bytes.isNone }).arrived e l.line)
      else if l.st = .sm then
        .next ((s.setLine { l with st := .e, data := bytes.getD l.data, bad := l.bad && bytes.isNone }).arrived e l.line)
      else .fault .notEnabled

/-- CMP: the oldest Wr of a line has been performed, or discarded with an error; or an eviction is complete (R357, R359,
R363). -/
def execCmp (src line load : Nat) (err : Bool) (s : State) : Host.Outcome State Fault Refusal := s.receive fun s =>
  match s.entryAt? src line with
  | none => .fault .notEnabled
  | some e =>
    let s := s.loaded e load
    match s.line? e (s.ownLine e line) with
    | none => .fault .notEnabled
    | some l => match l.wrs with
      | [] => if l.st = .ei then .next ((s.dropLine e l.line).leave e) else .fault .notEnabled
      | w :: rest =>
        let s := s.ack w.1 (if err then some (0x0A, s.vaOf w.1 e l.line) else none)
        let l := { l with wrs := rest, evict := l.evict || err }
        let s := s.setLine l
        if !rest.isEmpty || l.conflict then .next s
        else match l.snoop with
          | some inv => .next ((s.answerSnoop src e line l inv).leave e)
          | none => .next ((if l.evict then s.evict e l.line else s).leave e)

/-- REQUEST_TIMEOUT: a request of a lease has waited 10 ms, and its lender is lost (R367). -/
def execRequestTimeout (bix : Nat) (s : State) : Host.Outcome State Fault Refusal :=
  let late := fun (t : Nat) => t + 10000000 ≤ s.clocks.nsc
  let st := (s.borrowed bix).st
  if 2 ≤ st && st ≤ 4 && (s.linesOf bix).any fun l =>
      ((l.st = .is || l.st = .im || l.st = .sm || l.st = .ei) && late l.since) || l.wrs.any fun w => late w.2 then
    .next (s.lenderLost bix)
  else .fault .notEnabled

/-! ## The home's side -/

/-- What a request of a lease transfers, as the directory stands (R368). -/
def DirLine.bytes (d : DirLine) : HomeReq → Nat
  | .rds _ => 64
  | .rdown b wants => if wants || !d.has b then 64 else 0
  | .wr _ _ mask => ((List.range 64).filter fun k => mask.getLsbD k).length
  | .local _ => 0

/-- The requests of a lease that its bandwidth cap lets go on in the microsecond that is running, oldest first (R368;
log 59). -/
def State.passWindow (s : State) (entry : Nat) : Nat → State
  | 0 => s
  | k + 1 =>
    match Assoc.get? s.booth.lent entry with
    | none => s
    | some l =>
      let now := s.clocks.nsc / 1000
      let spent := if l.spentAt = now then l.spent else 0
      match l.waiting with
      | [] => s
      | (line, r) :: rest =>
        let n := (s.dirLine line).bytes r
        if l.bwc != 0 && l.bwc * 1000 < spent + n then s
        else
          let s := s.modLent entry fun l => { l with spentAt := now, spent := spent + n, waiting := rest }
          -- what is counted now is sent: the request has its data from here on
          let r : HomeReq := match r with
            | .rdown b _ => .rdown b (n != 0)
            | _ => r
          let s := match r with
            | .wr b bytes mask =>
              -- the owner's write does not wait for a snoop of the line (Table 4, row W)
              if (s.dirLine line).owner = some b && !(s.dirLine line).wait.isEmpty then s.homeWr line b bytes mask else s.homeRequest line r
            | _ => s.homeRequest line r
          s.passWindow entry k

/-- A request of a borrower reaches the home: it is served or waits (R361, R368), is answered with an error where its lease is
no more (R357), or is discarded where its borrower has failed (R364). -/
def State.remoteRequest (s : State) (src line : Nat) (r : HomeReq) : State :=
  if s.booth.failed.contains src then s
  else match s.lentAt? (line * 64) with
  | none => s.refuse line r
  | some (entry, l) =>
    if l.alive.contains src then
      (s.modLent entry fun l => { l with waiting := l.waiting ++ [(line, r)] }).passWindow entry (l.waiting.length + 1)
    else s.refuse line r

/-- RDS (R361). -/
def execRds (src line : Nat) (s : State) : Host.Outcome State Fault Refusal := s.receive fun s => .next (s.remoteRequest src line (.rds src))

/-- RDOWN (R361). -/
def execRdown (src line : Nat) (wantsData : Bool) (s : State) : Host.Outcome State Fault Refusal := s.receive fun s =>
  .next (s.remoteRequest src line (.rdown src wantsData))

/-- WR (R361). -/
def execWr (src line : Nat) (bytes : Line) (mask : DWord) (s : State) : Host.Outcome State Fault Refusal := s.receive fun s =>
  .next (s.remoteRequest src line (.wr src bytes mask))

/-- EVCT: the borrower no longer holds the line; what is awaited at it stays so (R361). -/
def execEvct (src line : Nat) (s : State) : Host.Outcome State Fault Refusal := s.receive fun s =>
  if s.booth.failed.contains src then .next s
  else .next ((s.setDir line ((s.dirLine line).without src)).send src (.cmp line (s.loadLevel line) false))

/-- The state after a snoop's answer, if it is awaited. -/
def State.snoopAnswer (s : State) (src line : Nat) (keepsS : Bool) : State :=
  if (s.dirLine line).wait.any fun w => w.1 = src then s.answered line src keepsS else s

/-- BIRSPI (R361). -/
def execBirspi (src line : Nat) (s : State) : Host.Outcome State Fault Refusal := s.receive fun s => .next (s.snoopAnswer src line false)

/-- BIRSPS (R361). -/
def execBirsps (src line : Nat) (s : State) : Host.Outcome State Fault Refusal := s.receive fun s => .next (s.snoopAnswer src line true)

/-- BICONFLICT: BIConflictAck follows every completion already sent for the line (R360). -/
def execBiconflict (src line : Nat) (s : State) : Host.Outcome State Fault Refusal := s.receive fun s =>
  if (s.dirLine line).wait.any fun w => w.1 = src then .next (s.send src (.conflictAck line)) else .next s

/-- BANDWIDTH_WINDOW: in a later microsecond the requests that wait under a cap go on, those that have reached their lines first (R368). -/
def execBandwidthWindow (entry : Nat) (s : State) : Host.Outcome State Fault Refusal :=
  match Assoc.get? s.booth.lent entry with
  | none => .fault .notEnabled
  | some l =>
    let late := (s.dirLinesOf l).filter fun k => (s.dirLine k).wait.isEmpty && ((s.dirLine k).queue.head?.map fun r => !r.pkg?.isNone).getD false
    if l.spentAt < s.clocks.nsc / 1000 && !(l.waiting.isEmpty && late.isEmpty) then .next ((s.serve late).passWindow entry l.waiting.length)
    else .fault .notEnabled

/-- SNOOP_TIMEOUT: a snoop has waited 10 ms, and its borrower has failed (R364). -/
def execSnoopTimeout (line pkg : Nat) (s : State) : Host.Outcome State Fault Refusal :=
  if (s.dirLine line).wait.any fun w => w.1 = pkg && w.2 + 10000000 ≤ s.clocks.nsc then .next (s.failBorrower pkg)
  else .fault .notEnabled

end Sys2Proof.Machine
end

