-- ==== Sys2Proof/Machine/Booth.lean ====
section
/-! DEFINITION. The Booth: its tables, the steward instructions on them, and the messages and times of leases (R347 to R357,
R364, R366, R372). -/
namespace Sys2Proof.Machine

/-! ## Entries as software reads them (Tables 1 and 2 of the lending chapter) -/

/-- A lent entry as 256 bits. -/
def Lent.image (l : Lent) : Nat :=
  l.lid.toNat * 2 ^ 224 + l.bwc * 2 ^ 216 + l.rgr * 2 ^ 200 + l.st * 2 ^ 198 + l.sz * 2 ^ 193 + l.nb.toNat * 2 ^ 192 + l.dur * 2 ^ 152
    + l.bpk0 * 2 ^ 140 + l.bpk1 * 2 ^ 128 + l.poff * 2 ^ 99 + l.bix0 * 2 ^ 86 + l.bix1 * 2 ^ 73 + l.exp % 2 ^ 64

/-- The entry that a grant image asks for; its LID, ST and EXP are ignored (R349). -/
def Lent.ofImage (v : Nat) : Lent :=
  let nb := bits v 192 1 == 1
  let bpk0 := bits v 140 12
  let bpk1 := bits v 128 12
  { lid := 0, bwc := bits v 216 8, rgr := bits v 200 16, sz := bits v 193 5, nb := nb, dur := bits v 152 40, bpk0 := bpk0
    bpk1 := bpk1, poff := bits v 99 29, bix0 := bits v 86 13, bix1 := bits v 73 13
    alive := if nb then [bpk0, bpk1] else [bpk0], acks := [] }

/-- A borrowed entry as 256 bits. -/
def Borrowed.image (b : Borrowed) : Nat :=
  b.lid.toNat * 2 ^ 224 + b.lend * 2 ^ 212 + b.sz * 2 ^ 207 + b.st * 2 ^ 204 + b.load * 2 ^ 201 + b.recr.toNat * 2 ^ 200 + b.dur * 2 ^ 152
    + b.deadline % 2 ^ 64 * 2 ^ 64 + b.rbase % 2 ^ 64

/-- A dynamic capacity extent: its tag, the lease id; the first byte in the lender's memory; and its size (R404, R410). -/
structure Extent where
  tag  : Word
  base : Nat
  size : Nat
deriving DecidableEq, Repr

/-- The dynamic capacity extents that the package has as a device: one for each lent entry, from its grant until the entry is free (R404,
R410). -/
def State.extents (s : State) : List Extent :=
  s.booth.lent.vals.map fun l => { tag := l.lid, base := 0x40000000000 + l.poff * 4096, size := 2 ^ l.sz }

/-- The same as a host: one for each borrowed entry whose lease stands. -/
def State.borrowedExtents (s : State) : List Extent :=
  (s.booth.borrowed.vals.filter fun b => b.st = 2 || b.st = 3).map fun b => { tag := b.lid, base := b.rbase, size := 2 ^ b.sz }

/-- Dword q of an entry as `lsread` names it (R349, R351). -/
def State.boothRead (s : State) (borrowed : Bool) (n q : Nat) : DWord :=
  let image := if borrowed then (s.borrowed n).image else ((Assoc.get? s.booth.lent n).map Lent.image).getD 0
  BitVec.ofNat 64 (bits image (64 * q) 64)

/-! ## Lease events and notices (R273, R418, R422) -/

/-- The state with a lease event queued: the message's type, then its fields as dwords (log 25). LREQ, REJECT, recall completion and
WANTED go to the host where lease negotiation is host-assisted (R372, R422). -/
def State.leaseEvent (s : State) (type : Nat) (fields : List Nat) : State :=
  s.postEvent 3 0 (toBytes 8 type ++ fields.flatMap fun f => toBytes 8 f)
    (s.hmode.getLsbD 1 && (type == 0x01 || type == 0x04 || type == 0x0A || type == 0x16))

/-- The state with a notice of the Booth's own (log 24). -/
def State.notice (s : State) (lid : Word) : State := { s with notices := s.notices ++ [lid] }

/-- GUARD of a duration (R355). -/
def guardOf (dur : Nat) : Nat := dur / 4096 + 1000

/-- A deadline: so long after a time, less the guard; a field of 64 bits keeps the low bits of the sum (R11, R355, R356, R366). -/
def deadlineOf (now wait dur : Nat) : Nat := (((now + wait : Nat) : Int) - guardOf dur).emod (2 ^ 64) |>.toNat

/-- EXP of a lease that is granted or renewed now (R11, R350, R356). -/
def Lent.extended (l : Lent) (now : Nat) : Nat := Nat.max l.exp (now + l.dur) % 2 ^ 64

/-- The lent entry of a lease. -/
def State.lentOf? (s : State) (lid : Word) : Option (Nat × Lent) := s.booth.lent.find? fun p => p.2.lid = lid

/-- The borrowed entry of a lease of a lender, while it is active or recalled. -/
def State.borrowedOf? (s : State) (src : Nat) (lid : Word) : Option (Nat × Borrowed) :=
  s.booth.borrowed.find? fun p => p.2.lid = lid && p.2.lend = src && (p.2.st = 2 || p.2.st = 3)

/-! ## Granting and recalling (R347, R350, R366) -/

/-- The next serial: counting upward, past 0 and those of live entries (R347). -/
def State.nextSerial (s : State) (n : Nat) : Nat → Nat
  | 0 => n
  | k + 1 => if n = 0 || s.booth.lent.any fun p => bits p.2.lid.toNat 0 20 = n then s.nextSerial ((n + 1) % 2 ^ 20) k else n

/-- STATUS of an image that is refused; none where it is granted; the hub area is outside the pool here (R350, R415). -/
def State.grantRefused (s : State) (v : Nat) : Option Nat :=
  let l := Lent.ofImage v
  let own := s.boot.pkgId
  if bits v 64 9 != 0 || l.sz < 12 || 36 < l.sz || l.dur < 1000000 || l.rgr = 0 || l.bpk0 = own || (l.nb && l.bpk1 = own) ||
      (l.nb && l.bpk0 = l.bpk1) || (!l.nb && (l.bpk1 != 0 || l.bix1 != 0)) then some 4
  else if l.poff % 2 ^ (l.sz - 12) != 0 || hubArea < 0x40000000000 + l.poff * 4096 + 2 ^ l.sz then some 3
  else if s.booth.lent.any fun p => p.2.poff * 4096 < l.poff * 4096 + 2 ^ l.sz && l.poff * 4096 < p.2.poff * 4096 + 2 ^ p.2.sz then some 1
  else if (Assoc.firstFree s.booth.lent 8192).isNone then some 2
  else none

/-- LSRES of a STATUS and a lease id (Table 7 of the system chapter). -/
def lsresOf (status : Nat) (lid : Word) : DWord := BitVec.ofNat 64 (status * 2 ^ 32 + lid.toNat)

/-- An image is granted, or refused with no change: the state and LSRES (R350). -/
def State.grantImage (s : State) (v : Nat) : State × DWord :=
  match s.grantRefused v, Assoc.firstFree s.booth.lent 8192 with
  | some status, _ => (s, lsresOf status 0)
  | none, none => (s, lsresOf 2 0)
  | none, some entry =>
    let serial := s.nextSerial ((s.booth.serial + 1) % 2 ^ 20) (s.booth.lent.length + 2)
    let lid : Word := BitVec.ofNat 32 (s.boot.pkgId * 2 ^ 20 + serial)
    let l := Lent.ofImage v
    let l := { l with lid := lid, acks := l.alive.map fun b => (b, s.clocks.nsc) }
    -- with a new lease the messages of a borrower count again (log 93)
    let s := { s with
      booth := { s.booth with
        lent := Assoc.set s.booth.lent entry l, serial := serial, failed := s.booth.failed.filter fun b => !l.alive.contains b } }
    let pa := 0x40000000000 + l.poff * 4096
    let s := s.send l.bpk0 (.grant lid l.sz l.dur pa l.bix0)
    (if l.nb then s.send l.bpk1 (.grant lid l.sz l.dur pa l.bix1) else s, lsresOf 0 lid)

/-- The recall of a lease begins: the state and LSRES (R366). -/
def State.recallLease (s : State) (lid : Word) : State × DWord :=
  match s.lentOf? lid with
  | none => (s, lsresOf 1 lid)
  | some (entry, l) =>
    if l.st = 2 then (s, lsresOf 2 lid)
    else
      let s := s.modLent entry fun l => { l with st := 2, recallAt := s.clocks.nsc }
      (l.alive.foldl (fun s b => s.send b (.recall lid l.rgr)) s, lsresOf 0 lid)

/-! ## The steward instructions (Table 5 of the system chapter) -/

/-- The checks of a Booth instruction. -/
def boothReq (u : Issuer) (uses : List Use) : Req := { ctrlReq false uses with may := u.kind == .steward && u.sup }

/-- `lsread` (R349, R351). -/
def execLsread (f : F3) (s : State) : Host.Outcome State Fault Refusal :=
  issue s (.lsread f) (fun u => boothReq u [gUse f.d true, gUse f.a false]) fun u =>
    let sel := (s.read64 u f.a 0).toNat
    if 2 ^ 14 ≤ sel then s.raiseHere u 0x02
    else (s.pushWrites u (resultWrites f.d true [(0, s.boothRead (bits sel 13 1 == 1) (bits sel 0 13) (bits f.x.toNat 0 2))]) 1).retire u f.sc

/-- A write of dword 3 of a borrowed entry: LEND, SZ and RECR, and ST as far as R352 lets it; what a relinquish sends
goes to the LEND written (log 112). -/
def State.borrowedWrite (s : State) (e : Nat) (v : Nat) : State :=
  let old := s.borrowed e
  let s := s.modBorrowed e fun b => { b with lend := bits v 20 12, sz := bits v 15 5, recr := bits v 8 1 == 1 }
  let b := s.borrowed e
  let new := bits v 12 3
  if old.st = 0 && new = 1 then
    (s.modBorrowed e fun b => { b with st := 1 }).send b.lend (.lreq e b.sz)
  else if new != 0 then s
  else if old.leaving.isSome then
    -- its lines are already being dropped: it is freed when they are gone
    s.modBorrowed e fun b => { b with leaving := b.leaving.map fun x => (0, x.2) }
  else if old.st = 2 then s.drop e 0 0x0B
  else if old.st = 3 then s.drop e 0 0x0A
  else if old.st = 1 || old.st = 4 || old.st = 5 then s.modBorrowed e fun b => { b with st := 0 }
  else s

/-- `lswrite` (R351, R352). -/
def execLswrite (f : F3) (s : State) : Host.Outcome State Fault Refusal :=
  issue s (.lswrite f) (fun u => boothReq u [gUse f.a false, gUse f.b false]) fun u =>
    let sel := (s.read64 u f.a 0).toNat
    if 2 ^ 14 ≤ sel then s.raiseHere u 0x02
    else if bits sel 13 1 = 0 then s.raiseProtection u
    else if bits f.x.toNat 0 2 = 3 then (s.borrowedWrite (bits sel 0 13) (s.read64 u f.b 0).toNat).retire u f.sc
    else s.retire u f.sc

/-- `lsgrant` (R350). -/
def execLsgrant (f : F3) (s : State) : Host.Outcome State Fault Refusal :=
  issue s (.lsgrant f) (fun u => boothReq u [gUse f.a false]) fun u =>
    let va := (s.read64 u f.a 0).toNat
    if va % 32 != 0 then s.raise u { cause := 0x06, faddr := BitVec.ofNat 64 va, pc := u.path.wordAddr }
    else s.stewardRead u va 32 fun bs =>
      let (s, res) := s.grantImage (ofBytes bs)
      (s.modSteward (u.core - 4096) fun w => { w with lsres := res }).retire u f.sc

/-- `lsrecall` (R366). -/
def execLsrecall (f : F3) (s : State) : Host.Outcome State Fault Refusal :=
  issue s (.lsrecall f) (fun u => boothReq u [gUse f.a false]) fun u =>
    let (s, res) := s.recallLease ((s.read64 u f.a 0).setWidth 32)
    (s.modSteward (u.core - 4096) fun w => { w with lsres := res }).retire u f.sc

/-! ## Messages and times of leases (R350, R352, R355 to R357, R366, R372) -/

/-- LREQ: a lease event for the lender's stewards (R372). -/
def execLreq (src bix sz : Nat) (s : State) : Host.Outcome State Fault Refusal := s.receive fun s => 
  let s := s.leaseEvent 0x01 [src, bix, sz]
  -- LEASE rises at the stewards also where the event goes to the host
  .next (if s.hmode.getLsbD 1 then s.notice 0 else s)

/-- GRANT: accepted by an entry that awaits it, else rejected (R350, R355). -/
def execGrant (src : Nat) (lid : Word) (sz dur : Nat) (pa : DWord) (bix : Nat) (s : State) : Host.Outcome State Fault Refusal := s.receive fun s =>
  let b := s.borrowed bix
  if bix < 8192 && b.st = 1 && b.lend = src && b.sz = sz then
    let s := s.modBorrowed bix fun b => { b with
      st := 2, lid := lid, dur := dur, rbase := pa.toNat, renewal := none
      deadline := deadlineOf s.clocks.nsc dur dur }
    .next ((s.send src (.gack lid)).notice lid)
  else .next (s.send src (.reject lid))

/-- GACK: EXP is set, and the borrower is no longer awaited (R350). -/
def execGack (src : Nat) (lid : Word) (s : State) : Host.Outcome State Fault Refusal := s.receive fun s =>
  match s.lentOf? lid with
  | none => .next s
  | some (entry, l) =>
    if l.acks.any fun a => a.1 = src then
      .next (s.modLent entry fun l => { l with exp := l.extended s.clocks.nsc, acks := l.acks.filter fun a => a.1 != src })
    else .next s

/-- REJECT: the borrower leaves the lease, and the stewards learn of it (R350, R418). -/
def execReject (src : Nat) (lid : Word) (s : State) : Host.Outcome State Fault Refusal := s.receive fun s =>
  match s.lentOf? lid with
  | none => .next s
  | some (entry, l) =>
    if l.alive.contains src then
      let s := (s.dropBorrower entry src).leaseEvent 0x04 [lid.toNat]
      -- LEASE rises at the stewards also where the event goes to the host
      .next (if s.hmode.getLsbD 1 then s.notice lid else s)
    else .next s

/-- RENEW: the lender's answer (R356). -/
def execRenew (src : Nat) (lid : Word) (s : State) : Host.Outcome State Fault Refusal := s.receive fun s =>
  if s.booth.failed.contains src then .next s
  else match s.lentOf? lid with
  | none => .next (s.send src (.gone lid))
  | some (entry, l) =>
    if !l.alive.contains src then .next s
    else if l.st = 2 then .next (s.send src (.recalling lid))
    else if s.clocks.nsc < l.exp || !l.acks.isEmpty then
      .next ((s.modLent entry fun l => { l with exp := l.extended s.clocks.nsc }).send src (.renewed lid))
    else .next (s.send src (.gone lid))

/-- RENEWED: DEADLINE counts from the round's first sending (R356). -/
def execRenewed (src : Nat) (lid : Word) (s : State) : Host.Outcome State Fault Refusal := s.receive fun s =>
  match s.borrowedOf? src lid with
  | none => .next s
  | some (e, b) =>
    match b.renewal with
    | some (t0, some _) =>
      if b.st = 2 then .next (s.modBorrowed e fun b => { b with deadline := deadlineOf t0 b.dur b.dur, renewal := none }) else .next s
    | _ => .next s

/-- RECALLING: the round is answered; the RECALL that follows governs (R356). -/
def execRecalling (src : Nat) (lid : Word) (s : State) : Host.Outcome State Fault Refusal := s.receive fun s =>
  let s := s.leaseEvent 0x07 [lid.toNat]
  match s.borrowedOf? src lid with
  | none => .next s
  | some (e, _) => .next (s.modBorrowed e fun b => { b with renewal := b.renewal.map fun r => (r.1, none) })

/-- An active entry expires: ST 4, and its lines are dropped (R356, R357). -/
def State.expire (s : State) (e : Nat) : State :=
  let s := s.modBorrowed e fun b => { b with st := 4, renewal := none }
  if (s.borrowed e).leaving.isSome then s else s.drop e 4 0

/-- GONE: the lease has ended at the lender (R356). -/
def execGone (src : Nat) (lid : Word) (s : State) : Host.Outcome State Fault Refusal := s.receive fun s =>
  let s := s.leaseEvent 0x08 [lid.toNat]
  match s.borrowedOf? src lid with
  | none => .next s
  | some (e, b) => if b.st = 2 then .next (s.expire e) else .next s

/-- RECALL: ST 3 and a new deadline (R366). -/
def execRecall (src : Nat) (lid : Word) (rgr : Nat) (s : State) : Host.Outcome State Fault Refusal := s.receive fun s =>
  match s.borrowedOf? src lid with
  | none => .next s
  | some (e, b) =>
    if b.st = 2 then
      .next (s.modBorrowed e fun b => { b with st := 3, renewal := none, deadline := deadlineOf s.clocks.nsc (rgr * 1000) b.dur })
    else .next s

/-- RECALL_DONE: the borrower is done; with the last one the entry is free and LEASE is raised (R366). -/
def execRecallDone (src : Nat) (lid : Word) (s : State) : Host.Outcome State Fault Refusal := s.receive fun s =>
  match s.lentOf? lid with
  | none => .next s
  | some (entry, l) =>
    if l.st = 2 && l.alive.contains src then
      let s := (s.dropBorrower entry src).leaseEvent 0x0A [lid.toNat]
      .next (if (Assoc.get? s.booth.lent entry).isNone then s.notice lid else s)
    else .next s

/-- RELEASE: the borrower leaves the lease (R352). -/
def execRelease (src : Nat) (lid : Word) (s : State) : Host.Outcome State Fault Refusal := s.receive fun s =>
  match s.lentOf? lid with
  | none => .next s
  | some (entry, l) =>
    if l.alive.contains src then .next ((s.dropBorrower entry src).leaseEvent 0x0B [lid.toNat]) else .next s

/-- GACK_TIMEOUT: borrowers that have not answered for 10 ms have failed (R350). -/
def execGackTimeout (entry : Nat) (s : State) : Host.Outcome State Fault Refusal :=
  match Assoc.get? s.booth.lent entry with
  | none => .fault .notEnabled
  | some l =>
    let late := l.acks.filter fun a => a.2 + 10000000 ≤ s.clocks.nsc
    if late.isEmpty then .fault .notEnabled else .next (late.foldl (fun s a => s.failBorrower a.1) s)

/-- RENEW_DUE: a renewal round begins (R356). -/
def execRenewDue (bix : Nat) (s : State) : Host.Outcome State Fault Refusal :=
  let b := s.borrowed bix
  if b.st = 2 && b.renewal.isNone && b.leaving.isNone && s.clocks.nsc < b.deadline && 4 * (b.deadline - s.clocks.nsc) < b.dur then
    .next ((s.modBorrowed bix fun b => { b with renewal := some (s.clocks.nsc, some s.clocks.nsc) }).send b.lend (.renew b.lid))
  else .fault .notEnabled

/-- RENEW_RESEND: a round that is not answered sends again every 100 µs (R356). -/
def execRenewResend (bix : Nat) (s : State) : Host.Outcome State Fault Refusal :=
  let b := s.borrowed bix
  match b.renewal with
  | some (t0, some last) =>
    if b.st = 2 && s.clocks.nsc < b.deadline && last + 100000 ≤ s.clocks.nsc then
      .next ((s.modBorrowed bix fun b => { b with renewal := some (t0, some s.clocks.nsc) }).send b.lend (.renew b.lid))
    else .fault .notEnabled
  | _ => .fault .notEnabled

/-- DEADLINE_EXPIRY (R357). -/
def execDeadlineExpiry (bix : Nat) (s : State) : Host.Outcome State Fault Refusal :=
  if (s.borrowed bix).st = 2 && (s.borrowed bix).deadline ≤ s.clocks.nsc then .next (s.expire bix) else .fault .notEnabled

/-- RECALL_DEADLINE: the Booth drops the lines, sends RECALL-DONE itself and sets ST 4 (R366). -/
def execRecallDeadline (bix : Nat) (s : State) : Host.Outcome State Fault Refusal :=
  let b := s.borrowed bix
  if b.st = 3 && b.leaving.isNone && b.deadline ≤ s.clocks.nsc then .next (s.drop bix 4 0x0A) else .fault .notEnabled

/-- LEASE_EXPIRY: every borrower of the lease leaves, and the entry is free (R357, R364). -/
def execLeaseExpiry (entry : Nat) (s : State) : Host.Outcome State Fault Refusal :=
  match Assoc.get? s.booth.lent entry with
  | none => .fault .notEnabled
  | some l => if l.st = 1 && l.acks.isEmpty && l.exp ≤ s.clocks.nsc then .next (l.alive.foldl (fun s b => s.expireBorrower b) s) else .fault .notEnabled

/-- RECALL_GRACE_EXPIRY: the borrowers that remain have failed, the entry is free, and LEASE is raised; a host that negotiates the leases
learns that the recall is complete (R366, R422; log 25). -/
def execRecallGraceExpiry (entry : Nat) (s : State) : Host.Outcome State Fault Refusal :=
  match Assoc.get? s.booth.lent entry with
  | none => .fault .notEnabled
  | some l =>
    if l.st = 2 && l.recallAt + l.rgr * 1000 ≤ s.clocks.nsc then
      let s := (l.alive.foldl (fun s b => s.failBorrower b) s).notice l.lid
      .next (if s.hmode.getLsbD 1 then s.leaseEvent 0x0A [l.lid.toNat] else s)
    else .fault .notEnabled

end Sys2Proof.Machine
end

