-- ==== Sys2Proof/Machine/Launch.lean ====
section
/-! DEFINITION. Placement, resumption, retirement, the end of a launch, and the watchdog (R284 to R295, R373, R385, R387,
R388, R401). -/
namespace Sys2Proof.Machine

/-! ## Room (R29, R36, R38, R284, R287) -/

/-- The lowest place for some 4 KiB units among those taken, each a first unit and a length (R284). -/
def firstFit (taken : List (Nat × Nat)) (units cap : Nat) : Option Nat :=
  let free := fun (p : Nat) => p + units ≤ cap && taken.all fun t => p + units ≤ t.1 || t.1 + t.2 ≤ p
  best (fun a b => a < b) ((0 :: taken.map fun t => t.1 + t.2).filter free)

/-- What a core unit asks of a core. -/
structure Want where
  launch : Nat
  div    : Nat
  /-- Threads and tiles of each group. -/
  width  : Nat
  tiles  : Nat
  /-- The windows of its groups, and the slots that resumed groups take again. -/
  ws     : List Nat
  slots  : List Nat := []
  /-- 4 KiB units of an allocation that it brings. -/
  scr    : Option Nat := none
  /-- The pattern and decode tables it restores (R255). -/
  patterns : List Nat := []
  decoders : List Nat := []
  /-- The core that they come from, and on which they are still its own. -/
  source   : Option Nat := none
deriving DecidableEq, Repr

/-- The free pool units of a core that is open to a launch: it holds the launch's division, or no group (R29, R287). -/
def Core.freeFor (k : Core) (launch div : Nat) : Option Nat :=
  if k.fused.isSome && k.fused != some launch then none
  else if k.slots.isEmpty then some (divisionPool div)
  else if k.lscfg.toNat = div then some k.free
  else none

/-- A launch has a resident or a pre-empted group on a core, so that its tables there stay its own (R255; log 56). -/
def State.ownsTables (s : State) (c launch : Nat) : Bool :=
  ((s.core c).slots.any fun p => p.2.launch = launch && p.2.life = .resident) ||
    s.engine.saved.any fun v => v.2.core = c && v.2.group.launch = launch

/-- The owner of a table of a core; none where it is free (R255). -/
def State.tableOwner? (s : State) (c : Nat) (t : Option Table) : Option Nat :=
  t.bind fun t => if s.ownsTables c t.launch then some t.launch else none

/-- The state with a core's tables gone whose owner has no group there any more: a later group of the launch does not own them (R255). -/
def State.sweepTables (s : State) (c : Nat) : State :=
  let keep := fun (t : Nat × Table) => s.ownsTables c t.2.launch
  s.modCore c fun k => { k with patterns := k.patterns.filter keep, decoders := k.decoders.filter keep }

/-- A table index is free on a core for the tables of a launch that were saved from a core: nobody owns it, or it is that very table
(R255). -/
def State.tableFree (s : State) (c : Nat) (t : Option Table) (launch : Nat) (source : Option Nat) : Bool :=
  ((s.tableOwner? c t).map fun l => l == launch && source == some c).getD true

/-- The tables of a core that a launch owns there. -/
def tablesOf (m : Assoc Table) (launch : Nat) : Assoc Table := m.filter fun t => t.2.launch = launch

/-- The table as it stands for every path that issues from now on. -/
def Table.settled (t : Table) : Table := { t with seq := t.seq.settled, past := [] }

/-- The free units of a core on which a unit fits (R284). -/
def State.fits (s : State) (c : Nat) (w : Want) : Option Nat :=
  let k := s.core c
  match k.freeFor w.launch w.div with
  | none => none
  | some free =>
    let n := w.ws.length
    let threads := k.slots.vals.foldl (fun n g => n + g.width) 0
    let tiles := k.slots.vals.foldl (fun n g => n + g.kernel.tiles) 0
    let room : Bool := match w.scr with
      | none => true
      | some u => (firstFit (k.allocs.vals.map fun a => (a.first, a.units)) u (bits w.div 8 8)).isSome
    if k.slots.length + n ≤ 16 && (w.slots.all fun sl => (Assoc.get? k.slots sl).isNone) && threads + n * w.width ≤ 2048 &&
       w.ws.foldl (fun m x => m + x / 8 + 1) 0 ≤ free && tiles + n * w.tiles ≤ 48 && room &&
       (w.patterns.all fun i => s.tableFree c (Assoc.get? k.patterns i) w.launch w.source) &&
       (w.decoders.all fun i => s.tableFree c (Assoc.get? k.decoders i) w.launch w.source) then some free
    else none

/-- The core of a range on which a unit fits that has the most free pool units, the lowest of these (R286). Of the cores
that nothing has changed the lowest is enough. -/
def State.bestCore (s : State) (lo n : Nat) (w : Want) : Option Nat :=
  let touched := s.cores.keys.filter fun c => lo ≤ c && c < lo + n
  let fresh := ((List.range n).map (lo + ·)).find? fun c => (Assoc.get? s.cores c).isNone
  let fit := (touched ++ fresh.toList).filterMap fun c => (s.fits c w).map fun f => (f, c)
  (best (fun (a b : Nat × Nat) => b.1 < a.1 || (a.1 = b.1 && a.2 < b.2)) fit).map (·.2)

/-- The state with a core's division set where no group holds a slot: the L1 keeps what its new size holds (R29, R322). -/
def State.divide (s : State) (c div : Nat) : State :=
  s.modCore c fun k => if k.slots.isEmpty then
    { k with lscfg := BitVec.ofNat 64 div, free := divisionPool div, l1 := k.l1.take (1024 * bits div 0 4) } else k

/-! ## New groups (R16, R24, R38, R40, R282, R283, R288, R289) -/

/-- The stage of the group with an index in its level-1 unit (R282). -/
def stageOf (r : List Byte) (i : Nat) : Nat :=
  ((List.range (recNstg r)).find? fun st => i < (List.range (st + 1)).foldl (fun n j => n + recStage r j) 0).getD 0

/-- The index of a group at each level (R282). -/
def lvlsOf (r : List Byte) (n : Nat) : List Nat :=
  (List.range (recNlvl r)).map fun l => n / ((List.range l).foldl (fun m i => m * recCount r i) 1) % recCount r l

/-- A new allocation: zero, apart from its stage queues' headers (R283, R289). -/
def newAlloc (l : LaunchRec) (k : Kernel) (unit first : Nat) : Alloc :=
  let stages := List.range (recNstg l.record - 1)
  let header := fun (m : Memory) (st : Nat) =>
    let (off, cap, eb) := recQueueOf l.record st
    m.writeN (off + 8) (toBytes 4 cap ++ toBytes 4 eb)
  { launch := l.id, first := first, units := k.scr / 4096, size := k.scr, bars := k.bars, unit := unit
    queues := stages.map fun st => ((recQueueOf l.record st).1, (recQueueOf l.record st).2.1), bytes := stages.foldl header [] }

/-- The state with group n of a record created on a core, in its lowest free slot. What happened before its launch happens before its
first instruction, so that the core's L1 keeps no older copy (R199, R314). -/
def State.createGroup (s : State) (c : Nat) (l : LaunchRec) (k : Kernel) (alloc n : Nat) : State :=
  let s := (s.sweepTables c).acquire c .pkg
  let r := l.record
  let stage := stageOf r ((lvlsOf r n).headD 0)
  let pc := BitVec.ofNat 60 (recKhdr r + k.entry.getD stage 256)
  let exec : Mask := if k.w32 then 0xFFFFFFFF else 0xFFFFFFFFFFFFFFFFFFFFFFFFFFFFFFFF
  match Assoc.firstFree (s.core c).slots 16 with
  | none => s
  | some sl =>
    let (uid, s) := s.freshId
    let p : Path :=
      { pc := pc, exec := exec, fmt := recFmt r, rgpc := pc, snap := { fmt := recFmt r }, readyAt := s.cyc c
        view := s.viewOf (recCtx r) }
    let g : Group :=
      { uid := uid, ctx := recCtx r, launch := l.id, kernel := k, stage := stage, lvls := lvlsOf r n, alloc := alloc, unit := n
        w := k.regs, live := exec, paths := [(0, p)]
        g := (List.range 8).foldl (fun m i => Assoc.put 0 m i (recParam r i)) [] }
    s.modCore c fun x => { x with free := x.free - (k.regs / 8 + 1), slots := Assoc.set x.slots sl g }

/-- The state with a core unit of a record created on a core (R288, R289). -/
def State.createUnit (s : State) (c : Nat) (l : LaunchRec) (k : Kernel) (first count : Nat) : State :=
  let s := s.divide c (recLsdiv l.record)
  let (id, s) := s.freshId
  let at' := (firstFit ((s.core c).allocs.vals.map fun a => (a.first, a.units)) (k.scr / 4096) (bits (recLsdiv l.record) 8 8)).getD 0
  let s := s.modCore c fun x => { x with allocs := Assoc.set x.allocs id (newAlloc l k (first / count) at') }
  ((List.range count).foldl (fun s i => s.createGroup c l k id (first + i)) s).refreshKeys c

/-! ## Placement (R285, R286, R373) -/

/-- What a new core unit of a record asks of a core. -/
def newWant (l : LaunchRec) (k : Kernel) : Want :=
  { launch := l.id, div := recLsdiv l.record, width := if k.w32 then 32 else 128, tiles := k.tiles
    ws := List.replicate (recUnit l.record) k.regs, scr := some (k.scr / 4096) }

/-- A cluster is open to a gang that fuses its L1s: none of its cores holds a group of another gang (R287). -/
def State.clusterOpen (s : State) (q launch gang size : Nat) : Bool :=
  (List.range 16).all fun i => (s.core (16 * q + i)).slots.all fun p => p.2.launch = launch && p.2.unit / size = gang

/-- The state with a cluster's L1s fused for a launch: each keeps only lines of its own slice (R287, R323). -/
def State.fuse (s : State) (q launch div : Nat) : State :=
  (List.range 16).foldl (fun s i => (s.divide (16 * q + i) div).modCore (16 * q + i) fun k =>
    { k with fused := some launch, l1 := k.l1.filter fun l => l.tag.slice = i }) s

/-- The state with the next gang of a record placed in a cluster, unit by unit; none where it does not fit (R284, R286). -/
def State.placeCluster (s : State) (l : LaunchRec) (k : Kernel) (sh : Shape) (q : Nat) : Option State :=
  if sh.fused && !s.clusterOpen q l.id (l.placed / sh.gang) sh.gang then none
  else
    let s := if sh.fused then s.fuse q l.id sh.div else s
    (List.range (sh.gang / sh.unit)).foldl (fun (acc : Option State) i => acc.bind fun s =>
      (s.bestCore (16 * q) 16 (newWant l k)).map fun c => s.createUnit c l k (l.placed + i * sh.unit) sh.unit) (some s)

/-- The state with the next gang of a record placed, and its die; none where it fits nowhere (R280, R286). -/
def State.placeNext (s : State) (l : LaunchRec) (r : Running) : Option (State × Nat) :=
  match kernelOf l.header with
  | none => none
  | some k =>
    let sh := r.shape
    let die := if sh.die = 0 then none else Assoc.get? r.dies (l.placed / sh.die)
    if sh.cluster then
      let qs := match die with
        | some d => (List.range 64).map (64 * d + ·)
        | none => List.range 256
      qs.findSome? fun q => (s.placeCluster l k sh q).map fun s => (s, q / 64)
    else
      let w := newWant l k
      let c := match die with
        | some d => s.bestCore (1024 * d) 1024 w
        | none => s.bestCore 0 4096 w
      c.map fun c => (s.createUnit c l k l.placed sh.unit, c / 1024)

/-- The state after the gang of a record at the head of a queue has been placed. -/
def State.placed (s : State) (q : Nat) (l : LaunchRec) (r : Running) (die : Nat) : State :=
  let l' := { l with placed := l.placed + r.shape.gang }
  let rest := (s.queue q).drop 1
  let r' := if r.shape.die = 0 then r else { r with dies := Assoc.set r.dies (l.placed / r.shape.die) die }
  { s with
    engine := { s.engine with
      queues := Assoc.put [] s.engine.queues q (if recGroups l.record ≤ l'.placed then rest else l' :: rest)
      last := q
      running := Assoc.set s.engine.running l.id r' } }

/-- The Placing records at the heads of their queues, in the order in which R373 serves them. -/
def State.heads (s : State) : List (Nat × LaunchRec) :=
  let hs := s.engine.queues.filterMap fun p => match p.2 with
    | l :: _ => if l.st = .placing && !(s.context (recCtx l.record)).held then some (p.1, l) else none
    | [] => none
  let rank := fun (x : Nat × LaunchRec) => (7 - recPrio x.2.record) * 64 + (x.1 + 127 - s.engine.last) % 64
  hs.foldl (fun acc x => acc.filter (fun y => rank y < rank x) ++ [x] ++ acc.filter fun y => !(rank y < rank x)) []

/-! ## Resumption (R292, R373, R385) -/

/-- The saved groups of a gang that wait to resume: launch and gang. -/
def State.gangSaved (s : State) (launch gang size : Nat) : List (Nat × SavedGroup) :=
  s.engine.saved.filter fun v => v.2.group.launch = launch && v.2.group.unit / size = gang

/-- What a saved core unit asks of a core. -/
def State.savedWant (s : State) (div : Nat) (vs : List (Nat × SavedGroup)) : Want :=
  let g := (vs.head?.map fun v => v.2.group).getD { ctx := 0, launch := 0 }
  let from' := vs.head?.map fun v => v.2.core
  let tables := fun (m : Core → Assoc Table) => (from'.map fun c => (tablesOf (m (s.core c)) g.launch).keys).getD []
  { launch := g.launch, div := div, width := g.width, tiles := g.kernel.tiles, ws := vs.map fun v => v.2.group.w
    slots := vs.map fun v => v.2.slot, scr := (vs.findSome? fun v => v.2.alloc).map (·.units)
    patterns := tables (·.patterns), decoders := tables (·.decoders), source := from' }

/-- A path as it goes on after a resumption: what it waited for in `bar.wait` or `rclaim` is asked for again (R292, R382), and where an
image has been installed meanwhile it goes on under that one (R386). -/
def Path.resumed (p : Path) (now : Nat) (view : View) : Path :=
  let p := { p.unlanded with pend := p.pend.map PendWrite.settled, seen := p.seen.map PendWrite.settled, pick := 0, readyAt := now, aged := false, parked := none, view := if p.view.loads = view.loads then p.view else view }
  match p.phase with
  | .stalled .barrier => { p with phase := .resumable }
  | .stalled .claim => { p with phase := .resumable }
  | _ => p

/-- An access to scratchpad of an allocation, now on another core. -/
def Access.moved (a : Access) (alloc c : Nat) : Access :=
  match a.tgt with
  | .scratch _ i off => if i = alloc then { a with tgt := .scratch c i off } else a
  | _ => a

/-- The state with what a group has in flight on the core and in the slot to which it moves. -/
def State.moveWork (s : State) (g : Group) (c sl : Nat) : State :=
  let op := fun (p : Nat × Op) =>
    if p.2.owner != g.uid then p
    else (p.1, { p.2 with
      core := c
      seq := p.2.seq.settled
      agent := (match p.2.agent with
        | .path _ _ i => Agent.path c sl i
        | a => a)
      lanes := p.2.lanes.map fun a => a.moved g.alloc c
      todo := p.2.todo.map fun a => a.moved g.alloc c })
  -- a command goes on under the image installed now (R386), and the time of a task counts again from here on (R238)
  let view := s.viewOf g.ctx
  let cmd := fun (p : Nat × Cmd) => if p.2.uid = g.uid && !p.2.ofSlot then
    (p.1, { p.2 with core := c, gid := gidOf c sl, view := if p.2.view.loads = view.loads then p.2.view else view, mark := s.cyc c, spell := if p.2.kind = .tile && !s.depsMet p.2 then .operands else p.2.spell })
    else p
  { s with ops := s.ops.map op, cmds := s.cmds.map cmd }

/-- The state in which the referred faults of a group's paths that find no ring slot wait, and SWAIT counts them (R391, R419). -/
def State.countRefers (s : State) (c sl : Nat) : State :=
  match s.group? c sl with
  | none => s
  | some g => g.paths.foldl (fun s p => match p.2.phase with
      | .stalled (.refer _) => s.countWait (.path c sl p.1) g.ctx
      | _ => s) s

/-- The state with a saved group in its slot of a core again, whose L1 keeps no copy older than what its threads have seen, and with the
tables of its launch, which no one has replaced on the core where they were saved (R255, R292, R301, R385, R387). -/
def State.restoreGroup (s : State) (c : Nat) (v : Nat × SavedGroup) : State :=
  let g := v.2.group
  let sl := v.2.slot
  let view := s.viewOf g.ctx
  let tables := fun (m : Core → Assoc Table) => if v.2.core = c then [] else (tablesOf (m (s.core v.2.core)) g.launch).mapVals Table.settled
  let s := (s.sweepTables c).acquire c .pkg
  let s := { s with engine := { s.engine with saved := Assoc.erase s.engine.saved v.1 } }
  let s := s.modCore c fun k =>
    let at' := fun (a : Alloc) => (firstFit (k.allocs.vals.map fun b => (b.first, b.units)) a.units (bits k.lscfg.toNat 8 8)).getD 0
    { k with
      free := k.free - (g.w / 8 + 1)
      slots := Assoc.set k.slots sl { g with watch := 0, stamps := g.stamps.mapVals Stamp.settled, paths := g.paths.mapVals fun p => p.resumed (s.cyc c) view }
      allocs := (match v.2.alloc with
        | some a => Assoc.set k.allocs g.alloc { a with first := at' a }
        | none => k.allocs)
      helpers := (match v.2.frame with
        | some h => Assoc.set k.helpers (512 + sl) { h with path := h.path.resumed (s.cyc c) view }
        | none => k.helpers)
      patterns := (tables (·.patterns)).foldl (fun m t => Assoc.set m t.1 t.2) k.patterns
      decoders := (tables (·.decoders)).foldl (fun m t => Assoc.set m t.1 t.2) k.decoders }
  -- a referred fault that finds no ring slot waits, and SWAIT counts it (R419)
  (s.moveWork g c sl).countRefers c sl

/-- The core that holds an allocation, if a core does. -/
def State.allocCore? (s : State) (alloc : Nat) : Option Nat := (s.cores.find? fun k => (Assoc.get? k.2.allocs alloc).isSome).map (·.1)

/-- The state with saved groups of one core unit on a core of a range again, on the one that has their allocation where one
has it; none where they do not fit. -/
def State.restoreUnit (s : State) (lo n div : Nat) (vs : List (Nat × SavedGroup)) : Option State :=
  let w := s.savedWant div vs
  let alloc := (vs.head?.map fun v => v.2.group.alloc).getD 0
  let c := match s.allocCore? alloc with
    | some c => if lo ≤ c && c < lo + n && (s.fits c w).isSome then some c else none
    | none => s.bestCore lo n w
  c.map fun c => (vs.foldl (fun s v => s.restoreGroup c v) (s.divide c div)).refreshKeys c

/-- The saved groups split by core unit. -/
def byUnit (vs : List (Nat × SavedGroup)) (unit : Nat) : List (List (Nat × SavedGroup)) :=
  ((vs.map fun v => v.2.group.unit / unit).eraseDups).map fun u => vs.filter fun v => v.2.group.unit / unit = u

/-- The state with a gang's saved groups resident again, as a whole; none where a group of it is still being stopped, or they do not fit
(R292). -/
def State.resumeGang (s : State) (launch : Nat) (r : Running) (gang : Nat) : Option State :=
  let sh := r.shape
  let vs := s.gangSaved launch gang sh.gang
  let die := if sh.die = 0 then none else Assoc.get? r.dies (gang * sh.gang / sh.die)
  let (lo, n) := match die with
    | some d => (1024 * d, 1024)
    | none => (0, 4096)
  let stopping := s.groupsOf fun g => g.launch = launch && g.unit / sh.gang = gang && g.stopping && !g.killed
  if vs.isEmpty || !stopping.isEmpty || (s.context r.ctx).held || !(vs.all fun v => v.2.eligible) then none
  else if !sh.cluster then s.restoreUnit lo n sh.div vs
  else
    let here := (s.groupsOf fun g => g.launch = launch && g.unit / sh.gang = gang).map fun p => p.1 / 16
    let qs := match here with
      | q :: _ => [q]
      | [] => (List.range (n / 16)).map (lo / 16 + ·)
    qs.findSome? fun q =>
      if sh.fused && !s.clusterOpen q launch gang sh.gang then none
      else (byUnit vs sh.unit).foldl (fun (acc : Option State) u => acc.bind fun s => s.restoreUnit (16 * q) 16 sh.div u)
        (some (if sh.fused then s.fuse q launch sh.div else s))

/-- The gangs with saved groups, in the order of R373 step 1: priority, then the earlier pre-emption. -/
def State.waitingGangs (s : State) : List (Nat × Running × Nat) :=
  let rank := fun (v : SavedGroup) => ((7 - ((Assoc.get? s.engine.running v.group.launch).map (·.prio)).getD 0), v.order)
  let vs := s.engine.saved.vals.foldl (fun acc x =>
    let before := fun (y : SavedGroup) => (rank y).1 < (rank x).1 || ((rank y).1 = (rank x).1 && (rank y).2 < (rank x).2)
    acc.filter before ++ [x] ++ acc.filter fun y => !before y) []
  (vs.filterMap fun v => (Assoc.get? s.engine.running v.group.launch).map fun r =>
    (v.group.launch, r, v.group.unit / r.shape.gang)).eraseDups

/-- GROUP_RESUME: the first gang of saved groups that fits is placed again (R373, R385). -/
def execGroupResume (s : State) : Host.Outcome State Fault Refusal :=
  match s.waitingGangs.findSome? fun x => s.resumeGang x.1 x.2.1 x.2.2 with
  | some s' => .next s'
  | none => .fault .notEnabled

/-- PLACE_UNIT: with no pre-empted group that could resume, the next unit of the first record that has room is placed (R284 to
R288, R373). -/
def execPlaceUnit (s : State) : Host.Outcome State Fault Refusal :=
  if (s.waitingGangs.findSome? fun x => s.resumeGang x.1 x.2.1 x.2.2).isSome then .fault .notEnabled
  else
    let go := s.heads.findSome? fun x => match Assoc.get? s.engine.running x.2.id with
      | none => none
      | some r => (s.placeNext x.2 r).map fun p => p.1.placed x.1 x.2 r p.2
    match go with
    | some s' => .next s'
    | none => .fault .notEnabled

/-- LAUNCH_PRED_CHECK: the PRED words of a Held record are read at their homes, once what the launch follows has been acknowledged; a read
that fails counts as zero, and a borrowed line that it needs is asked for (R222, R246, R291). -/
def execLaunchPredCheck (queue entry : Nat) (s : State) : Host.Outcome State Fault Refusal :=
  match (s.queue queue)[entry]? with
  | none => .fault .notEnabled
  | some l =>
    if l.st != .held then .fault .notEnabled
    else
      let reads := (recPreds l.record).map fun va => s.hwLoad (recCtx l.record) va 8
      let done := (l.after.all fun i => (Assoc.get? s.ops i).isNone) && reads.all fun r => match r with
        | .ok bs => ofBytes bs != 0
        | .error _ => false
      .next (if done then
          { s with
            engine := { s.engine with
              queues := Assoc.set s.engine.queues queue (modifyAt (s.queue queue) entry fun l => { l with st := .placing }) } }
        else reads.foldl (fun s r => match r with
          | .ok _ => s
          | .error e => s.fetchMiss e.1) s)

/-! ## Retirement (R246, R291, R294, R295) -/

/-- The state after a group of a unit has left a core: the allocation goes with the last, or to a saved group of the unit
(R292, R295). -/
def State.leaveAlloc (s : State) (c alloc : Nat) : State :=
  if (s.core c).slots.any fun p => p.2.alloc = alloc then s
  else
    let a := s.alloc? c alloc
    let s := s.modCore c fun k => { k with allocs := Assoc.erase k.allocs alloc }
    match s.engine.saved.find? fun v => v.2.group.alloc = alloc with
    | none => s
    | some v => { s with
        engine := { s.engine with saved := Assoc.set s.engine.saved v.1 { v.2 with alloc := a } } }

/-- The state with clusters no longer fused that no group of the fusing launch is left in (R287). -/
def State.unfuse (s : State) (c : Nat) : State :=
  match (s.core c).fused with
  | none => s
  | some l =>
    let q := c / 16
    if (List.range 16).any fun i => (s.core (16 * q + i)).slots.any fun p => p.2.launch = l then s
    else (List.range 16).foldl (fun s i => s.modCore (16 * q + i) fun k => { k with fused := none }) s

/-- A draining group has nothing left to wait for (R294). -/
def State.drained (s : State) (c sl : Nat) (g : Group) : Bool :=
  g.life = .draining &&
  ([Ctr.ld, .st, .am, .cp, .tt, .sv].all fun x => g.rings.count x = 0) &&
  !((s.core c).gives.any fun v => v.slot = sl) &&
  !((s.core c).helpers.any fun h => h.2.slot = sl || h.2.lentSlot = sl) &&
  !(s.ops.any fun p => p.2.owner = g.uid) && !(s.cmds.any fun p => p.2.uid = g.uid && !p.2.ofSlot)

/-- The state with one group of a launch fewer; with the last one a launch that is not being ended has completed, and DONE is
written (R246, R291). -/
def State.countRetired (s : State) (launch : Nat) : State :=
  match Assoc.get? s.engine.running launch with
  | none => s
  | some r =>
    let r := { r with left := r.left - 1 }
    if r.left != 0 || r.ending.isSome then
      { s with
        engine := { s.engine with running := Assoc.set s.engine.running launch r } }
    else
      let s := if r.done = 0 then s else (s.hwStore r.ctx r.done (toBytes 8 r.lid.toNat)).getD s
      { s with
        engine := { s.engine with running := Assoc.erase s.engine.running launch } }

/-- GROUP_RETIRE: a drained group returns its units, tiles and slot, and the waiting claims are tested again (R295). -/
def execGroupRetire (gid : Nat) (s : State) : Host.Outcome State Fault Refusal :=
  let c := gid / 16
  let sl := gid % 16
  match s.group? c sl with
  | none => .fault .notEnabled
  | some g =>
    if !s.drained c sl g then .fault .notEnabled
    else
      let s := s.modCore c fun k => { k with free := k.free + (g.w / 8 + 1), slots := Assoc.erase k.slots sl }
      .next ((((s.leaveAlloc c g.alloc).unfuse c).grantClaims c (s.core c).claims.length).countRetired g.launch)

/-! ## The end of a launch (R401, R402) -/

/-- END_COMPLETE: every group of a launch that is being ended has retired and the running copies of its saved groups are
complete: EDERR and EDADDR are written, and the end is reported (R385, R401, R417, R418). -/
def execEndComplete (launch : Nat) (s : State) : Host.Outcome State Fault Refusal :=
  match Assoc.get? s.engine.running launch with
  | none => .fault .notEnabled
  | some r => match r.ending with
    | none => .fault .notEnabled
    | some e =>
      if r.left != 0 || s.cmds.any fun p => p.2.launch = launch && !p.2.ofSlot then .fault .notEnabled
      else
        let base := (s.context r.ctx).tarea.toNat
        let err := toBytes 4 r.ederr
        let s := (s.hwStore r.ctx (base + 0x1C) err).getD s
        let s := (s.hwStore r.ctx (base + 0x28) (toBytes 8 r.edaddr.toNat)).getD s
        let s := { s with
          engine := { s.engine with running := Assoc.erase s.engine.running launch } }
        let s := e.slots.foldl (fun s k => s.answer k 0 (err ++ toBytes 4 0 ++ toBytes 8 r.edaddr.toNat)) s
        .next (if e.asked then s
          else s.postEvent 2 r.ctx (toBytes 8 r.lid.toNat ++ [e.ecause, e.en] ++ toBytes 2 0 ++ err) false)

/-! ## The watchdog (R387, R388) -/

/-- A path stands inside a clause. -/
def Path.inside (p : Path) : Bool := !p.clause.words.isEmpty && !p.phase.atBoundary

/-- The state with the watchdog raised on a path that is at a halt point, or marked to be raised at its next one: a held path's is the
boundary at which HOLD clears, and a path whose helpers have not left waits at its halt point (R388). -/
def State.bitePath (s : State) (c sl i : Nat) : State :=
  let a := Agent.path c sl i
  match s.issuer? a with
  | none => s
  | some u =>
    let p := u.path
    let serviced : Bool := match p.phase with
      | .held _ _ => true
      | .stalled (.refer _) => true
      | _ => false
    if serviced then s
    else if p.hold || (p.inside && p.rgc && p.phase = .issuing) then s.modPath a fun p => { p with bite := true }
    else if s.helped u then
      let s := if p.inside && !p.rgc then (s.leaveClause a).modPath a Path.restart else s
      s.modPath a fun p => { p with bite := true, phase := if p.inside then p.phase else .boundary }
    else s.bite u

/-- WATCHDOG_EXPIRY: a group's count has passed the limit, or a path marked then has come to a halt point inside a clause (R388). -/
def execWatchdogExpiry (gid : Nat) (s : State) : Host.Outcome State Fault Refusal :=
  let c := gid / 16
  let sl := gid % 16
  match s.group? c sl with
  | none => .fault .notEnabled
  | some g =>
    let limit := (s.context g.ctx).watchdog
    let due := g.life = .resident && !g.killed && limit != 0 && limit.toNat < g.watch
    let marked := g.paths.filter fun p => p.2.bite && !p.2.hold && !((s.issuer? (.path c sl p.1)).any s.helped) && (match p.2.phase with
      | .stalled _ => true
      | .resumable => true
      | _ => false)
    if due then
      let s := (s.modGroup c sl fun g => { g with watch := 0 }).releaseHelpers c fun h => h.slot = sl
      .next (g.paths.keys.foldl (fun s i => s.bitePath c sl i) s)
    else if marked.isEmpty then .fault .notEnabled
    else .next (marked.foldl (fun s p => s.bitePath c sl p.1) s)

end Sys2Proof.Machine
end

