-- ==== Sys2Proof/Machine/CrossLane.lean ====
section
/-! DEFINITION. Cross-lane instructions: shuffle, broadcast, votes, scan, reduction, mask population, the Carousel's byte
patterns, and stream decode (R247 to R260). -/
namespace Sys2Proof.Machine

/-- Checks of a cross-lane instruction (R90, R247). -/
def laneReq (u : Issuer) (uses : List Use) : Req := { cls := Cls.alu, uses := uses, may := u.kind != .steward }

/-- A destination of v registers: one, or a pair (R247). -/
def vDst (wide : Bool) (o : Opnd) : Use := { o := o, role := if wide then .vpair else .vreg, write := true }
/-- A source of v registers. -/
def vSrc (wide : Bool) (o : Opnd) : Use := { o := o, role := if wide then .vpair else .vreg }
/-- A destination of v registers or of one g register. -/
def vgDst (wide : Bool) (o : Opnd) : Use := { o := o, role := if wide then .w64 else .w32, write := true }

/-- The state after a cross-lane instruction that gives each thread in exec a value (R248, R67). -/
def State.laneResult (s : State) (u : Issuer) (d : Opnd) (wide : Bool) (sc : Fin 16) (f : Nat → DWord) : State :=
  s.result u false d wide 6 sc f

/-! ## Shuffle, broadcast, vote, mask population (R250, R251) -/

/-- The source thread of `shfl` for a thread, if it lies in the segment (R250). -/
def shflSource (mode seg t n : Nat) : Option Nat :=
  let b0 : Int := t - t % seg
  let j : Int := match mode with
    | 0 => b0 + n
    | 1 => (t : Int) - n
    | 2 => t + n
    | _ => (t ^^^ n : Nat)
  if b0 ≤ j && j < b0 + seg then some j.toNat else none

/-- `shfl` (R250). -/
def execShfl (f : F3) (s : State) : Host.Outcome State Fault Refusal :=
  let w := isWide f.ty
  issue s (.shfl f)
    (fun u => { laneReq u [vDst w f.d, vSrc w f.a, srcUse w f.b] with
                may := u.kind != .steward && !(u.w32 && 6 ≤ bits f.x.toNat 2 3) })
    fun u => s.laneResult u f.d w f.sc fun t =>
      let j := shflSource (bits f.x.toNat 0 2) (2 ^ bits f.x.toNat 2 3) t (s.read32 u f.b t).toNat
      s.src u w f.a (match j with
        | some j => if u.lanes.contains j then j else t
        | none => t)

/-- `bcast` (R251). -/
def execBcast (f : F3) (s : State) : Host.Outcome State Fault Refusal :=
  let w := isWide f.ty
  issue s (.bcast f)
    (fun u => laneReq u [vgDst w f.d, vSrc w f.a, gUse f.b false])
    fun u =>
      let j := if f.x.getLsbD 0 then u.lanes.headD 0 else (s.read64 u f.b 0).toNat
      let x := if u.lanes.contains j then s.src u w f.a j else 0
      s.laneResult u f.d w f.sc fun _ => x

/-- The predicate of `vote` for a thread (R251). -/
def State.votes (s : State) (u : Issuer) (f : F3) (t : Nat) : Bool := s.read32 u f.a t != 0

/-- Checks of a vote that writes 0 or 1 (R247, R251). -/
def voteReq (f : F3) (u : Issuer) : Req := laneReq u [gUse f.d true, vSrc false f.a]

/-- `vote.ballot` (R251). -/
def execVoteBallot (f : F3) (s : State) : Host.Outcome State Fault Refusal :=
  issue s (.voteBallot f)
    (fun u => laneReq u [{ o := f.d, role := .mask, write := true }, vSrc false f.a])
    fun u => s.condResult u false f.d 6 f.sc (s.votes u f)

/-- `vote.any` (R251). -/
def execVoteAny (f : F3) (s : State) : Host.Outcome State Fault Refusal :=
  issue s (.voteAny f) (voteReq f) fun u => s.laneResult u f.d false f.sc fun _ => if u.lanes.any (s.votes u f) then 1 else 0

/-- `vote.all` (R251). -/
def execVoteAll (f : F3) (s : State) : Host.Outcome State Fault Refusal :=
  issue s (.voteAll f) (voteReq f) fun u => s.laneResult u f.d false f.sc fun _ => if u.lanes.all (s.votes u f) then 1 else 0

/-- `vote.eq` (R251). -/
def execVoteEq (f : F3) (s : State) : Host.Outcome State Fault Refusal :=
  issue s (.voteEq f) (voteReq f) fun u => s.laneResult u f.d false f.sc fun _ =>
    if u.lanes.all fun t => s.read32 u f.a t == s.read32 u f.a (u.lanes.headD 0) then 1 else 0

/-- The 1 bits of a mask among its first `n`. -/
def maskCount (m : Mask) (n : Nat) : Nat := (bitsOf m n).length

/-- `mpop` (R251). -/
def execMpop (f : F3) (s : State) : Host.Outcome State Fault Refusal :=
  issue s (.mpop f)
    (fun u => laneReq u [vDst false f.d, { o := f.a, role := .mask }])
    fun u => s.laneResult u f.d false f.sc fun t =>
      BitVec.ofNat 64 (maskCount (s.readMask u f.a) (if f.x.getLsbD 0 then 128 else t))

/-! ## Scan and reduction (R113, R252 to R254) -/

/-- An integer or bitwise combination on exact values (R252). -/
def combineInt (op : Nat) (a b : Int) : Int :=
  match op with
  | 0 => a + b
  | 1 => if b < a then b else a
  | _ => if a < b then b else a

/-- A combination of bits (R252). -/
def combineBits (op : Nat) (a b : DWord) : DWord :=
  match op with
  | 3 => a &&& b
  | 4 => a ||| b
  | _ => a ^^^ b

/-- A floating combination, rounded (R252). -/
def combineFloat (op : Nat) (v : FEnv) (f : FFmt) (a b : Nat) : Nat :=
  if op = 0 then fAdd v f a b else f.minMax (op = 2) v.ftz a b

/-- The identity of a floating operation (R252). -/
def floatIdentity (op : Nat) (f : FFmt) : Nat := if op = 0 then 0 else f.signed (op = 2) f.inf

/-- The identity of an integer operation (R252). -/
def intIdentity (op : Nat) (t : DType) : Int :=
  match op with
  | 0 => 0
  | 1 => maxInt (typeWidth t) (isSigned t)
  | _ => minInt (typeWidth t) (isSigned t)

/-- The running combinations of a list, each before (exclusive) or after its element is taken in (R253). The first element passes as it
is (log 97). -/
def scanList {α : Type} (op : α → α → α) (ident : α) (excl : Bool) : Option α → List α → List α
  | _, [] => []
  | acc, x :: l =>
    let new := match acc with
      | none => x
      | some a => op a x
    (if excl then acc.getD ident else new) :: scanList op ident excl (some new) l

/-- One level of the tree of Table 4 of the format chapter: adjacent positions, an absent one passing the other on. -/
def treeLevel {α : Type} (op : α → α → α) : List (Option α) → List (Option α)
  | some a :: some b :: l => some (op a b) :: treeLevel op l
  | some a :: none :: l => some a :: treeLevel op l
  | none :: b :: l => b :: treeLevel op l
  | l => l

/-- The tree over the positions; fuel for its levels. -/
def treeFold {α : Type} (op : α → α → α) : Nat → List (Option α) → Option α
  | 0, l => l.head?.join
  | n + 1, l => treeFold op n (treeLevel op l)

/-- The operation of `scan` and `rdx`. -/
def redOp (f : F3) : Nat := bits f.x.toNat 1 3

/-- The floating and the bitwise type of a reduction. -/
def isFloatRed (f : F3) : Bool := f.ty == .f32 || f.ty == .f64

/-- Checks of `scan` and `rdx` (R247, R252). -/
def laneRedReq (f : F3) (u : Issuer) (g : Bool) : Req :=
  let w := isWide f.ty
  { laneReq u [if g then vgDst w f.d else vDst w f.d, vSrc w f.a] with fmt := isFloatRed f }

/-- The source values of a floating reduction as read (R101, R252). -/
def State.redFloats (s : State) (u : Issuer) (f : F3) : List Nat :=
  u.lanes.map fun t => (ffmt f.ty).flushed (u.fenv f.rm f.s).ftz (s.src u (isWide f.ty) f.a t).toNat

/-- `scan` (R113, R253). -/
def execScan (f : F3) (s : State) : Host.Outcome State Fault Refusal :=
  issue s (.scan f) (fun u => laneRedReq f u false) fun u =>
    let op := redOp f
    let excl := f.x.getLsbD 0
    let w := isWide f.ty
    let out : List DWord :=
      if isFloatRed f then
        (scanList (combineFloat op (u.fenv f.rm f.s) (ffmt f.ty)) (floatIdentity op (ffmt f.ty)) excl none (s.redFloats u f)).map (BitVec.ofNat 64)
      else if op ≤ 2 then
        (scanList (combineInt op) (intIdentity op f.ty) excl none (u.lanes.map fun t => intValue f.ty (s.src u w f.a t))).map (intResult f.ty f.s)
      else scanList (combineBits op) (if op = 3 then BitVec.allOnes 64 else 0) excl none (u.lanes.map fun t => s.src u w f.a t)
    s.laneResult u f.d w f.sc fun t => ((u.lanes.zip out).lookup t).getD 0

/-- `rdx` (R113, R254). -/
def execRdx (f : F3) (s : State) : Host.Outcome State Fault Refusal :=
  issue s (.rdx f) (fun u => laneRedReq f u true) fun u =>
    let op := redOp f
    let w := isWide f.ty
    let x : DWord :=
      if isFloatRed f then
        let vals := u.lanes.zip (s.redFloats u f)
        BitVec.ofNat 64 ((treeFold (combineFloat op (u.fenv f.rm f.s) (ffmt f.ty)) 7
          ((List.range 128).map fun t => vals.lookup t)).getD 0)
      else if op ≤ 2 then
        match u.lanes.map fun t => intValue f.ty (s.src u w f.a t) with
        | [] => 0
        | a :: l => intResult f.ty f.s (l.foldl (combineInt op) a)
      else match u.lanes.map fun t => s.src u w f.a t with
        | [] => 0
        | a :: l => l.foldl (combineBits op) a
    s.laneResult u f.d w f.sc fun _ => x

/-! ## The Carousel and stream decode (R255 to R260) -/

/-- The local-store stores of a group in flight (R256). -/
def State.localStores (s : State) (owner : Nat) : List Nat :=
  (s.ops.filter fun p => p.2.owner = owner &&
    (match p.2.kind with
     | .load => false
     | .ldx _ => true
     | _ => p.2.todo.any fun a => match a.tgt with
       | .scratch _ _ _ => true
       | _ => false)).map (·.1)

/-- The checks of `xpat` and `vdtab`, and their entries (R256); who owns the table is looked at last (R255; log 107). -/
def State.withTable (s : State) (u : Issuer) (a : Opnd) (size : Nat) (ok : Nat → BitVec 16 → Bool) (old : Option Table)
    (k : State → List (BitVec 16) → State) : State :=
  let v := (s.read64 u a 0).toNat
  let al := ((s.group? u.core u.slot).map (·.alloc)).getD 0
  let room := ((s.alloc? u.core al).map (·.size)).getD 0
  if 2 ^ 32 ≤ v then s.raiseHere u 0x02
  else if v % 16 != 0 then s.raise u (u.faultAt 0x06 v)
  else if room < v + size then s.raise u (u.faultAt 0x07 v)
  else
    let older := s.localStores (s.ownerOf u)
    if !older.isEmpty then s.stall u (.drain older)
    else
      s.readInTurn u ((Target.scratch u.core al v).lines size) fun s =>
      let bs := s.scratchRead u.core al v size
      let es := (List.range (size / 2)).map fun i => BitVec.ofNat 16 (valueAt bs (2 * i) 2)
      if !((List.range es.length).all fun i => ok i (es.getD i 0)) then s.raiseHere u 0x02
      else match s.tableOwner? u.core old with
        | some l => if l = u.launch then k s es else s.raiseProtection u
        | none => k s es

/-- A pattern selector passes the check of R257; `j` is its byte. -/
def selectorOk (i : Nat) (e : BitVec 16) : Bool :=
  let kind := bits e.toNat 14 2
  bits e.toNat 10 4 = 0 && bits e.toNat 7 1 = 0 && kind != 3 && !(kind = 2 && i % 4 = 0)

/-- What a table holds for an instruction of the launch that owns it, at its place in the issue order; none where the launch does not
own it (R255, R256). -/
def State.tableFor? (s : State) (u : Issuer) (t : Option Table) : Option TableVersion :=
  match t.bind fun t => t.seenAt (s.seqOf u.agent) with
  | none => none
  | some v => if v.launch = u.launch && s.ownsTables u.core v.launch then some v else none

/-- `xpat` (R255 to R257). -/
def execXpat (f : F3) (s : State) : Host.Outcome State Fault Refusal :=
  issue s (.xpat f) (fun u => { laneReq u [gUse f.a false] with may := u.kind == .simt }) fun u =>
    let old := Assoc.get? (s.core u.core).patterns f.x.toNat
    s.withTable u f.a 1024 selectorOk old fun s es =>
      (s.modCore u.core fun k => { k with
        patterns := Assoc.set k.patterns f.x.toNat (replaceTable old u.launch (s.seqOf u.agent) es) }).retire u f.sc

/-- A byte of `xbar` from its selector, with the bytes below it (R258). -/
def xbarByte (src : Nat → Word) (usable : Nat → Bool) (e : BitVec 16) (below : List Byte) : Byte :=
  match bits e.toNat 14 2 with
  | 0 =>
    let t := bits e.toNat 0 7
    if usable t then BitVec.ofNat 8 (bits (src t).toNat (8 * bits e.toNat 8 2) 8) else 0
  | 1 => 0
  | _ => if (below.getLastD 0).getLsbD 7 then 0xFF else 0

/-- `xbar` (R255, R258). -/
def execXbar (f : F3) (s : State) : Host.Outcome State Fault Refusal :=
  issue s (.xbar f) (fun u => laneReq u [vDst false f.d, vSrc false f.a]) fun u =>
    match s.tableFor? u (Assoc.get? (s.core u.core).patterns f.x.toNat) with
    | none => s.raiseProtection u
    | some t => s.laneResult u f.d false f.sc fun i =>
        BitVec.ofNat 64 (ofBytes ((List.range 4).foldl (fun bs j =>
          bs ++ [xbarByte (fun k => s.read32 u f.a k) u.lanes.contains (t.entries.getD (4 * i + j) 0) bs]) []))

/-- `vdtab` (R255, R256, R259). -/
def execVdtab (f : F3) (s : State) : Host.Outcome State Fault Refusal :=
  let q := bits f.x.toNat 2 4
  let n := bits f.x.toNat 0 2
  issue s (.vdtab f) (fun u => { laneReq u [gUse f.a false] with may := u.kind == .simt }) fun u =>
    let old := Assoc.get? (s.core u.core).decoders n
    s.withTable u f.a (2 ^ (q + 1)) (fun _ e => bits e.toNat 12 4 ≤ q) old fun s es =>
      (s.modCore u.core fun k => { k with decoders := Assoc.set k.decoders n (replaceTable old u.launch (s.seqOf u.agent) es) }).retire u f.sc

/-- The decode of a window: the symbols, the offset after them and the error flag (R260). -/
def decodeStream (tab : List (BitVec 16)) (w : Nat) : Nat → Nat → List Nat → List Nat × Nat × Bool
  | 0, o, syms => (syms, o, false)
  | n + 1, o, syms =>
    if 64 ≤ o then (syms, o, false)
    else
      let e := (tab.getD ((w / 2 ^ o) % tab.length) 0).toNat
      let len := bits e 12 4
      if len = 0 then (syms, o, true)
      else if 64 < o + len then (syms, o, false)
      else decodeStream tab w n (o + len) (syms ++ [bits e 0 12])

/-- The four words of `vdec` (R260). -/
def decodeWords (tab : List (BitVec 16)) (maxs w o0 : Nat) : List Word :=
  let (syms, o, err) := decodeStream tab w maxs o0 []
  let c := syms.length
  let two := fun i => BitVec.ofNat 32 (syms.getD (2 * i + 1) 0 * 2 ^ 16 + syms.getD (2 * i) 0)
  let used := if c = 0 && 64 ≤ o0 then 0 else (o - o0) % 256
  [two 0, two 1, two 2, BitVec.ofNat 32 (err.toNat * 2 ^ 16 + used * 256 + c)]

/-- `vdec` (R255, R260): the destination is interlocked. -/
def execVdec (f : F3) (s : State) : Host.Outcome State Fault Refusal :=
  issue s (.vdec f)
    (fun u => laneReq u [{ o := f.d, role := .vquad, write := true }, vSrc true f.a, vSrc false f.b])
    fun u =>
      match s.tableFor? u (Assoc.get? (s.core u.core).decoders (bits f.x.toNat 0 2)) with
      | none => s.raiseProtection u
      | some t =>
        let ws := u.lanes.map fun i => (i, decodeWords t.entries (bits f.x.toNat 2 3) (s.read64 u f.a i).toNat (s.read32 u f.b i).toNat)
        let d := match f.d with
          | .v n => n.val
          | .g n => n.val
        (s.pushWrites u ((List.range 4).map fun k => (.v (d + k), ws.map fun w => (w.1, (w.2.getD k 0).setWidth 64))) 1).retire u f.sc

end Sys2Proof.Machine
end

