-- ==== Sys2Proof/Machine/Preempt.lean ====
section
/-! DEFINITION. Pre-emption: the request, the stop of the selected groups, and their saving (R186, R381 to R386, R417). -/
namespace Sys2Proof.Machine

/-! ## The request (R381) -/

/-- A pre-emption request (Table 1 of the pre-emption chapter). -/
structure Request where
  op     : Nat
  sel    : Nat
  ctx    : Nat
  lid    : DWord
  cfirst : Nat
  clast  : Nat
  slen   : Nat
  donew  : Nat
  /-- Every field is in range and every reserved one zero. -/
  ok     : Bool
deriving DecidableEq, Repr

/-- The request in a slot's payload. -/
def requestOf (bs : List Byte) : Request :=
  let op := valueAt bs 0 1
  let sel := valueAt bs 1 1
  let ctx := valueAt bs 4 4
  let lid := valueAt bs 8 8
  let cfirst := valueAt bs 0x10 2
  let clast := valueAt bs 0x12 2
  let save := valueAt bs 0x18 8
  let slen := valueAt bs 0x20 8
  let donew := valueAt bs 0x28 8
  { op := op, sel := sel, ctx := ctx, lid := BitVec.ofNat 64 lid, cfirst := cfirst, clast := clast, slen := slen, donew := donew
    ok := 1 ≤ op && op ≤ 3 && sel ≤ 2 && (op != 3 || sel = 1) && valueAt bs 2 2 = 0 && ctx < 1024 && (sel = 1 || ctx = 0) &&
      (sel = 2 || lid = 0) && cfirst < 4096 && cfirst ≤ clast && clast < 4096 && (sel = 0 || (cfirst = 0 && clast = 0)) &&
      valueAt bs 0x14 4 = 0 && save % 4096 = 0 && slen % 4096 = 0 && donew % 8 = 0 }

/-- A group of a core is selected. -/
def State.selects (s : State) (q : Request) (core : Nat) (g : Group) : Bool :=
  if q.sel = 0 then q.cfirst ≤ core && core ≤ q.clast
  else if q.sel = 1 then g.ctx = q.ctx
  else s.lidOf g.launch = q.lid.toNat

/-- The bytes that a group's saved state takes, and those of an allocation (R384). -/
def Group.savedSize (g : Group) : Nat := (g.w / 8 + 1) * 4096 + 16384 * g.kernel.tiles + 8192

/-- The selected resident groups, each with its core and slot. -/
def State.selected (s : State) (q : Request) : List (Nat × Nat × Group) :=
  s.cores.flatMap fun k => (k.2.slots.filter fun p => p.2.life = .resident && !p.2.killed && s.selects q k.1 p.2).map fun p => (k.1, p.1, p.2)

/-- The bytes of the save region that some groups need, with the allocations that would leave with them (R382, R384). -/
def State.saveSize (s : State) (gs : List (Nat × Nat × Group)) : Nat :=
  let allocs := (gs.map fun x => (x.1, x.2.2.alloc)).eraseDups
  let leaving := allocs.filter fun a => (s.core a.1).slots.all fun p => p.2.alloc != a.2 || gs.any fun x => x.1 = a.1 && x.2.1 = p.1
  gs.foldl (fun n x => n + x.2.2.savedSize) 0 + leaving.foldl (fun n a => n + ((s.alloc? a.1 a.2).map (·.size)).getD 0 + 4096) 0

/-- The state with the status word of a request written, through context 0 (R381). -/
def State.writeDonew (s : State) (va status : Nat) : State := (s.hwStore 0 va (toBytes 8 status)).getD s

/-! ## Stopping (R186, R382) -/

/-- The state with a path of a selected group at its halt point, or on its way there (R382 step 3). -/
def State.haltPath (s : State) (a : Agent) : State :=
  match s.path? a with
  | none => s
  | some p =>
    if p.inside then
      if !p.rgc then (s.leaveClause a).restart a
      else match p.phase with
      -- a stall halt (R51)
      | .stalled _ => s.leaveClause a
      | .resumable => s.leaveClause a
      | _ => s
    else if p.phase.atBoundary then s.setPath a { p with phase := .boundary, clause := {}, present := false }
    else s

/-- The state with a group being pre-empted: its helpers and those lent its slot leave, its claims are withdrawn, and its paths
halt (R186, R212, R382). -/
def State.stopGroup (s : State) (c sl : Nat) : State :=
  let s := s.modCore c fun k => { k with preempt := true, claims := k.claims.filter fun x => x.slot != sl }
  let s := (s.modGroup c sl fun g => { g with stopping := true }).releaseHelpers c fun h => (h.slot = sl || h.lentSlot = sl) && !h.self
  let s := match s.group? c sl with
    | some g => g.paths.keys.foldl (fun (s : State) i => s.haltPath (.path c sl i)) s
    | none => s
  s.haltPath (.helper c (512 + sl))

/-- The state with some groups being pre-empted under a request (R382). -/
def State.stopGroups (s : State) (r : Preemption) (gs : List (Nat × Nat × Group)) : State :=
  let s := { s with engine := { s.engine with requests := s.engine.requests ++ [r] } }
  gs.foldl (fun s x => s.stopGroup x.1 x.2.1) s

/-- A pre-emption request that is accepted (R381, R382). -/
def State.preempt (s : State) (q : Request) : State :=
  let gs := s.selected q
  let tooSmall := q.slen < s.saveSize gs
  let s := if q.op = 3 && !tooSmall then s.modContext q.ctx fun k => { k with held := true } else s
  if gs.isEmpty then s.writeDonew q.donew 3
  else if tooSmall then s.writeDonew q.donew 2
  else s.stopGroups { op := q.op, ctx := q.ctx, donew := q.donew, gids := gs.map fun x => x.2.2.uid } gs

/-- A resume-only request: the hold is cleared and the selected saved groups may resume (R381). -/
def State.resumeOnly (s : State) (q : Request) : State :=
  let s := if q.sel = 1 then s.modContext q.ctx fun k => { k with held := false } else s
  let free := fun (v : SavedGroup) => if s.selects q v.core v.group then { v with eligible := true } else v
  let s := { s with engine := { s.engine with saved := s.engine.saved.mapVals free } }
  s.writeDonew q.donew 1

/-- Bytes of a slot's payload, by their offset in the slot, as the engine has read them (R416). -/
def State.payload (s : State) (slot off n : Nat) : List Byte :=
  (List.range n).map fun k => (Assoc.getD s.engine.images slot []).getD (off + k) 0

/-- The request of a PREEMPT command that waits in a slot (R416, R417). -/
def State.pendingRequest? (s : State) (slot : Nat) : Option Request :=
  match Assoc.get? s.engine.slots slot with
  | some w => if w % 256 = 2 then some (requestOf (s.payload slot 0x40 48)) else none
  | none => none

/-- PREEMPT: OP 1; and the refusal of a request whose OP is none of the three (R381). -/
def execPreempt (slot : Nat) (s : State) : Host.Outcome State Fault Refusal :=
  match s.pendingRequest? slot with
  | none => .fault .notEnabled
  | some q =>
    if q.op = 2 || q.op = 3 then .fault .notEnabled
    else if q.ok then .next ((s.preempt q).answer slot 0 [])
    else .next ((if q.donew % 8 = 0 then s.writeDonew q.donew 4 else s).answer slot 4 [])

/-- PREEMPT_RESUME_ONLY: OP 2 (R381). -/
def execPreemptResumeOnly (slot : Nat) (s : State) : Host.Outcome State Fault Refusal :=
  match s.pendingRequest? slot with
  | none => .fault .notEnabled
  | some q =>
    if q.op != 2 then .fault .notEnabled
    else if q.ok then .next ((s.resumeOnly q).answer slot 0 [])
    else .next ((if q.donew % 8 = 0 then s.writeDonew q.donew 4 else s).answer slot 4 [])

/-- PREEMPT_HOLD: OP 3 (R381). -/
def execPreemptHold (slot : Nat) (s : State) : Host.Outcome State Fault Refusal :=
  match s.pendingRequest? slot with
  | none => .fault .notEnabled
  | some q =>
    if q.op != 3 then .fault .notEnabled
    else if q.ok then .next ((s.preempt q).answer slot 0 [])
    else .next ((if q.donew % 8 = 0 then s.writeDonew q.donew 4 else s).answer slot 4 [])

/-! ## Saving (R255, R292, R382, R384) -/

/-- A path is halted: at a boundary, before an instruction it stalls at, or waiting for service. -/
def Path.halted (p : Path) : Bool :=
  match p.phase with
  | .issuing => false
  | .selected => false
  | .boundary => true
  | .stalled _ => true
  | .resumable => true
  | .held _ _ => true
  | _ => p.clause.words.isEmpty

/-- A group that is being pre-empted can be saved. -/
def State.haltedGroup (s : State) (c sl : Nat) (g : Group) : Bool :=
  (g.paths.all fun p => p.2.halted) && (s.core c).helpers.all fun h => (h.2.slot != sl && h.2.lentSlot != sl) || (h.2.self && h.2.path.halted)

/-- A path as it is saved: one that halted inside a clause of an uncommitted region is at its region entry (R177, R382 step 3). -/
def Path.asSaved (p : Path) : Path := if p.inside && !p.rgc then p.restart else p

/-- A tile task of a group that leaves its core: it goes on later where it stands (R237, R238). -/
def Cmd.paused (c : Cmd) (now : Nat) : Cmd := { (c.turnTo now .none) with started := false }

/-- The state with a group saved, and its slot, units and tiles free (R292, R382). -/
def State.saveGroup (s : State) (c sl : Nat) : State :=
  match s.group? c sl with
  | none => s
  | some g =>
    let k := s.core c
    let held := s.engine.requests.any fun r => (r.op = 3 || r.op = 4) && r.gids.contains g.uid
    let (order, s) := s.freshId
    let given := (k.gives.filter fun v => v.slot = sl).foldl (fun n v => n + v.n) 0
    let v : SavedGroup :=
      { group := { g with stopping := false, paths := g.paths.mapVals Path.asSaved }, order := order, eligible := !held, core := c, slot := sl
        frame := (Assoc.get? k.helpers (512 + sl)).map fun h => if h.path.inside && !h.path.rgc then h.restart (some g) else h }
    let s := s.modCore c fun k => { k with
      slots := Assoc.erase k.slots sl
      free := k.free + (g.w / 8 + 1) + given
      gives := k.gives.filter fun v => v.slot != sl
      claims := k.claims.filter fun v => v.slot != sl
      helpers := Assoc.erase k.helpers (512 + sl) }
    let s := { s with cmds := s.cmds.mapVals fun d => if d.uid = g.uid && d.kind = CmdKind.tile then d.paused (s.cyc c) else d }
    -- the tables that the launch owns on the core are saved with each of its groups there, as they stand (R255)
    let tables := fun (w : SavedGroup) => if w.core = c && w.group.launch = g.launch then
      { w with
        patterns := (tablesOf k.patterns g.launch).mapVals Table.settled
        decoders := (tablesOf k.decoders g.launch).mapVals Table.settled } else w
    let s := { s with engine := { s.engine with saved := (Assoc.set s.engine.saved g.uid v).mapVals tables } }
    let s := (s.cmds.filter fun d => d.2.uid = g.uid && !d.2.runsOn).foldl (fun s d => s.cancelTurn d.1) s
    (s.leaveAlloc c g.alloc).unfuse c

/-- A group of some name is still to be saved. -/
def State.stillStopping (s : State) (uid : Nat) : Bool :=
  s.cores.any fun k => k.2.slots.any fun p => p.2.uid = uid && p.2.stopping && !p.2.killed

/-- The state with the status words written of the requests every group of which is saved or gone (R381). -/
def State.settleRequests (s : State) : State :=
  let done := s.engine.requests.filter fun r => !r.gids.any s.stillStopping
  let s := { s with engine := { s.engine with requests := s.engine.requests.filter fun r => r.gids.any s.stillStopping } }
  done.foldl (fun s r => if r.op = 4 then s else s.writeDonew r.donew 1) s

/-- PREEMPT_SAVE: with every path halted and every helper gone, the core saves the groups being pre-empted (R382). -/
def execPreemptSave (core : Nat) (s : State) : Host.Outcome State Fault Refusal :=
  let mine := (s.core core).slots.filter fun p => p.2.stopping && !p.2.killed
  if (s.core core).preempt && mine.all fun p => s.haltedGroup core p.1 p.2 then
    .next ((mine.foldl (fun s p => s.saveGroup core p.1) s).modCore core fun k => { k with preempt := false }).settleRequests
  else .fault .notEnabled

end Sys2Proof.Machine
end

