-- ==== Sys2Proof/Machine/Slots.lean ====
section
/-! DEFINITION. The commands of the submission slots (R279, R399, R401, R407, R411, R416 to R420, R422). -/
namespace Sys2Proof.Machine

/-! ## A waiting command (R416, R417) -/

/-- A slot's command that has been read and not answered. -/
def State.slotCmd (s : State) (slot cmd : Nat) : Bool :=
  match Assoc.get? s.engine.slots slot with
  | some w => w % 256 = cmd
  | none => false

/-- A field of a slot's payload. -/
def State.payloadNat (s : State) (slot off n : Nat) : Nat := ofBytes (s.payload slot off n)

/-! ## LAUNCH (R245, R278, R279, R417) -/

/-- A context that a slot may submit for (R279). -/
def State.liveContext (s : State) (ctx : Nat) : Bool := ctx = 0 || ((s.context ctx).installed && !(s.context ctx).ended)

/-- CMD_LAUNCH: the record is checked, and queued where its queue has room; else the command waits (R279, R417). One submitted before
bring-up stage 5 had completed fails (R440). -/
def execCmdLaunch (slot : Nat) (s : State) : Host.Outcome State Fault Refusal :=
  if !s.slotCmd slot 1 || (Assoc.get? s.engine.waiting slot).isSome then .fault .notEnabled
  else
    let r := s.payload slot 0x40 256
    if ((Assoc.get? s.engine.submits slot).map (·.early)).getD false then .next (s.answer slot 4 (toBytes 8 0))
    else if !recordOk r then .next (s.answer slot 2 [])
    else if !s.liveContext (recCtx r) then .next (s.answer slot 5 [])
    else match s.readHeader (s.slotReader slot (recCtx r)) r with
      | .illegal => .next (s.answer slot 2 [])
      | .fault f => .next (s.answer slot 4 (toBytes 8 f.faddr.toNat))
      | .wait s' => if s' = s then .fault .notEnabled else .next s'
      | .ok s h =>
        if (s.queue (recQueue r)).length < 32 then .next ((s.queueLaunch r h []).answer slot 0 [])
        else .next { s with
          engine := { s.engine with waiting := Assoc.set s.engine.waiting slot { id := 0, record := r, header := h } } }

/-- CMD_LAUNCH_ROOM: a waiting LAUNCH command queues its record (R417). -/
def execCmdLaunchRoom (slot : Nat) (s : State) : Host.Outcome State Fault Refusal :=
  match Assoc.get? s.engine.waiting slot with
  | none => .fault .notEnabled
  | some l =>
    let s' := { s with
      engine := { s.engine with waiting := Assoc.erase s.engine.waiting slot } }
    if !s.liveContext (recCtx l.record) then .next (s'.answer slot 5 [])
    else if 32 ≤ (s.queue (recQueue l.record)).length then .fault .notEnabled
    else .next ((s'.queueLaunch l.record l.header []).answer slot 0 [])

/-! ## END and UINT (R399, R401, R417) -/

/-- The launches of an id in a context. -/
def State.launchesOf (s : State) (lid ctx : Nat) : List Nat :=
  (s.engine.running.filter fun r => r.2.lid.toNat = lid && r.2.ctx = ctx).map (·.1)

/-- END (R401, R417): STATUS is written when the end completes. -/
def execEndLaunch (slot : Nat) (s : State) : Host.Outcome State Fault Refusal :=
  let asked := s.engine.running.any fun r => (r.2.ending.map fun e => e.slots.contains slot).getD false
  if !s.slotCmd slot 3 || asked then .fault .notEnabled
  else match s.launchesOf (s.payloadNat slot 0x40 8) (s.payloadNat slot 0x48 4) with
    | [] => .next (s.answer slot 1 [])
    | l :: _ => .next (s.endLaunch l 0 0 0 0 (some slot))

/-- UINT: bit b of UIP in every resident or saved group of a launch; a group with a ready path at a boundary takes it (R399). -/
def execUint (slot : Nat) (s : State) : Host.Outcome State Fault Refusal :=
  if !s.slotCmd slot 15 then .fault .notEnabled
  else
    let b := s.payloadNat slot 0x50 1
    let ls := s.launchesOf (s.payloadNat slot 0x48 8) (s.payloadNat slot 0x40 4)
    if 16 ≤ b || s.payloadNat slot 0x44 4 != 0 then .next (s.answer slot 0xFF [])
    else if ls.isEmpty then .next (s.answer slot 1 [])
    else
      let post := fun (g : Group) => if ls.contains g.launch && g.life = .resident then { g with uip := g.uip ||| (1#16 <<< b) } else g
      let s := { s with
        cores := s.cores.mapVals fun (k : Core) => { k with slots := k.slots.mapVals post }
        engine := { s.engine with saved := s.engine.saved.mapVals fun (v : SavedGroup) => { v with group := post v.group } } }
      let s := (s.groupsOf fun g => ls.contains g.launch && !g.killed).foldl (fun s p => s.takeInterrupt p.1 p.2) s
      .next (s.answer slot 0 [])

/-! ## FETCH (R418) -/

/-- FETCH: the oldest event of a class; one of class 3 takes the Booth's notices with it (R418; log 24). -/
def execFetch (slot : Nat) (s : State) : Host.Outcome State Fault Refusal :=
  if !s.slotCmd slot 4 then .fault .notEnabled
  else
    let cls := s.payloadNat slot 0x40 1
    if 4 ≤ cls then .next (s.answer slot 0xFF [])
    else
      let s := if cls = 3 then { s with notices := [] } else s
      match s.engine.events.find? fun e => e.cls = cls with
      | none => .next (s.answer slot 1 [])
      | some e =>
        let s := { s with
          engine := { s.engine with events := s.engine.events.erase e, fetched := Assoc.set s.engine.fetched e.handle cls } }
        .next (s.answer slot 0 e.bytes)

/-! ## The handle commands (R177, R239, R391, R419, R451) -/

/-- What a handle names. -/
inductive Handle where
  /-- A path of a group in a slot, or a helper. -/
  | path (a : Agent) (f : FaultInfo)
  /-- A path of a saved group. -/
  | saved (uid idx : Nat) (f : FaultInfo)
  /-- The recruiter frame of a saved group. -/
  | frame (uid : Nat) (f : FaultInfo)
  | command (id : Nat) (f : FaultInfo)
deriving DecidableEq, Repr

/-- The fault a path waits with under a handle. -/
def Path.heldUnder? (p : Path) (handle : Nat) : Option FaultInfo :=
  match p.phase with
  | .held h f => if h = handle then some f else none
  | _ => none

/-- What a handle names; none where it is stale (R419). -/
def State.handle? (s : State) (handle : Nat) : Option Handle :=
  let ofGroup := fun (k : Nat × Core) => k.2.slots.findSome? fun g =>
    if s.launchEnded g.2.launch then none
    else g.2.paths.findSome? fun p => (p.2.heldUnder? handle).map fun f => Handle.path (.path k.1 g.1 p.1) f
  let ofHelper := fun (k : Nat × Core) => k.2.helpers.findSome? fun h =>
    if h.2.leaving || ((Assoc.get? k.2.slots h.2.slot).map fun g => s.launchEnded g.launch).getD true then none
    else (h.2.path.heldUnder? handle).map fun f => Handle.path (.helper k.1 h.1) f
  let ofSaved := fun (v : Nat × SavedGroup) =>
    (v.2.group.paths.findSome? fun p => (p.2.heldUnder? handle).map fun f => Handle.saved v.1 p.1 f).or
      (v.2.frame.bind fun h => (h.path.heldUnder? handle).map fun f => Handle.frame v.1 f)
  let ofCmd := fun (c : Nat × Cmd) => match c.2.held with
    | some (h, f) => if h = handle && !s.launchEnded c.2.launch then some (Handle.command c.1 f) else none
    | none => none
  (s.cores.findSome? ofGroup).or ((s.cores.findSome? ofHelper).or ((s.engine.saved.findSome? ofSaved).or (s.cmds.findSome? ofCmd)))

/-- The state with a saved group changed. -/
def State.modSaved (s : State) (uid : Nat) (f : SavedGroup → SavedGroup) : State :=
  { s with
    engine := { s.engine with saved := Assoc.update s.engine.saved uid f } }

/-- The state with the path of a handle restarted, or its access tried again (R177, R239, R419, R451). -/
def State.resumeHandle (s : State) : Handle → State
  | .path a _ =>
    let c := ((s.issuer? a).map (·.core)).getD 0
    ((s.acquire c .pkg).restart a).modPath a fun p => { p with readyAt := s.cyc c }
  | .saved uid i _ => s.modSaved uid fun v => { v with group := { v.group with paths := Assoc.update v.group.paths i Path.restart } }
  | .frame uid _ => s.modSaved uid fun v => { v with frame := v.frame.map fun h => h.restart (some v.group) }
  | .command id _ => s.modCmd id fun c => { c with held := none }

/-- RESUME (R419). -/
def execResume (slot : Nat) (s : State) : Host.Outcome State Fault Refusal :=
  if !s.slotCmd slot 5 then .fault .notEnabled
  else match s.handle? (s.payloadNat slot 0x40 4) with
    | some h => .next ((s.resumeHandle h).answer slot 0 [])
    | none => .next (s.answer slot 1 [])

/-- A referred fault of a helper ends its chunk as faulted (R187, R398). -/
def State.referHelper (s : State) (c n : Nat) (f : FaultInfo) : State :=
  match s.helper? c n with
  | none => s
  | some h =>
    let s := s.modGroup c h.slot fun g => { g with
      recruits := Assoc.update g.recruits h.thread fun r =>
        { r with failed := true, chunks := modifyAt r.chunks h.chunk fun _ => .faulted { f with chunk := some h.chunk } } }
    s.modCore c fun k => { k with helpers := Assoc.erase k.helpers n }

/-- The state with the referred fault of a path of a saved group to be delivered when the group runs again; at trap level it ends
the context at once (R400, R419; log 82). -/
def State.referSaved (s : State) (uid i : Nat) (f : FaultInfo) : State :=
  match (Assoc.get? s.engine.saved uid).bind fun v => (Assoc.get? v.group.paths i).map fun p => (v, p) with
  | none => s
  | some (v, p) =>
    if p.lvl then
      s.endContext v.group.ctx true f
        { flags := 0, path := f.origin.getD i, thread := (bitsOf p.exec 128).headD 0, gid := gidOf v.core v.slot, rgpc := p.rgpc
          launch := s.lidOf v.group.launch, mask := p.exec }
    else s.modSaved uid fun v => { v with
      group := { v.group with paths := Assoc.update v.group.paths i fun p => { p with phase := .stalled (.refer f) } } }

/-- The state with the fault of a handle delivered to its handler, or waiting for a ring slot, or with its command to stop
(R239, R391, R400, R419). -/
def State.referHandle (s : State) : Handle → State
  | .path (.path c sl i) f =>
    match s.issuer? (.path c sl i) with
    | none => s
    | some u =>
      if (s.freeSlot u.ctx).isSome || u.path.lvl then (s.splitGroup u c sl (u.lanes.map fun t => (t, f)) true).1
      else (s.modPath u.agent fun p => { p with phase := .stalled (.refer f) }).countWait u.agent u.ctx
  | .path (.helper c n) f => s.referHelper c n f
  | .path (.steward _) _ => s
  | .saved uid i f => s.referSaved uid i f
  | .frame uid f => s.modSaved uid fun v => match v.frame with
    | none => v
    | some h => { v with
      frame := none
      group := { v.group with recruits := Assoc.update v.group.recruits h.thread fun r =>
        { r with failed := true, chunks := modifyAt r.chunks h.chunk fun _ => .faulted { f with chunk := some h.chunk } } } }
  | .command id f => s.modCmd id fun c => { c with held := none, refer := some f }

/-- REFER (R419). -/
def execRefer (slot : Nat) (s : State) : Host.Outcome State Fault Refusal :=
  if !s.slotCmd slot 6 then .fault .notEnabled
  else match s.handle? (s.payloadNat slot 0x40 4) with
    | some h => .next ((s.referHandle h).answer slot 0 [])
    | none => .next (s.answer slot 1 [])

/-! ## Calls (R266 to R268, R419, R420) -/

/-- The call of a handle. -/
def State.callOf? (s : State) (handle : Nat) : Option (Nat × Cmd) :=
  s.cmds.find? fun c => c.2.kind = .svc && c.2.started && c.2.handle = handle && !s.launchEnded c.2.launch

/-- The state without what stood for an event's handle. -/
def State.forget (s : State) (handle : Nat) : State :=
  { s with
    engine := { s.engine with
      events := s.engine.events.filter fun e => !(e.cls = 1 && e.handle = handle)
      fetched := Assoc.erase s.engine.fetched handle } }

/-- COMPLETE: the results go into the call record, the call completes, and the hub keeps it (R267, R419, R420). -/
def execComplete (slot : Nat) (s : State) : Host.Outcome State Fault Refusal :=
  if !s.slotCmd slot 7 then .fault .notEnabled
  else
    let handle := s.payloadNat slot 0x40 4
    match s.callOf? handle with
    | none => .next (s.answer slot 1 [])
    | some (id, c) =>
      let status := BitVec.ofNat 32 (s.payloadNat slot 0x44 4)
      let args := (List.range 6).map fun i => BitVec.ofNat 64 (s.payloadNat slot (0x48 + 8 * i) 8)
      let call : CachedCall :=
        { svc := BitVec.ofNat 32 (c.field 0 4), token := BitVec.ofNat 64 (c.field 8 8), status := status, args := args }
      let s := (((s.writeCall c status (argBytes args)).logCall c).endCmd id c false).forget handle
      .next ((s.modContext c.ctx fun k => { k with calls := (call :: k.calls).take 64 }).answer slot 0 [])

/-- SVCRST: the fetched calls of a service that are not complete complete with the restart status (R268, R420). -/
def execSvcrst (slot : Nat) (s : State) : Host.Outcome State Fault Refusal :=
  if !s.slotCmd slot 8 then .fault .notEnabled
  else
    let svc := s.payloadNat slot 0x40 4
    let calls := s.cmds.filter fun c => c.2.kind = .svc && (Assoc.get? s.engine.fetched c.2.handle).isSome && (svc = 0xFFFFFFFF || c.2.field 0 4 = svc)
    .next ((calls.foldl (fun s c =>
      (((s.writeCall c.2 0xFFFFFF01 []).logCall c.2).endCmd c.1 c.2 false).forget c.2.handle) s).answer slot 0 [])

/-! ## COPY (R417) -/

/-- COPY: a context-0 copy request enters the engine, with fmt as it was submitted; STATUS is written when it completes (R417; log 28). -/
def execCopy (slot : Nat) (s : State) : Host.Outcome State Fault Refusal :=
  if !s.slotCmd slot 9 || s.cmds.any (fun c => c.2.slot = some slot) then .fault .notEnabled
  else
    let c : Cmd :=
      { kind := .copy, rec' := s.payload slot 0x40 64, fmt := ((Assoc.get? s.engine.submits slot).map (·.fmt)).getD 0, uid := 0, core := 4096, gid := 0, ctx := 0, launch := 0
        view := s.viewOf 0, slot := some slot, born := s.cyc 4096 }
    let k := c.copyKind
    if c.field 0x34 4 != 0 then .next (s.answer slot 0xFF [])
    else if c.flag 0 || c.flag 1 || c.flag 2 || k = 3 || k = 7 || !c.copyOk 0 0 (fun _ => false) (fun _ => false) then .next (s.answer slot 2 [])
    else
      let (id, s) := s.freshId
      .next { s with cmds := Assoc.set s.cmds id c }

/-! ## Tables and modes (R350, R366, R407, R411, R422) -/

/-- ROUTE: a route-table entry (R407). -/
def execRoute (slot : Nat) (s : State) : Host.Outcome State Fault Refusal :=
  if !s.slotCmd slot 10 then .fault .notEnabled
  else
    let pkg := s.payloadNat slot 0x40 4
    if 4096 ≤ pkg || s.payloadNat slot 0x46 2 != 0 then .next (s.answer slot 0xFF [])
    else
      let e := BitVec.ofNat 16 (s.payloadNat slot 0x44 2) &&& 0x3FF
      .next ({ s with fabric := { s.fabric with routes := Assoc.put 0 s.fabric.routes pkg e } }.answer slot 0 [])

/-- COLL: a collective-table entry, its reserved bytes zero, unless a command of that collective is in flight (R411). -/
def execColl (slot : Nat) (s : State) : Host.Outcome State Fault Refusal :=
  if !s.slotCmd slot 11 then .fault .notEnabled
  else
    let i := s.payloadNat slot 0x40 4
    let e := BitVec.ofNat 64 (s.payloadNat slot 0x48 8) &&& 0xFFFFFFFFFF01
    if 64 ≤ i || s.payloadNat slot 0x44 4 != 0 || s.payloadNat slot 0x4E 2 != 0 then .next (s.answer slot 0xFF [])
    else if s.cmds.any fun c => c.2.kind = .copy && c.2.copyKind = 7 && c.2.aux = i then .next (s.answer slot 2 [])
    else .next ({ s with fabric := { s.fabric with colls := Assoc.put 0 s.fabric.colls i e } }.answer slot 0 [])

/-- MODE: HMODE, its reserved bytes zero (R417, R422). -/
def execMode (slot : Nat) (s : State) : Host.Outcome State Fault Refusal :=
  if !s.slotCmd slot 12 then .fault .notEnabled
  else if s.payloadNat slot 0x41 7 != 0 then .next (s.answer slot 0xFF [])
  else .next ({ s with hmode := BitVec.ofNat 64 (s.payloadNat slot 0x40 1) &&& 0xF }.answer slot 0 [])

/-- LGRANT (R350, R417). -/
def execLgrant (slot : Nat) (s : State) : Host.Outcome State Fault Refusal :=
  if !s.slotCmd slot 13 then .fault .notEnabled
  else
    let (s, res) := s.grantImage (s.payloadNat slot 0x40 32)
    .next (s.answer slot (bits res.toNat 32 8) (toBytes 8 res.toNat))

/-- LRECALL (R366, R417). -/
def execLrecall (slot : Nat) (s : State) : Host.Outcome State Fault Refusal :=
  if !s.slotCmd slot 14 then .fault .notEnabled
  else
    let (s, res) := s.recallLease (BitVec.ofNat 32 (s.payloadNat slot 0x40 4))
    .next (s.answer slot (bits res.toNat 32 8) (toBytes 8 res.toNat))

end Sys2Proof.Machine
end

