-- ==== Sys2Proof/Machine/Fabric.lean ====
section
/-! DEFINITION. The fabric: links, routes, the Ringmaster, capacity trading and collectives (R364, R367, R404 to R413). -/
namespace Sys2Proof.Machine

/-! ## Exact values of a collective (R411, R412) -/

/-- An element of an instance: its value in units of 2^−160, and the flags 1 a NaN, 2 a +∞, 4 a −∞, 8 a finite value among
its inputs. -/
abbrev Part := Int × Nat

/-- An input as an element of an instance. -/
def partOf (a : FVal) : Part :=
  match a with
  | .nan _ _ => (0, 1)
  | .inf neg => (0, if neg then 4 else 2)
  | .num neg m e => (scaled neg m e (-160), 8)

/-- The elements that bytes hold, for an element type and a BFP width; those of an invalid block are NaNs (R107, R412). -/
def elementsOf (ty w : Nat) (bs : List Byte) : List Part :=
  if ty = 0xF then
    let n := bfpBytes w
    (List.range (bs.length / n)).flatMap fun k =>
      let block := (bs.drop (n * k)).take n
      let ex := valueAt block 0 1
      (blockFields w block).map fun raw => if ex = 255 then (0, 1) else partOf (elementValue w ex (BitVec.ofNat w raw).toInt)
  else
    let n := opxBytes ty
    (List.range (bs.length / n)).map fun k =>
      let x := valueAt bs (n * k) n
      if ty ≤ 3 then partOf (.ofInt (intValue (typeOfCode ty) (BitVec.ofNat 64 x))) else partOf ((ffmt (typeOfCode ty)).decode false x)

/-- Two elements combined under an operation: 0 add, 1 min, 2 max. -/
def combineParts (op : Nat) (a b : Part) : Part :=
  let v :=
    if op = 0 then a.1 + b.1
    else if a.2 < 8 then b.1
    else if b.2 < 8 then a.1
    else if op = 1 then (if b.1 < a.1 then b.1 else a.1)
    else (if a.1 < b.1 then b.1 else a.1)
  (v, a.2 ||| b.2)

/-- The total of an element: R412 for a sum, `fmin` and `fmax` for the others (R138, R370). -/
def totalOf (op : Nat) (p : Part) : FVal :=
  let has := fun (k : Nat) => p.2.testBit k
  if op = 0 then
    if has 0 || (has 1 && has 2) then .qnan else if has 1 then .inf false else if has 2 then .inf true else .ofScaled p.1 (-160)
  else if op = 1 then
    if has 2 then .inf true else if has 3 then .ofScaled p.1 (-160) else if has 1 then .inf false else .qnan
  else
    if has 1 then .inf false else if has 3 then .ofScaled p.1 (-160) else if has 2 then .inf true else .qnan

/-- The result of an element, rounded once by the root: its bytes (R412). -/
def resultBytes (v : FEnv) (ty op : Nat) (p : Part) : List Byte :=
  if ty ≤ 3 then toBytes (opxBytes ty) (intResult (typeOfCode ty) v.sat (p.1 / 2 ^ 160)).toNat
  else
    let f := if ty = 0xF then fp32 else ffmt (typeOfCode ty)
    toBytes (f.width / 8) (f.encode v (totalOf op p))

/-! ## Instances (R411 to R413) -/

/-- ROOT of a collective (Table 3 of the fabric chapter). -/
def State.collRoot (s : State) (coll : Nat) : Nat := bits (Assoc.getD s.fabric.colls coll 0).toNat 36 12
/-- The ports that lead to a collective's child packages. -/
def State.collChildren (s : State) (coll : Nat) : List Nat :=
  (List.range 16).filter fun p => (Assoc.getD s.fabric.colls coll 0).getLsbD (20 + p)
/-- The port towards a collective's root. -/
def State.collUp (s : State) (coll : Nat) : Nat := bits (Assoc.getD s.fabric.colls coll 0).toNat 16 4
/-- The local contributions of an instance of a collective. -/
def State.collLocal (s : State) (coll : Nat) : Nat := Nat.max 1 (bits (Assoc.getD s.fabric.colls coll 0).toNat 8 8)
/-- This package is the root of a collective. -/
def State.atRoot (s : State) (coll : Nat) : Bool := s.collRoot coll = s.boot.pkgId

/-- An instance under way. -/
def State.instance? (s : State) (coll inst : Nat) : Option Instance := s.fabric.instances.find? fun i => i.coll = coll && i.inst = inst

/-- The commands of this package that belong to an instance and have not ended. -/
def State.instanceCmds (s : State) (coll inst : Nat) : List Nat :=
  (s.cmds.filter fun c => c.2.kind = .copy && c.2.copyKind = 7 && c.2.aux = coll && c.2.inst = inst).map (·.1)

/-- How many commands of this package have taken a place in an instance (R412). -/
def State.instanceKicks (s : State) (coll inst : Nat) : Nat :=
  Nat.min (s.collLocal coll) (Assoc.getD s.fabric.kicks coll 0 - (inst - 1) * s.collLocal coll)

/-- Nothing of this package belongs to an instance any more. -/
def State.instanceOver (s : State) (coll inst : Nat) : Bool :=
  s.instanceKicks coll inst = s.collLocal coll && (s.instanceCmds coll inst).isEmpty

/-- The state with an instance, in the place of what stood for it; stopped instances go once nothing here belongs to them. -/
def State.setInstance (s : State) (i : Instance) : State :=
  let keep := fun (x : Instance) => !(x.coll = i.coll && x.inst = i.inst) && !(x.broken.isSome && s.instanceOver x.coll x.inst)
  { s with
    fabric := { s.fabric with instances := s.fabric.instances.filter keep ++ [i] } }

/-- The state with a message sent down a collective's tree. -/
def State.sendDown (s : State) (coll : Nat) (body : MsgBody) : State := (s.collChildren coll).foldl (fun s p => s.sendPort p body) s

/-- The state with an instance stopped here, and the packages above and below told: its commands then stop with the cause
(R413). -/
def State.breakInstance (s : State) (coll inst : Nat) (cause : Byte) : State :=
  let i := (s.instance? coll inst).getD { coll := coll, inst := inst, len := 0, opx := 0, since := s.clocks.nsc }
  if i.broken.isSome || s.instanceOver coll inst then s
  else
    let s := (s.setInstance { i with broken := some cause }).sendDown coll (.answer coll inst (.broken cause))
    if s.atRoot coll then s else s.sendPort (s.collUp coll) (.answer coll inst (.broken cause))

/-- Every contribution to an instance has arrived here (R412). -/
def State.instanceFull (s : State) (i : Instance) : Bool :=
  i.cmds.length = s.collLocal i.coll && i.from'.length = (s.collChildren i.coll).length

/-- The state with a contribution added to an instance, and its sum sent towards the root when it is complete; one that differs
in LEN or OPX stops the instance (R412, R413). -/
def State.contribute (s : State) (coll inst len opx : Nat) (sums : List Part) (cmd src : Option Nat) : State :=
  let i := (s.instance? coll inst).getD { coll := coll, inst := inst, len := len, opx := opx, since := s.clocks.nsc }
  if i.broken.isSome then s
  else if i.len != len || i.opx != opx || (!i.sums.isEmpty && i.sums.length != sums.length) then s.breakInstance coll inst 0x02
  else
    let i := { i with
      cmds := i.cmds ++ cmd.toList
      from' := i.from' ++ src.toList
      sums := if i.sums.isEmpty then sums else List.zipWith (combineParts (bits opx 4 4)) i.sums sums }
    if s.instanceFull i && !s.atRoot coll then
      (s.setInstance { i with sent := true }).sendPort (s.collUp coll) (.sum coll inst len opx i.sums)
    else s.setInstance i

/-- A participant of an instance is lost: a command of it that has ended without the result, or the link of a branch of the
tree (R413). -/
def State.participantLost (s : State) (i : Instance) : Bool :=
  (s.instanceCmds i.coll i.inst).length < s.instanceKicks i.coll i.inst ||
  (s.collChildren i.coll).any (fun p => !s.fabric.up.getLsbD p) ||
  (!s.atRoot i.coll && !s.fabric.up.getLsbD (s.collUp i.coll))

/-- FABRIC_REDUCE: a command reads its SRC and contributes, and once the result has come writes it to DST (R411 to R413). -/
def execFabricReduce (cmd : Nat) (s : State) : Host.Outcome State Fault Refusal :=
  s.progress cmd 7 fun s c =>
    match c.result with
    | some r => (match s.engineWrite cmd c (c.dst 0 0) r false with
      | .done s => .done (s, c.len, r.length)
      | .wait s => .wait s
      | .fault f => .fault f)
    | none =>
      if c.row = 1 || (s.instanceBroken? c).isSome then .wait s
      else match s.engineRead cmd c (c.src 0 0) c.len 1 false with
        | .done (s, bs) =>
          let opx := c.field 0x0A 2
          let s := s.modCmd cmd fun c => { c with row := 1 }
          .done (s.contribute c.aux c.inst c.len opx (elementsOf (bits opx 0 4) c.bfpWidth bs) (some cmd) none, 0, 0)
        | .wait s => .wait s
        | .fault f => .fault f

/-- The state in which the commands of an instance have its result, which goes on down the tree (R412). -/
def State.deliverResult (s : State) (i : Instance) (bytes : List Byte) : State :=
  let s := i.cmds.foldl (fun s id => s.modCmd id fun c => { c with result := some bytes }) s
  let s := { s with
    fabric := { s.fabric with instances := s.fabric.instances.filter fun x => !(x.coll = i.coll && x.inst = i.inst) } }
  s.sendDown i.coll (.answer i.coll i.inst (.result bytes))

/-- COLLECTIVE_RESULT: the root rounds the total under the fmt copy of its first local command; the other packages receive the
result, or that the instance has been stopped (R412, R413). -/
def execCollectiveResult (coll inst : Nat) (answer : CollAnswer) (s : State) : Host.Outcome State Fault Refusal :=
  match answer with
  | .here => (match s.instance? coll inst with
    | none => .fault .notEnabled
    | some i =>
      if !s.atRoot coll || !s.instanceFull i || i.broken.isSome || s.participantLost i then .fault .notEnabled
      else
        let env := ((best (fun a b : Nat => a < b) i.cmds).bind fun id => Assoc.get? s.cmds id).elim {} Cmd.reduceEnv
        .next (s.deliverResult i (i.sums.flatMap (resultBytes env (bits i.opx 0 4) (bits i.opx 4 4)))))
  | .result bytes => s.receive fun s => match s.instance? coll inst with
    | none => .next s
    | some i => if i.broken.isSome || !i.sent then .next s else .next (s.deliverResult i bytes)
  | .broken cause => s.receive fun s => .next (s.breakInstance coll inst cause)

/-- COLLECTIVE_TIMEOUT: an instance that has waited 10 ms here, or has lost a participant, is stopped (R413). -/
def execCollectiveTimeout (coll inst : Nat) (s : State) : Host.Outcome State Fault Refusal :=
  match s.instance? coll inst with
  | none => .fault .notEnabled
  | some i =>
    if i.broken.isNone && (i.since + 10000000 ≤ s.clocks.nsc || s.participantLost i) then .next (s.breakInstance coll inst 0x0B)
    else .fault .notEnabled

/-- CHILD_SUM (R412). -/
def execChildSum (src coll inst len opx : Nat) (sums : List (Int × Nat)) (s : State) : Host.Outcome State Fault Refusal :=
  s.receive fun s =>
    if ((s.instance? coll inst).map fun i => i.from'.contains src).getD false then .next s
    else .next (s.contribute coll inst len opx sums none (some src))

/-! ## The election (R408, R409, R422) -/

/-- The priority this package sends: below every candidate's where the Ringmaster role is host-assisted (R422). -/
def State.ownPrio (s : State) : Option Nat := if s.hmode.getLsbD 2 then none else some s.boot.prio

/-- A pair of a priority and a package id is lower than another (R408). -/
def pairLess (a b : Option Nat × Nat) : Bool :=
  match a.1, b.1 with
  | none, some _ => true
  | some _, none => false
  | none, none => a.2 < b.2
  | some p, some q => p < q || (p = q && a.2 < b.2)

/-- The state after a change of the live candidates: how long this package's pair has been the highest, and a Ringmaster that
hears a live higher pair gives up the role (R408). -/
def State.rank (s : State) : State :=
  let higher := s.fabric.candidates.any fun c => pairLess (s.ownPrio, s.boot.pkgId) (c.2.prio, c.1)
  { s with
    fabric := { s.fabric with
      highest := if higher then none else s.fabric.highest.or (some s.clocks.nsc)
      ringmaster := s.fabric.ringmaster && !higher } }

/-- The state with a message on every up port, but for one (log 67). -/
def State.flood (s : State) (but : Option Nat) (body : MsgBody) : State :=
  (List.range 16).foldl (fun s p => if but = some p then s else s.sendPort p body) s

/-- The package that this one takes for the Ringmaster: the highest live pair (R408). -/
def State.master (s : State) : Nat :=
  let pairs := (s.ownPrio, s.boot.pkgId) :: s.fabric.candidates.map fun c => (c.2.prio, c.1)
  ((best (fun a b => pairLess b a) pairs).map (·.2)).getD s.boot.pkgId

/-- HELLO: a candidate is live, and the message is forwarded once, on the other ports (R408). -/
def execHello (port : Nat) (prio : Option Nat) (pkg hops : Nat) (s : State) : Host.Outcome State Fault Refusal :=
  s.receive fun s =>
    let s := if hops ≤ 1 then s else s.flood (some port) (.hello prio pkg (hops - 1))
    if pkg = s.boot.pkgId then .next s
    else .next { s with
      fabric := { s.fabric with
        candidates := Assoc.set s.fabric.candidates pkg { prio := prio, heard := s.clocks.nsc } } }.rank

/-- HELLO_TIMER (R408). -/
def execHelloTimer (s : State) : Host.Outcome State Fault Refusal :=
  if s.onFabric && (s.fabric.helloAt.map fun t => decide (t + 100000 ≤ s.clocks.nsc)).getD true then
    .next ({ s with fabric := { s.fabric with helloAt := some s.clocks.nsc } }.flood none (.hello s.ownPrio s.boot.pkgId 16))
  else .fault .notEnabled

/-- CANDIDATE_TIMEOUT (R408). -/
def execCandidateTimeout (pkg : Nat) (s : State) : Host.Outcome State Fault Refusal :=
  match Assoc.get? s.fabric.candidates pkg with
  | none => .fault .notEnabled
  | some c =>
    if c.heard + 1000000 < s.clocks.nsc then
      .next { s with fabric := { s.fabric with candidates := Assoc.erase s.fabric.candidates pkg } }.rank
    else .fault .notEnabled

/-- The lent entries of this package as the Ringmaster is told of them, and what it offers (R409). -/
def State.listing (s : State) : Listing :=
  { s.fabric.offer with
    leases := s.booth.lent.vals.map fun l => { lid := l.lid, sz := l.sz, st := l.st, borrowers := l.alive } }

/-- RINGMASTER_TAKEOVER: the role is taken, the directory begins anew with this package's own answer, and every package that can
be reached is asked (R408, R409). -/
def execRingmasterTakeover (s : State) : Host.Outcome State Fault Refusal :=
  match s.fabric.highest with
  | none => .fault .notEnabled
  | some t =>
    if !s.onFabric || s.fabric.ringmaster || s.hmode.getLsbD 2 || s.clocks.nsc < t + 2000000 then .fault .notEnabled
    else
      let s := { s with
        fabric := { s.fabric with ringmaster := true, directory := [(s.boot.pkgId, s.listing)] } }
      let s := s.flood none (.claim s.boot.prio s.boot.pkgId)
      .next ((s.fabric.routes.keys.filter fun p => p != s.boot.pkgId).foldl (fun s p => s.send p .query) s)

/-- CLAIM: a Ringmaster with a lower pair gives up the role (R408). -/
def execClaim (prio pkg : Nat) (s : State) : Host.Outcome State Fault Refusal :=
  s.receive fun s =>
    if pairLess (s.ownPrio, s.boot.pkgId) (some prio, pkg) then
      .next { s with fabric := { s.fabric with ringmaster := false } }
    else .next s

/-- QUERY: the answer comes from the Booth, which nothing here changes (R409). -/
def execQuery (src : Nat) (s : State) : Host.Outcome State Fault Refusal :=
  s.receive fun s => .next (s.send src (.qreply s.listing.leases s.listing.offered))

/-! ## Trading capacity (R409, R410) -/

/-- The state with what the Ringmaster's directory holds of a package changed; only a Ringmaster keeps one. -/
def State.modListing (s : State) (pkg : Nat) (f : Listing → Listing) : State :=
  if !s.fabric.ringmaster then s
  else { s with
    fabric := { s.fabric with directory := Assoc.set s.fabric.directory pkg (f (Assoc.getD s.fabric.directory pkg {})) } }

/-- QREPLY: the union of the answers; a package answers over as many messages as it needs (R372, R409). -/
def execQreply (src : Nat) (leases : List LentNews) (offered : List Nat) (s : State) : Host.Outcome State Fault Refusal :=
  s.receive fun s => .next (s.modListing src fun l =>
    { l with
      leases := (l.leases.filter fun x => !leases.any fun y => y.lid = x.lid) ++ leases
      offered := (l.offered.filter fun x => !offered.contains x) ++ offered })

/-- OFFER: of another package, the Ringmaster records it, and asks for the leases that stand with it; of this one, its stewards publish it
to the Ringmaster (R410; log 94). -/
def execOffer (pkg : Nat) (classes : List Nat) (bandwidth : Nat) (s : State) : Host.Outcome State Fault Refusal :=
  s.receive fun s =>
    let new := fun (l : Listing) => { l with offered := classes, bandwidth := bandwidth }
    if pkg = s.boot.pkgId then
      let s := { s with fabric := { s.fabric with offer := new s.fabric.offer } }
      if s.fabric.ringmaster then .next (s.modListing pkg fun _ => s.listing)
      else .next (s.send s.master (.offer classes bandwidth))
    else if s.fabric.ringmaster then .next (((s.modListing pkg new).send pkg .query).send pkg (.fmApi .extentList))
    else .next s

/-- The state with route-table entries written (R407). -/
def State.writeRoutes (s : State) (entries : List (Nat × BitVec 16)) : State :=
  { s with
    fabric := { s.fabric with
      routes := entries.foldl (fun m e => if e.1 < 4096 then Assoc.put 0 m e.1 (e.2 &&& 0x3FF) else m) s.fabric.routes } }

/-- The Ringmaster writes the route entry that a package needs for another: by an FM API command, or in its own table where that has
none (R404, R407, R410; log 94). -/
def State.routeFor (s : State) (at' dst : Nat) : State :=
  let entries := [(dst, Config.routeEntry at' dst)]
  if at' != s.boot.pkgId then s.send at' (.fmApi (.routes entries))
  else if (s.route? dst).isNone then s.writeRoutes entries else s

/-- The lender the directory names for a borrower: the lowest package id that offers the size class. -/
def State.lenderFor (s : State) (src size : Nat) : Option Nat :=
  (s.fabric.directory.find? fun p => p.1 != src && p.2.offered.contains size).map (·.1)

/-- WANT: of another package, the Ringmaster answers it, having written the routes that borrower and lender need; of this one, its
stewards ask the Ringmaster (R410). -/
def execWant (src size : Nat) (s : State) : Host.Outcome State Fault Refusal :=
  s.receive fun s =>
    if s.fabric.ringmaster then
      let lender := s.lenderFor src size
      let s := lender.elim s fun l => (s.routeFor src l).routeFor l src
      if src = s.boot.pkgId then .next (s.leaseEvent 0x16 lender.toList) else .next (s.send src (.wanted lender))
    else if src = s.boot.pkgId then .next (s.send s.master (.want size))
    else .next s

/-- WANTED: the answer is a lease event (R410, R418). -/
def execWanted (lender : Option Nat) (s : State) : Host.Outcome State Fault Refusal :=
  s.receive fun s => .next (s.leaseEvent 0x16 lender.toList)

/-! ## Links, routes and partitions (R405 to R407, R422) -/

/-- AXYEN_RETRAIN: the link of two packages is at 128 GT/s, or stays at 64 GT/s; only timing changes. A port to any other part never
retrains (R405). -/
def execAxyenRetrain (port : Nat) (ok : Bool) (s : State) : Host.Outcome State Fault Refusal :=
  if port < 16 && s.onFabric && s.fabric.up.getLsbD port && s.boot.peers.getLsbD port && !s.fabric.axyen.getLsbD port then
    .next { s with fabric := { s.fabric with axyen := if ok then s.fabric.axyen ||| (1#16 <<< port) else s.fabric.axyen } }
  else .fault .notEnabled

/-- LINK_FALLBACK: the link returns to 64 GT/s (R405). -/
def execLinkFallback (port : Nat) (s : State) : Host.Outcome State Fault Refusal :=
  if s.fabric.axyen.getLsbD port then
    .next { s with fabric := { s.fabric with axyen := s.fabric.axyen &&& ~~~(1#16 <<< port) } }
  else .fault .notEnabled

/-- LINK_DOWN: what is routed on the port leaves on ALT, or is not sent (R407). -/
def execLinkDown (port : Nat) (s : State) : Host.Outcome State Fault Refusal :=
  if s.fabric.up.getLsbD port then
    .next { s with
      fabric := { s.fabric with up := s.fabric.up &&& ~~~(1#16 <<< port), axyen := s.fabric.axyen &&& ~~~(1#16 <<< port) } }
  else .fault .notEnabled

/-- LINK_UP: routes on the port are used again (R407). -/
def execLinkUp (port : Nat) (s : State) : Host.Outcome State Fault Refusal :=
  if port < 16 && s.onFabric && !s.fabric.up.getLsbD port then
    .next { s with fabric := { s.fabric with up := s.fabric.up ||| (1#16 <<< port) } }
  else .fault .notEnabled

/-- FOREIGN_FPID_DROP: a message of another fabric partition is dropped at its port and counted (R406). -/
def execForeignFpidDrop (port fpid : Nat) (s : State) : Host.Outcome State Fault Refusal :=
  if s.onFabric && s.fabric.up.getLsbD port && fpid != s.boot.fpid then .next s.dropMessage else .fault .notEnabled

/-- What an FM API command carries, as bytes for the host: each entry, or each extent. -/
def fmBytes : FmCommand → List Byte
  | .routes entries => entries.flatMap fun e => toBytes 4 e.1 ++ toBytes 4 e.2.toNat
  | .extentList => []
  | .extents l => l.flatMap fun x => toBytes 4 x.1.toNat ++ toBytes 8 x.2.1 ++ toBytes 8 x.2.2
  | .capacity add tag => toBytes 4 add.toNat ++ toBytes 4 tag.toNat

/-- The state with an FM API command sent to the host, as FETCH gives an event; the class that stands in it is not stated (R418, R422;
log 25). -/
def State.tellHostFmApi (s : State) (src : Nat) (command : FmCommand) : State :=
  let e : QEvent :=
    { cls := (Config.fmApiClass s.free).toNat, handle := s.engine.nextHandle, ctx := 0, body := toBytes 8 src ++ fmBytes command }
  { s with free := s.free + 1, engine := { s.engine with nextHandle := s.engine.nextHandle + 1 } }.tellHost e.bytes

/-- The effect of an FM API command: route entries are written; a list of extents is answered with those of the package's lent entries;
and a command to add or release capacity changes nothing, for the extents are those of the leases (R404, R407, R409, R410; log 69). -/
def State.fmApi (s : State) (src : Nat) : FmCommand → State
  | .routes entries => s.writeRoutes entries
  | .extentList => s.send src (.fmApi (.extents (s.extents.map fun x => (x.tag, x.base, x.size))))
  | .extents _ => s
  | .capacity _ _ => s

/-- FM_API_COMMAND: of the Ringmaster (R407); where the Ringmaster role is host-assisted the command goes
to the host (R422). One from another package, and an answer that comes to the Ringmaster, has no effect (log 69, log 94). -/
def execFmApiCommand (src : Nat) (command : FmCommand) (s : State) : Host.Outcome State Fault Refusal :=
  s.receive fun s =>
    if src != s.master then .next s
    else if s.hmode.getLsbD 2 then .next (s.tellHostFmApi src command)
    else .next (s.fmApi src command)

/-- FABRIC_UNREACHABLE: every lease with the package ends, as lender and as borrower, and the instances of collectives in which
it is known to take part have lost a participant (R364, R367, R413). -/
def execFabricUnreachable (pkg : Nat) (s : State) : Host.Outcome State Fault Refusal :=
  let s := s.failBorrower pkg
  let s := (s.booth.borrowed.filter fun p => 2 ≤ p.2.st && p.2.st ≤ 3 && p.2.lend = pkg).foldl (fun s p => s.lenderLost p.1) s
  .next ((s.fabric.instances.filter fun i => s.collRoot i.coll = pkg || i.from'.contains pkg).foldl
    (fun s i => s.breakInstance i.coll i.inst 0x0B) s)

end Sys2Proof.Machine
end

