-- ==== Sys2Proof/Machine/Fomar.lean ====
section
/-! DEFINITION. Fomar: recording a context, its checkpoints, and replay (R431 to R433). -/
namespace Sys2Proof.Machine

/-- FOMAR_RECORD: a write of FMCTL with REC starts a recording (R432). -/
def execFomarRecord (value : DWord) (s : State) : Host.Outcome State Fault Refusal :=
  if value.getLsbD 0 then .next (s.hubWrite .fmctl value) else .fault .notEnabled

/-- CTX of FMCTL. -/
def State.fomarCtx (s : State) : Nat := bits s.fomar.ctl.toNat 32 10
/-- T, in nanoseconds. -/
def State.fomarPeriod (s : State) : Nat := bits s.fomar.ctl.toNat 16 16 * 1000000

/-- The resident groups of the context of FMCTL. -/
def State.fomarGroups (s : State) : List (Nat × Nat × Group) :=
  s.cores.flatMap fun k => (k.2.slots.filter fun p => p.2.life = .resident && !p.2.killed && p.2.ctx = s.fomarCtx).map fun p => (k.1, p.1, p.2)

/-- The groups of a checkpoint under way may resume. -/
def State.endCut (s : State) (gids : List Nat) : State :=
  let free := fun (v : SavedGroup) => if gids.contains v.group.uid then { v with eligible := true } else v
  { s with
    fomar := { s.fomar with cut := none }
    engine := { s.engine with saved := s.engine.saved.mapVals free } }

/-- The bytes of memory in some pages. -/
def Memory.inPages (m : Memory) (pages : List Nat) : Memory := m.filter fun c => pages.contains (c.1 / 4096)

/-- The cut of a context: the pages written since the last one, the saved groups, and the operations and commands that they
wait for (R432). -/
def State.checkpoint (s : State) : Checkpoint :=
  let mine := s.engine.saved.filter fun v => v.2.group.ctx = s.fomarCtx
  { pages := s.fomar.dirty, mem := s.mem.inPages s.fomar.dirty, groups := mine
    ops := s.ops.filter fun o => o.2.ctx = s.fomarCtx
    cmds := s.cmds.filter fun c => c.2.ctx = s.fomarCtx && !c.2.ofSlot
    launches := s.engine.running.filter fun r => r.2.ctx = s.fomarCtx
    context := s.context s.fomarCtx, logged := s.fomar.log.length }

/-- The bytes that a checkpoint takes in the Fomar region: its pages and its saved state (R384, R432). -/
def Checkpoint.size (c : Checkpoint) : Nat :=
  4096 * c.pages.length + c.groups.foldl (fun n v => n + v.2.group.savedSize + (v.2.alloc.map fun a => a.size + 4096).getD 0) 0

/-- FOMAR_CHECKPOINT: every T ms the context is pre-empted; when its groups are saved, the cut is taken and they resume (R432). -/
def execFomarCheckpoint (s : State) : Host.Outcome State Fault Refusal :=
  match s.fomar.cut with
  | none =>
    if s.fomar.ctl.getLsbD 0 && s.fomarPeriod != 0 && s.fomar.lastAt + s.fomarPeriod ≤ s.clocks.nsc then
      let gs := s.fomarGroups
      let gids := gs.map fun x => x.2.2.uid
      let s := { s with fomar := { s.fomar with cut := some gids, lastAt := s.clocks.nsc } }
      if gs.isEmpty then .next s else .next (s.stopGroups { op := 4, ctx := s.fomarCtx, donew := 0, gids := gids } gs)
    else .fault .notEnabled
  | some gids =>
    if gids.any s.stillStopping then .fault .notEnabled
    else if !s.fomar.ctl.getLsbD 0 then .next (s.endCut gids)
    else
      let c := s.checkpoint
      let s := s.charge c.size
      let s := if s.fomar.ctl.getLsbD 0 then
          { s with fomar := { s.fomar with cks := s.fomar.cks ++ [c], dirty := [] } }
        else s
      .next (s.endCut gids)

/-- Memory with the bytes of some pages replaced. -/
def Memory.overlay (m : Memory) (pages : List Nat) (by' : Memory) : Memory :=
  by'.foldl (fun m c => m.write c.1 c.2) (m.filter fun c => !pages.contains (c.1 / 4096))

/-- The pages that a recording has written. -/
def Fomar.pages (f : Fomar) : List Nat := (f.cks.flatMap (·.pages) ++ f.dirty).eraseDups

/-- The state as checkpoint i left it, with a replay of the log from there on under way: the pages that were written hold the
base image with increments 1 to i, and the saved groups of the cut are there to resume (R433). -/
def State.restoreCut (s : State) (i : Nat) (c : Checkpoint) : State :=
  let s := (s.ops.filter fun o => o.2.ctx = s.fomarCtx).foldl (fun s o => s.cancelTurn o.1) s
  let f := s.fomar
  let mem := (f.cks.take i).foldl (fun m k => m.overlay k.pages k.mem) (s.mem.overlay f.pages (f.image.inPages f.pages))
  let drop := fun (k : Core) => { k with l1 := k.l1.filter fun l => match l.tag with
    | .phys line => !f.pages.contains (line / 64)
    | _ => true }
  let ready := c.groups.mapVals fun (v : SavedGroup) => { v with eligible := true }
  let tables := fun (s : State) (v : SavedGroup) => s.modCore v.core fun k => { k with
    patterns := v.patterns.foldl (fun m t => Assoc.set m t.1 t.2) k.patterns
    decoders := v.decoders.foldl (fun m t => Assoc.set m t.1 t.2) k.decoders }
  c.groups.vals.foldl tables { s with
    mem := mem
    cores := s.cores.mapVals drop
    stewardLines := s.stewardLines.filter fun l => match l.1 with
      | .phys line => !f.pages.contains (line / 64)
      | _ => true
    ops := c.ops.foldl (fun m o => Assoc.set m o.1 o.2) (s.ops.filter fun o => o.2.ctx != s.fomarCtx)
    cmds := c.cmds.foldl (fun m d => Assoc.set m d.1 d.2) (s.cmds.filter fun d => d.2.ctx != s.fomarCtx || d.2.ofSlot)
    contexts := Assoc.set s.contexts s.fomarCtx c.context
    engine := { s.engine with
      running := c.launches.foldl (fun m r => Assoc.set m r.1 r.2) (s.engine.running.filter fun r => r.2.ctx != s.fomarCtx)
      saved := ready.foldl (fun m v => Assoc.set m v.1 v.2) (s.engine.saved.filter fun v => v.2.group.ctx != s.fomarCtx) }
    fomar := { f with active := true, replay := f.log.drop c.logged } }

/-- FOMAR_REPLAY: a write of FMCTL with RPL starts a replay at a checkpoint, while no group of the context is resident; at the
log's end the context is pre-empted and the replay is over (R433). -/
def execFomarReplay (value : DWord) (checkpoint : Nat) (s : State) : Host.Outcome State Fault Refusal :=
  if s.fomar.active then
    if !s.fomar.replay.isEmpty then .fault .notEnabled
    else
      let s := { s with fomar := { s.fomar with active := false, ctl := s.fomar.ctl &&& ~~~2#64 } }
      let gs := s.fomarGroups
      let s := s.modContext s.fomarCtx fun k => { k with held := true }
      if gs.isEmpty then .next s
      else .next (s.stopGroups { op := 4, ctx := s.fomarCtx, donew := 0, gids := gs.map fun x => x.2.2.uid } gs)
  else
    let s := s.hubWrite .fmctl value
    match checkpoint, s.fomar.cks[checkpoint - 1]? with
    | 0, _ => .fault .notEnabled
    | _, none => .fault .notEnabled
    | _, some c => if value.getLsbD 1 && s.fomarGroups.isEmpty then .next (s.restoreCut checkpoint c) else .fault .notEnabled

end Sys2Proof.Machine
end

