-- ==== Sys2Proof/Machine/Helpers.lean ====
section
/-! DEFINITION. Helpers: recruit, hpost, hjoin, dismiss and the end of a chunk (R42, R43, R179 to R187, R449). -/
namespace Sys2Proof.Machine

/-! ## Chunks (R181, R182) -/

/-- The number under which a recruiter in helper mode runs a chunk. -/
def selfNum : Nat := 9999

/-- A path at the start of a chunk (R181). -/
def chunkPath (q : Recruitment) (cycle : Nat) (view : View) : Path :=
  { pc := q.entry, exec := 1, fmt := q.fmt, rgpc := q.entry, snap := { fmt := q.fmt, loops := [] }, readyAt := cycle,
    view := view }

/-- The state with a helper at the start of a chunk (R181). -/
def State.startChunk (s : State) (c n ch : Nat) : State :=
  match s.helper? c n with
  | none => s
  | some h =>
    match (s.group? c h.slot).bind fun g => Assoc.get? g.recruits h.thread with
    | none => s
    | some q =>
      let s := s.modGroup c h.slot fun g => { g with recruits := Assoc.update g.recruits h.thread fun r =>
        { r with chunks := modifyAt r.chunks ch fun _ => .running h.num } }
      s.modHelper c n fun h => { h with chunk := ch, v := [], part := none, path := chunkPath q (Nat.max h.path.readyAt (s.cyc c)) h.path.view }

/-- The chunk a helper takes next: one reserved for it, else the lowest free one, none after a fault (R182, R187). -/
def Recruitment.next (q : Recruitment) (num : Nat) : Option Nat :=
  if q.failed then none
  else
    match (List.range q.chunks.length).find? fun i => q.chunks[i]? = some (.reserved num) with
    | some i => some i
    | none => (List.range q.chunks.length).find? fun i => q.chunks[i]? = some .unassigned

/-- CHUNK_COMPLETE: a helper whose `exit` finds its counters zero completes its chunk and takes the next, or ends
(R182, R186), and its clause, with its yield where Y is set (R54); one that is to be released keeps what the chunk gave (log 95). A recruiter in helper mode goes back to its `hjoin`
(R184). -/
def execChunkComplete (a : Agent) (s : State) : Host.Outcome State Fault Refusal :=
  match a with
  | .helper c n =>
    match s.helper? c n with
    | none => .fault .notEnabled
    | some h =>
      if h.path.phase = .stalled .chunk && h.rings.count .ld = 0 && h.rings.count .st = 0 && h.rings.count .am = 0 then
        match (s.issuer? a).map fun u => (u, u.poisoned none) with
        | some (u, x :: l) => .next (s.raisePoison u (x :: l))
        | _ =>
        let s := if h.path.clause.header.getLsbD 36 then s.yieldGroup a else s
        let s := s.modGroup c h.slot fun g => { g with recruits := Assoc.update g.recruits h.thread fun r =>
          { r with chunks := modifyAt r.chunks h.chunk fun _ => .done h.part } }
        let q := (s.group? c h.slot).bind fun g => Assoc.get? g.recruits h.thread
        if h.leaving then .next (s.releaseHelper c n)
        else if h.self then .next (s.dropHelper c n h.slot)
        else match q.bind fun q => q.next h.num with
          | some ch => .next (s.startChunk c n ch)
          | none => .next (s.dropHelper c n h.slot)
      else .fault .notEnabled
  | _ => .fault .notEnabled

/-! ## recruit (R179, R180) -/

/-- A recruit request (Table 3). -/
structure RecruitReq where
  sn   : Nat
  sb   : Nat
  hreq : Nat
  nch  : Nat
deriving DecidableEq, Repr

/-- The request in a register, if every field is in range and the rest zero (R179); SB is free where SN is 0 (log 33). -/
def recruitReq (x : DWord) (window : Nat) : Option RecruitReq :=
  let n := x.toNat
  let r : RecruitReq := { sn := bits n 32 6, sb := bits n 24 8, hreq := bits n 16 6, nch := bits n 0 11 }
  if bits n 38 26 = 0 && bits n 22 2 = 0 && bits n 11 5 = 0 && r.sn ≤ 32 && 1 ≤ r.hreq && r.hreq ≤ 32 && 1 ≤ r.nch
      && r.nch ≤ 1024 && (r.sn = 0 || r.sb + r.sn ≤ window) then some r
  else none

/-- The idle thread slots of a core for a recruiter, in the order of R180 (log 21). -/
def State.idleThreads (s : State) (c slot ctx : Nat) : List (Nat × Nat) :=
  let k := s.core c
  let free := fun (sl t : Nat) => !k.helpers.any fun h => h.2.lentSlot = sl && h.2.lentThread = t && !h.2.self
  let own := match Assoc.get? k.slots slot with
    | none => []
    | some g => (List.range g.width).filterMap fun t => if !g.live.getLsbD t && free slot t then some (slot, t) else none
  let others := k.slots.flatMap fun e =>
    if e.1 = slot || e.2.ctx != ctx || e.2.life != .resident || !e.2.parked then []
    else (List.range e.2.width).filterMap fun t => if free e.1 t then some (e.1, t) else none
  own ++ others

/-- The number granted and the reason (R180). -/
def grant (r : RecruitReq) (quota pool idle : Nat) : Nat × Nat :=
  let want := Nat.min r.hreq r.nch
  let g := Nat.min want (Nat.min quota (Nat.min pool idle))
  (g, if g = want then 0 else if g = quota then 5 else if g = pool then 2 else 1)

/-- The helpers of a core that come from its pool (R42). -/
def Core.pooled (k : Core) : List Helper := k.helpers.vals.filter fun h => !h.self

/-- The grant that the Barker makes (R180). -/
def State.barker (s : State) (u : Issuer) (r : RecruitReq) : Nat × Nat :=
  let k := s.core u.core
  let cmode := u.path.view.cmode.toNat
  let mine := (k.pooled.filter fun h => ((s.group? u.core h.slot).map (·.ctx)) = some u.ctx).length
  if u.kind = .helper then (0, 3)
  else if k.preempt then (0, 4)
  else if bits cmode 2 1 = 0 then (0, 5)
  else grant r (Nat.min (bits cmode 4 10) 512 - mine) (512 - k.pooled.length) (s.idleThreads u.core u.slot u.ctx).length

/-- The state with a recruitment made and its helpers started on chunks 0, 1, … (R180, R181, R449). In a killed group its chunks are
dropped and no helper starts one (R186, R296). -/
def State.makeRecruitment (s : State) (u : Issuer) (t : Nat) (r : RecruitReq) (entry : PC) (granted : Nat) : State :=
  let killed := ((s.group? u.core u.slot).map (·.killed)).getD false
  let q : Recruitment :=
    { granted := granted, entry := entry, fmt := u.fmt, failed := killed
      shared := (List.range r.sn).map fun j => s.readV u (r.sb + j) t
      gregs := (List.range 63).filterMap fun j => if s.readG u j = 0 then none else some (j, s.readG u j)
      chunks := List.replicate r.nch .unassigned }
  let idle := (s.idleThreads u.core u.slot u.ctx).take (if killed then 0 else granted)
  let s := s.modGroup u.core u.slot fun g => { g with recruits := Assoc.set g.recruits t q }
  (List.range granted).foldl (fun s j =>
    match idle[j]?, (Assoc.firstFree (s.core u.core).helpers 512) with
    | some (sl, th), some n =>
      let (uid, s) := s.freshId
      let h : Helper := { uid := uid, slot := u.slot, thread := t, lentSlot := sl, lentThread := th, num := j, path := { view := u.path.view } }
      (s.modCore u.core fun k => { k with helpers := Assoc.set k.helpers n h }).startChunk u.core n j
    | _, _ => s) s

/-- The grant that the hub supplies under replay: that of the path's next `recruit` in the log (R433). -/
def State.recordedGrant (s : State) (u : Issuer) (t : Nat) (g : Nat × Nat) : Nat × Nat :=
  if !s.replayed u.ctx then g
  else match s.fomar.replay.find? fun e => e.kind = .recruit && e.line = u.hubLine (s.ownerOf u) t with
    | some e => (e.value % 256, e.value / 256)
    | none => g

/-- The registers that a `recruit` takes copies of: the shared registers of its request, and the group registers (R42, R181; log 89). A
recruiter that is itself a helper recruits nothing. -/
def State.recruited (s : State) (u : Issuer) (a : Opnd) : List Reg :=
  match u.kind, recruitReq (s.read64 u a 0) u.window with
  | .simt, some r => ((List.range r.sn).map fun j => Reg.v (r.sb + j)) ++ (List.range u.gcount).map Reg.g
  | _, _ => []

/-- `recruit` (R179, R180). It counts as a reader of fmt and of what it copies (log 89). -/
def execRecruit (f : FB) (s : State) : Host.Outcome State Fault Refusal :=
  issue s (.recruit f)
    (fun u => { ctrlReq false [gUse f.d true, gUse f.a false] with may := u.kind != .steward, fmt := true, more := s.recruited u f.a })
    fun u =>
      match u.lanes, recruitReq (s.read64 u f.a 0) u.window with
      | [t], some r =>
        let g := s.group? u.core u.slot
        let active := u.kind = .simt && ((g.bind fun g => Assoc.get? g.recruits t).isSome)
        if !((g.map (·.kernel.hlp)).getD false) || active then s.raiseHere u 0x01
        else
          let (n, reason) := s.recordedGrant u t (s.barker u r)
          let s' := if reason = 3 then s else s.makeRecruitment u t r (u.target f.offs) n
          let s' := s'.pushWrites u (resultWrites f.d false [(0, BitVec.ofNat 64 (reason * 256 + n))]) 1
          ((s'.logEntry u.ctx { kind := .recruit, uid := s.ownerOf u, idx := u.idx, lane := t, line := u.hubLine (s.ownerOf u) t, value := reason * 256 + n }).commitRegion
            u).retire u f.sc
      | _, _ => s.raiseHere u 0x02

/-! ## hpost, hjoin, dismiss (R183 to R186) -/

/-- `hpost` (R183). -/
def execHpost (f : F3) (s : State) : Host.Outcome State Fault Refusal :=
  issue s (.hpost f) (fun u => { ctrlReq false [{ o := f.a, role := .vpair }] with may := u.kind = .helper }) fun u =>
    match u.agent with
    | .helper c n => (s.modHelper c n fun h => { h with part := some (s.read64 u f.a 0) }).retire u f.sc
    | _ => s.retire u f.sc

/-- The combination of two partials under an op (Table of R184). -/
def combine (op : Nat) (v : FEnv) (p q : DWord) : DWord :=
  match op with
  | 1 => BitVec.ofNat 64 (fAdd { v with ftz := false, sat := false } fp64 p.toNat q.toNat)
  | 2 => BitVec.ofNat 64 (fAdd v fp32 (bits p.toNat 0 32) (bits q.toNat 0 32))
  | 3 => p + q
  | 4 => if q.toInt < p.toInt then q else p
  | 5 => if p.toInt < q.toInt then q else p
  | 6 => BitVec.ofNat 64 (fp64.minMax false false p.toNat q.toNat)
  | 7 => BitVec.ofNat 64 (fp64.minMax true false p.toNat q.toNat)
  | _ => p

/-- The partials combined in chunk order (R184). -/
def Recruitment.total (q : Recruitment) (op : Nat) (v : FEnv) : Option DWord :=
  q.chunks.foldl (fun r ch =>
    match ch, r with
    | .done (some p), none => some p
    | .done (some p), some r => some (combine op v r p)
    | _, r => r) none

/-- The state with a recruiter in helper mode on a chunk, in the recruiter frame of its group's slot (R184); in a killed group the chunk is
dropped (R186, R296). -/
def State.runSelf (s : State) (u : Issuer) (t ch : Nat) : State :=
  if ((s.group? u.core u.slot).map (·.killed)).getD false then s
  else
  let (uid, s) := s.freshId
  let h : Helper := { uid := uid, slot := u.slot, thread := t, lentSlot := u.slot, lentThread := t, self := true, num := selfNum,
                      path := { view := u.path.view } }
  (s.modCore u.core fun k => { k with helpers := Assoc.set k.helpers (512 + u.slot) h }).startChunk u.core (512 + u.slot) ch

/-- The state without the recruitments of some threads (R184, R187). -/
def State.dropRecruits (s : State) (c slot : Nat) (ts : List Nat) : State :=
  s.modGroup c slot fun g => { g with recruits := ts.foldl (fun r t => Assoc.erase r t) g.recruits }

/-- `hjoin` (R184, R187). It counts as a reader of fmt (log 89), and traps for all of exec where one thread has no recruitment (log 90). -/
def execHjoin (f : F3) (s : State) : Host.Outcome State Fault Refusal :=
  let op := bits f.x.toNat 0 3
  issue s (.hjoin f)
    (fun u => { ctrlReq true (if op = 0 then [] else [{ o := f.d, role := .vpair, write := true }]) with
                may := u.kind = .simt, fmt := true })
    fun u =>
      let rec' := (s.group? u.core u.slot).map (·.recruits)
      let qs := u.lanes.map fun t => (t, rec'.bind fun r => Assoc.get? r t)
      if qs.any fun x => x.2.isNone then s.raiseHere u 0x01
      else
        let js := qs.filterMap fun x => x.2.map fun q => (x.1, s.joinState u.core u.slot x.1 q)
        match js.findSome? fun x => match x.2 with | .run ch => some (x.1, ch) | _ => none with
        | some (t, ch) => (s.runSelf u t ch).stall u .join
        | none =>
          if js.any fun x => x.2 = .wait then s.stall u .join
          else
            let faults := js.filterMap fun x => match x.2 with
              | .fault ch i => some (x.1, ({ i with cause := 0x0D, ucause := i.cause, lease := 0, chunk := some ch } : FaultInfo))
              | _ => none
            let s' := s.withFaults u faults fun s u =>
              let sums := js.filterMap fun x => match x.2 with
                | .done q => some (x.1, (q.total op (u.fenv f.rm false)).getD 0)
                | _ => none
              let s := if op = 0 then s else s.pushWrites u (resultWrites f.d true sums) 1
              (s.dropRecruits u.core u.slot (sums.map (·.1))).retire u f.sc
            if faults.isEmpty || (s'.path? u.agent).any Path.splitWaits then s'
            else s'.dropRecruits u.core u.slot (faults.map (·.1))

/-- `dismiss`: every helper of the recruitments of the threads in exec leaves at its next clause boundary (R185). -/
def execDismiss (f : F3) (s : State) : Host.Outcome State Fault Refusal :=
  issue s (.dismiss f) (fun u => { ctrlReq false [] with may := u.kind = .simt }) fun u =>
    (s.releaseHelpers u.core fun h => h.slot = u.slot && u.lanes.contains h.thread && !h.self).retire u f.sc

end Sys2Proof.Machine
end

