-- ==== Sys2Proof/Machine/Pool.lean ====
section
/-! DEFINITION. The register pool: claims, gives, and the register-claim deadlock (R36, R37, R211 to R214). -/
namespace Sys2Proof.Machine

/-- Checks of `rclaim` and `rgive` (R91, R181, R211). -/
def poolReq (u : Issuer) : Req := { memReq false [] with may := u.kind == .simt }

/-- The group has exactly one valid path, and that path an empty reconvergence stack (R211). -/
def State.alone (s : State) (u : Issuer) : Bool :=
  u.path.recon.isEmpty && ((s.group? u.core u.slot).map fun g => g.paths.length == 1).getD false

/-- `rclaim` (R212): granted at issue, or by a later RCLAIM_GRANT for which the path parks. -/
def execRclaim (f : F3) (s : State) : Host.Outcome State Fault Refusal :=
  issue s (.rclaim f) poolReq fun u =>
    let n := bits f.x.toNat 0 5
    let k := s.core u.core
    if u.path.woken.isSome then s.retire u f.sc
    else if !s.alone u || 192 < u.window + 8 * n then s.raiseHere u 0x02
    else if k.claims.isEmpty && n ≤ k.free then (s.grantUnits u.core u.slot n).retire u f.sc
    else
      let s' := s.stall u .claim
      if (s'.path? u.agent).isNone then s'
      else s'.modCore u.core fun k => { k with claims := k.claims ++ [{ slot := u.slot, path := u.idx, n := n }] }

/-- The interlocked writes in flight to registers of a group from a number upward (R70, R213). -/
def State.writesFrom (s : State) (uid r : Nat) : List Nat :=
  (s.ops.filter fun p => p.2.uid = uid && (match p.2.dst with
    | some (.v n) => r ≤ n && n < 192
    | _ => false)).map (·.1)

/-- A group without its registers from a number upward (R37). -/
def Group.dropRegs (g : Group) (r : Nat) : Group :=
  { g with
    w := r
    v := g.v.filter fun p => p.1 < 128 * r
    heldStores := g.heldStores.filter fun h => h.reg < r
    paths := g.paths.mapVals fun p => { p with pend := p.pend.filter fun w => match w.reg with
      | .v n => n < r
      | _ => true } }

/-- A v register that its group has given back: a number past every register. -/
def Reg.lost : Reg → Reg
  | .v n => .v (n + 1000)
  | r => r

/-- `rgive` (R213): the window narrows at once; the units return when the writes in flight to the given registers have
completed, whose values are lost. -/
def execRgive (f : F3) (s : State) : Host.Outcome State Fault Refusal :=
  issue s (.rgive f) poolReq fun u =>
    let n := bits f.x.toNat 0 5
    if !s.alone u || u.window < 8 * n + 8 then s.raiseHere u 0x02
    else
      let r := u.window - 8 * n
      let ids := s.writesFrom u.uid r
      let s := s.modGroup u.core u.slot fun g => g.dropRegs r
      let lose := fun (p : Nat × Op) => if ids.contains p.1 then (p.1, { p.2 with dst := p.2.dst.map Reg.lost }) else p
      let s := { s with ops := s.ops.map lose }
      (s.modCore u.core fun k =>
        if ids.isEmpty then { k with free := k.free + n }
        else { k with gives := k.gives ++ [{ slot := u.slot, reg := r, n := n, ops := ids }] }).retire u f.sc

/-- RCLAIM_GRANT: the oldest waiting claim of a core is granted when enough units are free (R212). -/
def execRclaimGrant (core : Nat) (s : State) : Host.Outcome State Fault Refusal :=
  match s.grantOldest core with
  | some s' => .next s'
  | none => .fault .notEnabled

/-- RGIVE_RETURN: the writes in flight to given registers have completed and their units are free (R213). -/
def execRgiveReturn (core entry : Nat) (s : State) : Host.Outcome State Fault Refusal :=
  match (s.core core).gives[entry]? with
  | none => .fault .notEnabled
  | some g =>
    if g.ops.any fun i => (Assoc.get? s.ops i).isSome then .fault .notEnabled
    else .next (s.modCore core fun k => { k with gives := k.gives.eraseIdx entry, free := k.free + g.n })

/-! ## Deadlock (R214) -/

/-- A participant that keeps an object stuck: a parked group of the launch on the core, or a slot that has arrived; an empty slot does
not (R214; log 96). -/
def State.waitsOn (s : State) (c : Nat) (a : Alloc) (i sl : Nat) : Bool :=
  (Assoc.getD a.arrived i 0).getLsbD sl || ((s.group? c sl).map fun g => g.launch == a.launch && g.parked).getD false

/-- A barrier object is stuck (R214). -/
def State.stuck (s : State) (c al i : Nat) : Bool :=
  match s.alloc? c al with
  | none => false
  | some a =>
    let b := a.barrier i
    b.pend != 0 &&
    !(s.cmds.any fun p => p.2.kind == .copy && p.2.flag 2 && p.2.core = c && p.2.alloc = al && p.2.field 9 1 = i) &&
    !(s.cores.any fun k => k.2.helpers.any fun h => ((s.group? k.1 h.2.slot).map (·.launch)) == some a.launch) &&
    (List.range 16).all fun sl => !b.pmask.testBit sl || s.waitsOn c a i sl

/-- Every path of a group waits in `rclaim`, or in `bar.wait` on a stuck object (R214). -/
def State.deadlocked (s : State) (c : Nat) (g : Group) : Bool :=
  g.parked && g.paths.all fun p => match p.2.phase, p.2.parked with
    | .stalled .claim, _ => p.2.woken.isNone
    | .stalled .barrier, some (i, _) => s.stuck c g.alloc i
    | _, _ => false

/-- The pool units that groups of a core hold that are not groups of a launch, and those on their way back from them (R36,
R213, R214). -/
def Core.heldByOthers (k : Core) (launch : Nat) : Nat :=
  let others := k.slots.filter fun p => p.2.launch != launch
  others.foldl (fun n p => n + p.2.w / 8 + 1) 0 +
    (k.gives.filter fun v => others.any fun p => p.1 = v.slot).foldl (fun n v => n + v.n) 0

/-- REGISTER_CLAIM_DEADLOCK: cause 0x0C on every parked `rclaim` of the launch on the core, whose claims are withdrawn (R214). -/
def execRegisterClaimDeadlock (core : Nat) (s : State) : Host.Outcome State Fault Refusal :=
  let k := s.core core
  match k.claims with
  | [] => .fault .notEnabled
  | cl :: _ =>
    match Assoc.get? k.slots cl.slot with
    | none => .fault .notEnabled
    | some g0 =>
      let mine := k.slots.filter fun p => p.2.launch = g0.launch
      let live := mine.filter fun p => p.2.life = .resident
      if live.all (fun p => s.deadlocked core p.2) && k.free + k.heldByOthers g0.launch < cl.n then
        let claims := k.claims.filter fun c => mine.any fun p => p.1 = c.slot
        let s := s.modCore core fun k => { k with claims := k.claims.filter fun c => !mine.any fun p => p.1 = c.slot }
        .next (claims.foldl (fun s c => match s.issuer? (.path core c.slot c.path) with
          | some u => (s.raise u (u.faultAt 0x0C 0)).groupWoke core c.slot (s.group? core c.slot)
          | none => s) s)
      else .fault .notEnabled

end Sys2Proof.Machine
end

