-- ==== Sys2Proof/Machine/Power.lean ====
section
/-! DEFINITION. Throttling, reset and bring-up, the virtio functions, attestation, and words that become uncorrectable (R346,
R421, R424, R435 to R440). -/
namespace Sys2Proof.Machine

/-! ## Power and clocks (R437, R438) -/

/-- The state with a compute die one step of 100 MHz lower, of the twelve down to the floor (R437). -/
def State.throttleDie (s : State) (die : Nat) : State :=
  { s with clocks := { s.clocks with throttle := modifyAt s.clocks.throttle die fun n => Nat.min 12 (n + 1) } }

/-- The state in which some dies meet a condition to throttle now (R437). -/
def State.hot (s : State) (dies : List Nat) : State :=
  { s with clocks := { s.clocks with lastHot := dies.foldl (fun l d => modifyAt l d fun _ => s.clocks.nsc) s.clocks.lastHot } }

/-- THERMAL_THROTTLE: the hot die throttles, or the one with the highest power, the lowest in a tie; the package's power is a condition of
every die (R437). -/
def execThermalThrottle (cause : Heat) (s : State) : Host.Outcome State Fault Refusal :=
  match cause with
  | .sensor die => if die < 4 then .next ((s.throttleDie die).hot [die]) else .fault .notEnabled
  | .power watts =>
    if watts.length != 4 then .fault .notEnabled
    else .next (s.throttleDie ((best (fun (a b : Nat) => watts.getD b 0 < watts.getD a 0) (List.range 4)).getD 0) |>.hot [0, 1, 2, 3])

/-- THROTTLE_STEP_UP: 10 ms without heat (R437). -/
def execThrottleStepUp (die : Nat) (s : State) : Host.Outcome State Fault Refusal :=
  if die < 4 && s.clocks.throttle.getD die 0 != 0 && s.clocks.lastHot.getD die 0 + 10000000 ≤ s.clocks.nsc then
    .next { s with
      clocks := { s.clocks with
        throttle := modifyAt s.clocks.throttle die fun n => n - 1
        lastHot := modifyAt s.clocks.lastHot die fun _ => s.clocks.nsc } }
  else .fault .notEnabled

/-! ## Reset and bring-up (R414, R437, R439, R440) -/

/-- The machine at package reset, with what is still to come (R439). -/
def State.packageReset (s : State) : State := { State.reset with agenda := s.agenda, free := s.free }

/-- OVERTEMP_RESET: the package enters reset, in which nothing runs (R437). -/
def execOvertempReset (s : State) : Host.Outcome State Fault Refusal :=
  .next { s.packageReset with
    bringup := { held := true }
    stewards := (List.range 32).map fun k => (k, { Steward.reset k with start := true }) }

/-- PACKAGE_RESET: stage 1 begins (R439). -/
def execPackageReset (s : State) : Host.Outcome State Fault Refusal := .next s.packageReset

/-- The action of a stage that has gone well (Table 2 of the bring-up chapter). -/
def State.stageAction (s : State) (boot : BootConfig) : Nat → State
  | 1 => { s with clocks := { s.clocks with nsc := 0, cyc := [0, 0, 0, 0, 0] } }
  | 3 => { s with boot := boot.fields, hmode := boot.hmode &&& 0xF }
  | 4 => { s with
      mem := s.mem.clear hubArea 0x10000000
      ecc := s.ecc.filter fun w => 8 * w.1 < hubArea || hubArea + 0x10000000 ≤ 8 * w.1
      sstart := 0
      dbg := {}
      fomar := {}
      monitors := []
      cores := s.cores.mapVals fun k => { k with monitors := [] }
      engine := { s.engine with slots := [], submits := [], images := [], waiting := [] }
      booth := { s.booth with lent := [], borrowed := [], rlc := [], dir := [] } }
  | 7 => { s with
      fabric := { s.fabric with up := 0xFFFF, highest := some s.clocks.nsc } }
  | _ => s

/-- BRINGUP_STAGE: a stage completes and the next begins; a firmware check or a memory stack that fails ends bring-up in recovery
(R423, R439). -/
def execBringupStage (good : Bool) (boot : BootConfig) (s : State) : Host.Outcome State Fault Refusal :=
  let n := s.bringup.stage
  if s.bringup.held || s.bringup.recovery || 8 ≤ n then .fault .notEnabled
  else if n = 6 && (List.range 32).any fun k => (s.steward k).start then .fault .notEnabled
  else if !good && (n = 2 || n = 5) then .next { s with bringup := { s.bringup with recovery := true } }
  else .next { s.stageAction boot n with bringup := { s.bringup with stage := n + 1 } }

/-! ## The virtio functions (R421, R440) -/

/-- A port presents a virtio function; in recovery the console alone, on every port (R421, R423, log 30). -/
def State.presents (s : State) (port function : Nat) : Bool :=
  if s.bringup.recovery then port < 16 && function = 1 else s.onFabric && s.boot.vports.getLsbD port && function < 2

/-- The state with a message to the host of a port. -/
def State.tellPort (s : State) (port : Nat) (body : MsgBody) : State :=
  { s with booth := { s.booth with sent := s.booth.sent ++ [{ dst := .host (some port), body := body }] } }

/-- CONFIG_REQUEST: retried until bring-up has completed; then the port's functions are found (R421, R440). -/
def execConfigRequest (port : Nat) (s : State) : Host.Outcome State Fault Refusal :=
  if 16 ≤ port then .fault .notEnabled
  else if s.onFabric || s.bringup.recovery then
    .next (s.tellPort port (.functions (((List.range 2).filter fun f => s.presents port f).map fun f => if f = 0 then 19 else 3)))
  else .next (s.tellPort port .retry)

/-- VIRTIO_NOTIFY: a doorbell is pending (R273, R421). -/
def execVirtioNotify (port function : Nat) (s : State) : Host.Outcome State Fault Refusal :=
  if s.presents port function then .next { s with doorbells := s.doorbells ++ [(port, function)] } else .fault .notEnabled

/-- The features that the functions offer: RING_INDIRECT_DESC, RING_EVENT_IDX, VERSION_1 and ACCESS_PLATFORM (R421). -/
def virtioFeatures : Nat := 2 ^ 28 + 2 ^ 29 + 2 ^ 32 + 2 ^ 33

/-- The queues of a function: receive, transmit and event queue of vsock, receive and transmit queue of the console. -/
def virtioQueues (function : Nat) : Nat := if function = 0 then 3 else 2

/-- A number that the host has written into a register of the common configuration. -/
def Virtio.number (v : Virtio) (off n : Nat) : Nat := ofBytes ((List.range n).map fun k => Assoc.getD v.regs (off + k) 0)

/-- The place of a byte of the common configuration: the driver's feature words by DRIVER_FEATURE_SELECT, a queue's registers by
QUEUE_SELECT (virtio 1.2; log 30). -/
def Virtio.place (v : Virtio) (off : Nat) : Nat :=
  if 0x0C ≤ off && off < 0x10 then off + 64 * (1 + v.number 8 4)
  else if 0x18 ≤ off then off + 2 ^ 40 * (1 + v.number 0x16 2)
  else off

/-- A byte of the common configuration that the host can write. -/
def virtioWritable (off : Nat) : Bool :=
  off < 4 || (8 ≤ off && off < 0x12) || off = 0x14 || (0x16 ≤ off && off < 0x1E) || (0x20 ≤ off && off < 0x38) || (0x3A ≤ off && off < 0x3C)

/-- A byte of the common configuration as the host reads it. -/
def Virtio.common (v : Virtio) (function off : Nat) : Byte :=
  let q := v.number 0x16 2
  let byteOf := fun (x first : Nat) => BitVec.ofNat 8 (x / 2 ^ (8 * (off - first)))
  if 4 ≤ off && off < 8 then byteOf (bits virtioFeatures (32 * v.number 0 4) 32) 4
  else if 0x12 ≤ off && off < 0x14 then byteOf (virtioQueues function) 0x12
  else if 0x1E ≤ off && off < 0x20 then byteOf q 0x1E
  else if 0x18 ≤ off && virtioQueues function ≤ q then 0
  else if 0x18 ≤ off && off < 0x1A then (Assoc.get? v.regs (v.place off)).getD (byteOf 256 0x18)
  else if (0x10 ≤ off && off < 0x12) || (0x1A ≤ off && off < 0x1C) then (Assoc.get? v.regs (v.place off)).getD 0xFF
  else if virtioWritable off then Assoc.getD v.regs (v.place off) 0
  else 0

/-- A byte of the device configuration: guest_cid of vsock; the one port of the console. -/
def State.virtioDevice (s : State) (function off : Nat) : Byte :=
  if function = 0 then (if off < 8 then BitVec.ofNat 8 ((0x1000 + s.boot.pkgId) / 2 ^ (8 * off)) else 0)
  else if off = 4 then 1 else 0

/-- A byte of a function's BAR: the common structure at 0, ISR at 0x1000, the device structure at 0x2000, notify at 0x3000, and zero
elsewhere (R421; log 30). -/
def State.barByte (s : State) (port function off : Nat) : Byte :=
  if off < 0x40 then (Assoc.getD s.virtio (2 * port + function) {}).common function off
  else if 0x2000 ≤ off && off < 0x2040 then s.virtioDevice function (off - 0x2000)
  else 0

/-- The state with a byte of a function's BAR written by the host. -/
def State.barWrite (s : State) (port function off : Nat) (b : Byte) : State :=
  let n := 2 * port + function
  let v := Assoc.getD s.virtio n {}
  if off = 0x14 && b = 0 then { s with virtio := Assoc.erase s.virtio n }
  else if off < 0x40 then
    if virtioWritable off then { s with virtio := Assoc.set s.virtio n { v with regs := Assoc.set v.regs (v.place off) b } } else s
  else if 0x3000 ≤ off && off < 0x3000 + 4 * virtioQueues function then { s with doorbells := s.doorbells ++ [(port, function)] }
  else s

/-- HOST_BAR_ACCESS (R421). -/
def execHostBarAccess (port function offset : Nat) (write : Option Byte) (s : State) : Host.Outcome State Fault Refusal :=
  if !s.presents port function then .fault .notEnabled
  else match write with
    | some b => .next (s.barWrite port function offset b)
    | none => .next (s.tellPort port (.bar function offset (s.barByte port function offset)))

/-! ## Attestation (R424) -/

/-- SPDM_REQUEST: the root of trust answers with a measurement block, of which there are three (R424). -/
def execSpdmRequest (block : Nat) (s : State) : Host.Outcome State Fault Refusal :=
  if !s.onFabric && !s.bringup.recovery then .fault .notEnabled
  else
    let digest := if 1 ≤ block && block ≤ 3 then (List.range 32).map fun k => Config.measurement s.boot block k else []
    .next { s with booth := { s.booth with sent := s.booth.sent ++ [{ dst := .host none, body := .spdm block digest }] } }

/-! ## Uncorrectable words (R345, R346) -/

/-- UNCORRECTABLE_WORD: no byte of the word has been rewritten yet (R346). -/
def execUncorrectableWord (word : Nat) (s : State) : Host.Outcome State Fault Refusal :=
  if (paClass (8 * word) = .hbm || paClass (8 * word) = .pool) && (hubWordAt (8 * word)).isNone then
    .next { s with ecc := Assoc.set s.ecc word 0 }
  else .fault .notEnabled

end Sys2Proof.Machine
end

