-- ==== Sys2Proof/Machine/Dispatch.lean ====
section
/-! DEFINITION. One arm per step of the machine: the call of its meaning. -/
namespace Sys2Proof.Machine

/-- The meaning of a step. -/
def exec (i : Instr) (s : State) : Host.Outcome State Fault Refusal :=
  match i with
  | .add f => Sys2Proof.Machine.execAdd f s
  | .sub f => Sys2Proof.Machine.execSub f s
  | .min f => Sys2Proof.Machine.execMin f s
  | .max f => Sys2Proof.Machine.execMax f s
  | .abs f => Sys2Proof.Machine.execAbs f s
  | .neg f => Sys2Proof.Machine.execNeg f s
  | .sel f => Sys2Proof.Machine.execSel f s
  | .lea f => Sys2Proof.Machine.execLea f s
  | .mul f => Sys2Proof.Machine.execMul f s
  | .mulhi f => Sys2Proof.Machine.execMulhi f s
  | .mad f => Sys2Proof.Machine.execMad f s
  | .dp4 f => Sys2Proof.Machine.execDp4 f s
  | .and f => Sys2Proof.Machine.execAnd f s
  | .or f => Sys2Proof.Machine.execOr f s
  | .xor f => Sys2Proof.Machine.execXor f s
  | .andn f => Sys2Proof.Machine.execAndn f s
  | .not f => Sys2Proof.Machine.execNot f s
  | .popc f => Sys2Proof.Machine.execPopc f s
  | .clz f => Sys2Proof.Machine.execClz f s
  | .ctz f => Sys2Proof.Machine.execCtz f s
  | .shl f => Sys2Proof.Machine.execShl f s
  | .shr f => Sys2Proof.Machine.execShr f s
  | .sar f => Sys2Proof.Machine.execSar f s
  | .rot f => Sys2Proof.Machine.execRot f s
  | .bfx f => Sys2Proof.Machine.execBfx f s
  | .bfi f => Sys2Proof.Machine.execBfi f s
  | .brev f => Sys2Proof.Machine.execBrev f s
  | .cmpEq f => Sys2Proof.Machine.execCmpEq f s
  | .cmpNe f => Sys2Proof.Machine.execCmpNe f s
  | .cmpLt f => Sys2Proof.Machine.execCmpLt f s
  | .cmpLe f => Sys2Proof.Machine.execCmpLe f s
  | .cmpGt f => Sys2Proof.Machine.execCmpGt f s
  | .cmpGe f => Sys2Proof.Machine.execCmpGe f s
  | .add64 f => Sys2Proof.Machine.execAdd64 f s
  | .sub64 f => Sys2Proof.Machine.execSub64 f s
  | .cvt f => Sys2Proof.Machine.execCvt f s
  | .addImm f => Sys2Proof.Machine.execAddImm f s
  | .andImm f => Sys2Proof.Machine.execAndImm f s
  | .orImm f => Sys2Proof.Machine.execOrImm f s
  | .xorImm f => Sys2Proof.Machine.execXorImm f s
  | .shlImm f => Sys2Proof.Machine.execShlImm f s
  | .shrImm f => Sys2Proof.Machine.execShrImm f s
  | .sarImm f => Sys2Proof.Machine.execSarImm f s
  | .mulImm f => Sys2Proof.Machine.execMulImm f s
  | .add64Imm f => Sys2Proof.Machine.execAdd64Imm f s
  | .and64Imm f => Sys2Proof.Machine.execAnd64Imm f s
  | .or64Imm f => Sys2Proof.Machine.execOr64Imm f s
  | .xor64Imm f => Sys2Proof.Machine.execXor64Imm f s
  | .fadd f => Sys2Proof.Machine.execFadd f s
  | .fsub f => Sys2Proof.Machine.execFsub f s
  | .fmul f => Sys2Proof.Machine.execFmul f s
  | .fma f => Sys2Proof.Machine.execFma f s
  | .fmin f => Sys2Proof.Machine.execFmin f s
  | .fmax f => Sys2Proof.Machine.execFmax f s
  | .fabs f => Sys2Proof.Machine.execFabs f s
  | .fneg f => Sys2Proof.Machine.execFneg f s
  | .fclass f => Sys2Proof.Machine.execFclass f s
  | .frnd f => Sys2Proof.Machine.execFrnd f s
  | .fcvt f => Sys2Proof.Machine.execFcvt f s
  | .f2i f => Sys2Proof.Machine.execF2i f s
  | .i2f f => Sys2Proof.Machine.execI2f f s
  | .fldexp f => Sys2Proof.Machine.execFldexp f s
  | .ffrexp f => Sys2Proof.Machine.execFfrexp f s
  | .ffrexpExp f => Sys2Proof.Machine.execFfrexpExp f s
  | .fcmpEq f => Sys2Proof.Machine.execFcmpEq f s
  | .fcmpNe f => Sys2Proof.Machine.execFcmpNe f s
  | .fcmpLt f => Sys2Proof.Machine.execFcmpLt f s
  | .fcmpLe f => Sys2Proof.Machine.execFcmpLe f s
  | .fcmpGt f => Sys2Proof.Machine.execFcmpGt f s
  | .fcmpGe f => Sys2Proof.Machine.execFcmpGe f s
  | .fcmpUn f => Sys2Proof.Machine.execFcmpUn f s
  | .fcmpOrd f => Sys2Proof.Machine.execFcmpOrd f s
  | .bfpk f => Sys2Proof.Machine.execBfpk f s
  | .bfpkPk f => Sys2Proof.Machine.execBfpkPk f s
  | .bfup f => Sys2Proof.Machine.execBfup f s
  | .bfq f => Sys2Proof.Machine.execBfq f s
  | .fmtset f => Sys2Proof.Machine.execFmtset f s
  | .fmtget f => Sys2Proof.Machine.execFmtget f s
  | .faddF32Imm f => Sys2Proof.Machine.execFaddF32Imm f s
  | .fmulF32Imm f => Sys2Proof.Machine.execFmulF32Imm f s
  | .faddF64Imm f => Sys2Proof.Machine.execFaddF64Imm f s
  | .fmulF64Imm f => Sys2Proof.Machine.execFmulF64Imm f s
  | .frcp f => Sys2Proof.Machine.execFrcp f s
  | .frsq f => Sys2Proof.Machine.execFrsq f s
  | .fsqrt f => Sys2Proof.Machine.execFsqrt f s
  | .fexp2 f => Sys2Proof.Machine.execFexp2 f s
  | .flog2 f => Sys2Proof.Machine.execFlog2 f s
  | .fsin f => Sys2Proof.Machine.execFsin f s
  | .fcos f => Sys2Proof.Machine.execFcos f s
  | .ldG f => Sys2Proof.Machine.execLdG f s
  | .ldL f => Sys2Proof.Machine.execLdL f s
  | .ldx f => Sys2Proof.Machine.execLdx f s
  | .pf f => Sys2Proof.Machine.execPf f s
  | .stG f => Sys2Proof.Machine.execStG f s
  | .stL f => Sys2Proof.Machine.execStL f s
  | .stx f => Sys2Proof.Machine.execStx f s
  | .atomAdd f => Sys2Proof.Machine.execAtomAdd f s
  | .atomMinN f => Sys2Proof.Machine.execAtomMinN f s
  | .atomMaxN f => Sys2Proof.Machine.execAtomMaxN f s
  | .atomMinS f => Sys2Proof.Machine.execAtomMinS f s
  | .atomMaxS f => Sys2Proof.Machine.execAtomMaxS f s
  | .atomAnd f => Sys2Proof.Machine.execAtomAnd f s
  | .atomOr f => Sys2Proof.Machine.execAtomOr f s
  | .atomXor f => Sys2Proof.Machine.execAtomXor f s
  | .atomExch f => Sys2Proof.Machine.execAtomExch f s
  | .atomCas f => Sys2Proof.Machine.execAtomCas f s
  | .atomAddF f => Sys2Proof.Machine.execAtomAddF f s
  | .atomMinF f => Sys2Proof.Machine.execAtomMinF f s
  | .atomMaxF f => Sys2Proof.Machine.execAtomMaxF f s
  | .atomLAdd f => Sys2Proof.Machine.execAtomLAdd f s
  | .atomLMinN f => Sys2Proof.Machine.execAtomLMinN f s
  | .atomLMaxN f => Sys2Proof.Machine.execAtomLMaxN f s
  | .atomLMinS f => Sys2Proof.Machine.execAtomLMinS f s
  | .atomLMaxS f => Sys2Proof.Machine.execAtomLMaxS f s
  | .atomLAnd f => Sys2Proof.Machine.execAtomLAnd f s
  | .atomLOr f => Sys2Proof.Machine.execAtomLOr f s
  | .atomLXor f => Sys2Proof.Machine.execAtomLXor f s
  | .atomLExch f => Sys2Proof.Machine.execAtomLExch f s
  | .atomLCas f => Sys2Proof.Machine.execAtomLCas f s
  | .atomLAddF f => Sys2Proof.Machine.execAtomLAddF f s
  | .atomLMinF f => Sys2Proof.Machine.execAtomLMinF f s
  | .atomLMaxF f => Sys2Proof.Machine.execAtomLMaxF f s
  | .redAdd f => Sys2Proof.Machine.execRedAdd f s
  | .redMinN f => Sys2Proof.Machine.execRedMinN f s
  | .redMaxN f => Sys2Proof.Machine.execRedMaxN f s
  | .redMinS f => Sys2Proof.Machine.execRedMinS f s
  | .redMaxS f => Sys2Proof.Machine.execRedMaxS f s
  | .redAnd f => Sys2Proof.Machine.execRedAnd f s
  | .redOr f => Sys2Proof.Machine.execRedOr f s
  | .redXor f => Sys2Proof.Machine.execRedXor f s
  | .redAddF f => Sys2Proof.Machine.execRedAddF f s
  | .redMinF f => Sys2Proof.Machine.execRedMinF f s
  | .redMaxF f => Sys2Proof.Machine.execRedMaxF f s
  | .fence f => Sys2Proof.Machine.execFence f s
  | .barInit f => Sys2Proof.Machine.execBarInit f s
  | .barArr f => Sys2Proof.Machine.execBarArr f s
  | .barArrDrop f => Sys2Proof.Machine.execBarArrDrop f s
  | .barWait f => Sys2Proof.Machine.execBarWait f s
  | .barTest f => Sys2Proof.Machine.execBarTest f s
  | .waitLd f => Sys2Proof.Machine.execWaitLd f s
  | .waitSt f => Sys2Proof.Machine.execWaitSt f s
  | .waitAt f => Sys2Proof.Machine.execWaitAt f s
  | .waitCp f => Sys2Proof.Machine.execWaitCp f s
  | .waitTt f => Sys2Proof.Machine.execWaitTt f s
  | .waitSv f => Sys2Proof.Machine.execWaitSv f s
  | .rclaim f => Sys2Proof.Machine.execRclaim f s
  | .rgive f => Sys2Proof.Machine.execRgive f s
  | .cobj f => Sys2Proof.Machine.execCobj f s
  | .cwin f => Sys2Proof.Machine.execCwin f s
  | .cctlL1inv f => Sys2Proof.Machine.execCctlL1inv f s
  | .cctlL1all f => Sys2Proof.Machine.execCctlL1all f s
  | .cctlRlcev f => Sys2Proof.Machine.execCctlRlcev f s
  | .tenq f => Sys2Proof.Machine.execTenq f s
  | .twait f => Sys2Proof.Machine.execTwait f s
  | .ardr f => Sys2Proof.Machine.execArdr f s
  | .awr f => Sys2Proof.Machine.execAwr f s
  | .azero f => Sys2Proof.Machine.execAzero f s
  | .cpkick f => Sys2Proof.Machine.execCpkick f s
  | .launch f => Sys2Proof.Machine.execLaunch f s
  | .shfl f => Sys2Proof.Machine.execShfl f s
  | .bcast f => Sys2Proof.Machine.execBcast f s
  | .voteBallot f => Sys2Proof.Machine.execVoteBallot f s
  | .voteAny f => Sys2Proof.Machine.execVoteAny f s
  | .voteAll f => Sys2Proof.Machine.execVoteAll f s
  | .voteEq f => Sys2Proof.Machine.execVoteEq f s
  | .scan f => Sys2Proof.Machine.execScan f s
  | .rdx f => Sys2Proof.Machine.execRdx f s
  | .mpop f => Sys2Proof.Machine.execMpop f s
  | .xpat f => Sys2Proof.Machine.execXpat f s
  | .xbar f => Sys2Proof.Machine.execXbar f s
  | .vdtab f => Sys2Proof.Machine.execVdtab f s
  | .vdec f => Sys2Proof.Machine.execVdec f s
  | .bra f => Sys2Proof.Machine.execBra f s
  | .brc f => Sys2Proof.Machine.execBrc f s
  | .call f => Sys2Proof.Machine.execCall f s
  | .loop f => Sys2Proof.Machine.execLoop f s
  | .endl f => Sys2Proof.Machine.execEndl f s
  | .endlX f => Sys2Proof.Machine.execEndlX f s
  | .rgn f => Sys2Proof.Machine.execRgn f s
  | .brx f => Sys2Proof.Machine.execBrx f s
  | .callx f => Sys2Proof.Machine.execCallx f s
  | .ret f => Sys2Proof.Machine.execRet f s
  | .exit f => Sys2Proof.Machine.execExit f s
  | .yield f => Sys2Proof.Machine.execYield f s
  | .nop f => Sys2Proof.Machine.execNop f s
  | .recruit f => Sys2Proof.Machine.execRecruit f s
  | .hpost f => Sys2Proof.Machine.execHpost f s
  | .hjoin f => Sys2Proof.Machine.execHjoin f s
  | .dismiss f => Sys2Proof.Machine.execDismiss f s
  | .gsr f => Sys2Proof.Machine.execGsr f s
  | .ssr f => Sys2Proof.Machine.execSsr f s
  | .sipiWrite f => Sys2Proof.Machine.execSipiWrite f s
  | .stcmpWrite f => Sys2Proof.Machine.execStcmpWrite f s
  | .svc f => Sys2Proof.Machine.execSvc f s
  | .trap f => Sys2Proof.Machine.execTrap f s
  | .brk f => Sys2Proof.Machine.execBrk f s
  | .eret f => Sys2Proof.Machine.execEret f s
  | .tlbiPage f => Sys2Proof.Machine.execTlbiPage f s
  | .tlbiCtx f => Sys2Proof.Machine.execTlbiCtx f s
  | .tlbiAll f => Sys2Proof.Machine.execTlbiAll f s
  | .ipf f => Sys2Proof.Machine.execIpf f s
  | .sret f => Sys2Proof.Machine.execSret f s
  | .wfi f => Sys2Proof.Machine.execWfi f s
  | .lsread f => Sys2Proof.Machine.execLsread f s
  | .lswrite f => Sys2Proof.Machine.execLswrite f s
  | .lsgrant f => Sys2Proof.Machine.execLsgrant f s
  | .lsrecall f => Sys2Proof.Machine.execLsrecall f s
  | .ctxload f => Sys2Proof.Machine.execCtxload f s
  | .ctxsave f => Sys2Proof.Machine.execCtxsave f s
  | .ctxkill f => Sys2Proof.Machine.execCtxkill f s
  | .ctxmode f => Sys2Proof.Machine.execCtxmode f s
  | .clauseHeader a => Sys2Proof.Machine.execClauseHeader a s
  | .clauseFetch a miss => Sys2Proof.Machine.execClauseFetch a miss s
  | .icacheFill a => Sys2Proof.Machine.execIcacheFill a s
  | .clauseBoundary a => Sys2Proof.Machine.execClauseBoundary a s
  | .issueSelection core => Sys2Proof.Machine.execIssueSelection core s
  | .pathAged a => Sys2Proof.Machine.execPathAged a s
  | .stallClear a => Sys2Proof.Machine.execStallClear a s
  | .loadComplete op => Sys2Proof.Machine.execLoadComplete op s
  | .storeComplete op => Sys2Proof.Machine.execStoreComplete op s
  | .atomicComplete op => Sys2Proof.Machine.execAtomicComplete op s
  | .combineFlush cluster unit entry => Sys2Proof.Machine.execCombineFlush cluster unit entry s
  | .codecLoad op block => Sys2Proof.Machine.execCodecLoad op block s
  | .codecWriteStep op block => Sys2Proof.Machine.execCodecWriteStep op block s
  | .rclaimGrant core => Sys2Proof.Machine.execRclaimGrant core s
  | .rgiveReturn core entry => Sys2Proof.Machine.execRgiveReturn core entry s
  | .registerClaimDeadlock core => Sys2Proof.Machine.execRegisterClaimDeadlock core s
  | .chunkComplete a => Sys2Proof.Machine.execChunkComplete a s
  | .tileTaskStart cmd => Sys2Proof.Machine.execTileTaskStart cmd s
  | .tileTaskComplete cmd => Sys2Proof.Machine.execTileTaskComplete cmd s
  | .engineFault cmd => Sys2Proof.Machine.execEngineFault cmd s
  | .copyKindCopy cmd bytes => Sys2Proof.Machine.execCopyKindCopy cmd bytes s
  | .stridedCopy cmd bytes => Sys2Proof.Machine.execStridedCopy cmd bytes s
  | .gather cmd bytes => Sys2Proof.Machine.execGather cmd bytes s
  | .poolFill cmd bytes => Sys2Proof.Machine.execPoolFill cmd bytes s
  | .poolCompare cmd => Sys2Proof.Machine.execPoolCompare cmd s
  | .poolReduce cmd bytes => Sys2Proof.Machine.execPoolReduce cmd bytes s
  | .fabricReduce cmd => Sys2Proof.Machine.execFabricReduce cmd s
  | .leasePrefetch cmd bytes => Sys2Proof.Machine.execLeasePrefetch cmd bytes s
  | .leaseWriteBack cmd bytes => Sys2Proof.Machine.execLeaseWriteBack cmd bytes s
  | .formatConversion cmd blocks => Sys2Proof.Machine.execFormatConversion cmd blocks s
  | .byteCountPortion cmd => Sys2Proof.Machine.execByteCountPortion cmd s
  | .copyComplete cmd => Sys2Proof.Machine.execCopyComplete cmd s
  | .collectiveResult coll inst answer => Sys2Proof.Machine.execCollectiveResult coll inst answer s
  | .collectiveTimeout coll inst => Sys2Proof.Machine.execCollectiveTimeout coll inst s
  | .launchPredCheck queue entry => Sys2Proof.Machine.execLaunchPredCheck queue entry s
  | .placeUnit => Sys2Proof.Machine.execPlaceUnit s
  | .groupResume => Sys2Proof.Machine.execGroupResume s
  | .groupRetire gid => Sys2Proof.Machine.execGroupRetire gid s
  | .endComplete launch => Sys2Proof.Machine.execEndComplete launch s
  | .preempt slot => Sys2Proof.Machine.execPreempt slot s
  | .preemptResumeOnly slot => Sys2Proof.Machine.execPreemptResumeOnly slot s
  | .preemptHold slot => Sys2Proof.Machine.execPreemptHold slot s
  | .preemptSave core => Sys2Proof.Machine.execPreemptSave core s
  | .watchdogExpiry gid => Sys2Proof.Machine.execWatchdogExpiry gid s
  | .stewardEntry k => Sys2Proof.Machine.execStewardEntry k s
  | .stewardTimer k => Sys2Proof.Machine.execStewardTimer k s
  | .cmdLaunch slot => Sys2Proof.Machine.execCmdLaunch slot s
  | .cmdLaunchRoom slot => Sys2Proof.Machine.execCmdLaunchRoom slot s
  | .endLaunch slot => Sys2Proof.Machine.execEndLaunch slot s
  | .fetch slot => Sys2Proof.Machine.execFetch slot s
  | .resume slot => Sys2Proof.Machine.execResume slot s
  | .refer slot => Sys2Proof.Machine.execRefer slot s
  | .complete slot => Sys2Proof.Machine.execComplete slot s
  | .svcrst slot => Sys2Proof.Machine.execSvcrst slot s
  | .copy slot => Sys2Proof.Machine.execCopy slot s
  | .route slot => Sys2Proof.Machine.execRoute slot s
  | .coll slot => Sys2Proof.Machine.execColl slot s
  | .mode slot => Sys2Proof.Machine.execMode slot s
  | .lgrant slot => Sys2Proof.Machine.execLgrant slot s
  | .lrecall slot => Sys2Proof.Machine.execLrecall slot s
  | .uint slot => Sys2Proof.Machine.execUint slot s
  | .lreq src bix sz => Sys2Proof.Machine.execLreq src bix sz s
  | .grant src lid sz dur pa bix => Sys2Proof.Machine.execGrant src lid sz dur pa bix s
  | .gack src lid => Sys2Proof.Machine.execGack src lid s
  | .reject src lid => Sys2Proof.Machine.execReject src lid s
  | .renew src lid => Sys2Proof.Machine.execRenew src lid s
  | .renewed src lid => Sys2Proof.Machine.execRenewed src lid s
  | .recalling src lid => Sys2Proof.Machine.execRecalling src lid s
  | .gone src lid => Sys2Proof.Machine.execGone src lid s
  | .recall src lid rgr => Sys2Proof.Machine.execRecall src lid rgr s
  | .recallDone src lid => Sys2Proof.Machine.execRecallDone src lid s
  | .release src lid => Sys2Proof.Machine.execRelease src lid s
  | .gackTimeout entry => Sys2Proof.Machine.execGackTimeout entry s
  | .renewDue bix => Sys2Proof.Machine.execRenewDue bix s
  | .renewResend bix => Sys2Proof.Machine.execRenewResend bix s
  | .deadlineExpiry bix => Sys2Proof.Machine.execDeadlineExpiry bix s
  | .recallDeadline bix => Sys2Proof.Machine.execRecallDeadline bix s
  | .leaseExpiry entry => Sys2Proof.Machine.execLeaseExpiry entry s
  | .recallGraceExpiry entry => Sys2Proof.Machine.execRecallGraceExpiry entry s
  | .snoopTimeout line pkg => Sys2Proof.Machine.execSnoopTimeout line pkg s
  | .requestTimeout bix => Sys2Proof.Machine.execRequestTimeout bix s
  | .fabricUnreachable pkg => Sys2Proof.Machine.execFabricUnreachable pkg s
  | .rds src line => Sys2Proof.Machine.execRds src line s
  | .rdown src line wantsData => Sys2Proof.Machine.execRdown src line wantsData s
  | .wr src line bytes mask => Sys2Proof.Machine.execWr src line bytes mask s
  | .evct src line => Sys2Proof.Machine.execEvct src line s
  | .cmpS src line bytes load => Sys2Proof.Machine.execCmpS src line bytes load s
  | .cmpE src line bytes load => Sys2Proof.Machine.execCmpE src line bytes load s
  | .cmp src line load err => Sys2Proof.Machine.execCmp src line load err s
  | .bisnpinv src line load => Sys2Proof.Machine.execBisnpinv src line load s
  | .bisnpshr src line load => Sys2Proof.Machine.execBisnpshr src line load s
  | .birspi src line => Sys2Proof.Machine.execBirspi src line s
  | .birsps src line => Sys2Proof.Machine.execBirsps src line s
  | .biconflict src line => Sys2Proof.Machine.execBiconflict src line s
  | .biconflictack src line => Sys2Proof.Machine.execBiconflictack src line s
  | .bandwidthWindow entry => Sys2Proof.Machine.execBandwidthWindow entry s
  | .hello port prio pkg hops => Sys2Proof.Machine.execHello port prio pkg hops s
  | .helloTimer => Sys2Proof.Machine.execHelloTimer s
  | .candidateTimeout pkg => Sys2Proof.Machine.execCandidateTimeout pkg s
  | .ringmasterTakeover => Sys2Proof.Machine.execRingmasterTakeover s
  | .claim prio pkg => Sys2Proof.Machine.execClaim prio pkg s
  | .query src => Sys2Proof.Machine.execQuery src s
  | .qreply src leases offered => Sys2Proof.Machine.execQreply src leases offered s
  | .offer pkg classes bandwidth => Sys2Proof.Machine.execOffer pkg classes bandwidth s
  | .want src size => Sys2Proof.Machine.execWant src size s
  | .wanted lender => Sys2Proof.Machine.execWanted lender s
  | .axyenRetrain port ok => Sys2Proof.Machine.execAxyenRetrain port ok s
  | .linkFallback port => Sys2Proof.Machine.execLinkFallback port s
  | .foreignFpidDrop port fpid => Sys2Proof.Machine.execForeignFpidDrop port fpid s
  | .configRequest port => Sys2Proof.Machine.execConfigRequest port s
  | .virtioNotify port function => Sys2Proof.Machine.execVirtioNotify port function s
  | .spdmRequest block => Sys2Proof.Machine.execSpdmRequest block s
  | .dcmdHalt value => Sys2Proof.Machine.execDcmdHalt value s
  | .dcmdRelease value => Sys2Proof.Machine.execDcmdRelease value s
  | .dcmdStep value => Sys2Proof.Machine.execDcmdStep value s
  | .trdpWrite value => Sys2Proof.Machine.execTrdpWrite value s
  | .traceRingWrite size value => Sys2Proof.Machine.execTraceRingWrite size value s
  | .tdropClear value => Sys2Proof.Machine.execTdropClear value s
  | .fomarRecord value => Sys2Proof.Machine.execFomarRecord value s
  | .fomarReplay value checkpoint => Sys2Proof.Machine.execFomarReplay value checkpoint s
  | .fomarCheckpoint => Sys2Proof.Machine.execFomarCheckpoint s
  | .mselWrite monitor value => Sys2Proof.Machine.execMselWrite monitor value s
  | .registerWrite reg value => Sys2Proof.Machine.execRegisterWrite reg value s
  | .thermalThrottle cause => Sys2Proof.Machine.execThermalThrottle cause s
  | .throttleStepUp die => Sys2Proof.Machine.execThrottleStepUp die s
  | .overtempReset => Sys2Proof.Machine.execOvertempReset s
  | .packageReset => Sys2Proof.Machine.execPackageReset s
  | .bringupStage good boot => Sys2Proof.Machine.execBringupStage good boot s
  | .linkDown port => Sys2Proof.Machine.execLinkDown port s
  | .linkUp port => Sys2Proof.Machine.execLinkUp port s
  | .fmApiCommand src command => Sys2Proof.Machine.execFmApiCommand src command s
  | .childSum src coll inst len opx sums => Sys2Proof.Machine.execChildSum src coll inst len opx sums s
  | .uncorrectableWord word => Sys2Proof.Machine.execUncorrectableWord word s
  | .hostBarAccess port function offset write => Sys2Proof.Machine.execHostBarAccess port function offset write s

end Sys2Proof.Machine
end

