-- ==== Sys2Proof/Machine/Schedule.lean ====
section
/-! DEFINITION. What happens next: the agenda's head, or with an empty agenda the next event of the agent whose turn it
is (log 4), and the placing of a word where that agent issues next. -/
namespace Sys2Proof.Machine

/-- The event by which the agent whose turn it is goes on, when it stands at no instruction; none where it cannot. -/
def State.defaultEvent (s : State) : Option Instr :=
  match s.issuer? s.turn with
  | none => none
  | some u =>
    if s.mustEnter u.agent && u.path.phase.atBoundary && u.path.exec != 0 then (match u.agent with
      | .steward k => if (s.steward k).start then none else some (.stewardEntry k)
      | _ => none)
    else match u.path.phase with
    | .boundary => match u.agent with
      | .steward k => if (s.steward k).start || s.bringup.stage < 2 then none else some (.clauseBoundary s.turn)
      | _ => if s.stopped s.turn || s.awaitsHelpers u then none else some (.clauseBoundary s.turn)
    | .header => if u.path.hold then none else some (.clauseHeader s.turn)
    | .waiting => if s.waitsHold s.turn u.path.clause.header && !u.path.hold then some (.clauseHeader s.turn) else none
    | .armed =>
      if u.path.hold then none
      else if u.kind = .steward then some (.clauseFetch s.turn false)
      else some (.issueSelection u.core)
    | .selected => some (.clauseFetch s.turn false)
    | .missed => some (.icacheFill s.turn)
    | .issuing => none
    | .stalled why => if s.stallCleared u why && !s.stopped s.turn && !s.awaitsHelpers u then some (.stallClear s.turn) else none
    | .resumable => some (.issueSelection u.core)
    | .held _ _ => none

/-- The word an agent stands at. -/
def Issuer.word (u : Issuer) : DWord := u.path.clause.words.getD u.path.clause.idx 0

/-! ## What else may happen (log 4) -/

/-- An event, as what it does. -/
abbrev Move := State → Host.Outcome State Fault Refusal

/-- The events by which an operation in flight goes on. -/
def Op.events (id : Nat) (o : Op) : List Move :=
  let blocks := ((o.todo.filter fun a => a.tgt.isBlock).map fun a => a.va / 64).eraseDups
  let whole : Move := match o.kind.ctr with
    | .ld => execLoadComplete id
    | .am => execAtomicComplete id
    | _ => execStoreComplete id
  blocks.flatMap (fun b => [execCodecLoad id b, execCodecWriteStep id b]) ++ [whole]

/-- The events by which a command goes on. -/
def Cmd.events (id : Nat) (c : Cmd) : List Move :=
  match c.kind with
  | .svc => []
  | .tile => [execTileTaskStart id, execTileTaskComplete id, execEngineFault id]
  | .copy =>
    -- all that is left at once, or else the next portion that the engine cannot part
    [valueAt c.rec' 0x0C 4, c.grain].flatMap (fun n => [execCopyKindCopy id n, execStridedCopy id n, execGather id n, execPoolFill id n,
      execPoolReduce id (n * opxBytes (bits (c.field 0x0A 2) 0 4)), execLeasePrefetch id n, execLeaseWriteBack id n, execFormatConversion id n]) ++
    [execPoolCompare id, execFabricReduce id, execByteCountPortion id, execCopyComplete id, execEngineFault id]

/-- The events of a core. -/
def Core.events (c : Nat) (k : Core) : List Move :=
  (List.range k.combine.length).map (fun e => execCombineFlush false c e) ++
  k.helpers.keys.map (fun h => execChunkComplete (.helper c h)) ++
  (List.range k.gives.length).map (fun e => execRgiveReturn c e) ++
  [execRclaimGrant c, execRegisterClaimDeadlock c, execPreemptSave c, execIssueSelection c] ++
  k.slots.flatMap (fun g =>
    [execGroupRetire (gidOf c g.1), execWatchdogExpiry (gidOf c g.1)] ++ g.2.paths.keys.map fun i => execPathAged (.path c g.1 i))

/-- The commands of a slot that waits for its answer. -/
def slotEvents (k : Nat) : List Move :=
  [execCmdLaunchRoom k, execCmdLaunch k, execPreempt k, execPreemptResumeOnly k, execPreemptHold k, execEndLaunch k, execFetch k,
    execResume k, execRefer k, execComplete k, execSvcrst k, execCopy k, execRoute k, execColl k, execMode k, execLgrant k, execLrecall k, execUint k]

/-- The events of the launch engine. -/
def State.engineEvents (s : State) : List Move :=
  s.engine.slots.keys.flatMap slotEvents ++
  s.engine.queues.flatMap (fun q => (List.range q.2.length).map fun e => execLaunchPredCheck q.1 e) ++
  s.engine.running.keys.map (fun l => execEndComplete l) ++ [execGroupResume, execPlaceUnit]

/-- The events of leases, collectives and the fabric that a time brings. -/
def State.timedEvents (s : State) : List Move :=
  s.booth.lent.keys.flatMap (fun e => [execGackTimeout e, execLeaseExpiry e, execRecallGraceExpiry e, execBandwidthWindow e]) ++
  s.booth.borrowed.keys.flatMap (fun b => [execRenewDue b, execRenewResend b, execDeadlineExpiry b, execRecallDeadline b, execRequestTimeout b]) ++
  s.booth.dir.flatMap (fun d => d.2.wait.map fun w => execSnoopTimeout d.1 w.1) ++
  s.fabric.instances.flatMap (fun i => [execCollectiveResult i.coll i.inst .here, execCollectiveTimeout i.coll i.inst]) ++
  s.fabric.candidates.keys.map (fun p => execCandidateTimeout p) ++
  (List.range 32).map (fun k => execStewardTimer k) ++
  (List.range 4).map (fun d => execThrottleStepUp d) ++
  [execHelloTimer, execRingmasterTakeover, execFomarCheckpoint]

/-- The first bring-up stage, which waits for nothing from outside (R439). -/
def State.bootEvents (s : State) : List Move := if s.bringup.stage < 2 then [execBringupStage true s.boot] else []

/-- What may happen while the agent whose turn it is cannot go on, what is older first. -/
def State.idleEvents (s : State) : List Move :=
  s.bootEvents ++
  s.ops.flatMap (fun o => o.2.events o.1) ++ s.cmds.flatMap (fun c => c.2.events c.1) ++
  s.cores.flatMap (fun k => k.2.events k.1) ++
  s.clusters.flatMap (fun u => (List.range u.2.length).map fun e => execCombineFlush true u.1 e) ++
  s.engineEvents ++ s.timedEvents

/-- The agents of the machine. -/
def State.agents (s : State) : List Agent :=
  s.stewards.keys.map Agent.steward ++
  s.cores.flatMap fun k =>
    (k.2.slots.flatMap fun g => g.2.paths.keys.map fun i => Agent.path k.1 g.1 i) ++ k.2.helpers.keys.map fun h => Agent.helper k.1 h

/-- The next agent, after the one whose turn it is, that can go on. -/
def State.nextAgent? (s : State) : Option Agent :=
  let all := s.agents
  let n := all.idxOf s.turn + 1
  (all.drop n ++ all.take n).find? fun a =>
    a != s.turn && (({ s with turn := a }.issuing?).isSome || ({ s with turn := a }.defaultEvent).isSome)

/-- Time passes where nothing else can happen: 5 ns (log 5). -/
def State.idleTime (s : State) : State := s.elapse 5

/-! ## Turns -/

/-- The turns of the agenda that are no events. -/
def State.takeTurn (s : State) : Turn → State
  | .agent a => { s with turn := a }
  | .event _ => s
  | .elapse ns => s.elapse ns
  | .evictL1 c n => s.modCore c fun k => { k with l1 := k.l1.eraseIdx n }
  | .evictTlb c n => s.modTlb c fun l => l.eraseIdx n
  | .evictRlc n => (s.booth.rlc[n]?).elim s fun l => s.evict l.entry l.line
  | .pace c n => s.modCore c fun k => { k with pace := Nat.max 1 n }
  | .host image => if s.onFabric then s.hostCommand image else s

/-- A header of one word with every class bit set (R50). -/
def anyHeader : DWord := 0xF87E000000000000

/-- The state in which the agent whose turn it is stands at a word, as if it had just fetched a clause of that word. -/
def State.placeWord (s : State) (w : DWord) : State :=
  { s with agenda := [] }.modPath s.turn fun p =>
    let p := { p with
      clause := { addr := p.pc, header := anyHeader, words := [w], idx := 0 }, dist := 0, pend := [], phase := .issuing }
    { p with pc := p.wordAddr }

end Sys2Proof.Machine
end

