-- ==== Sys2Proof/Machine/Step.lean ====
section
/-! DEFINITION. One step of the machine (log 4). -/
namespace Sys2Proof.Machine

/-- The state after the first of some events that changes the machine. -/
def firstEvent (s : State) : List Move → Option State
  | [] => none
  | m :: rest => match m s with
    | .next t => if t = s then firstEvent s rest else some t
    | _ => firstEvent s rest

/-- One step of the agent whose turn it is: the instruction of the word it stands at, the illegal-instruction trap where
the word is none (R88), or the event by which it goes on; where it cannot go on, another event, another agent's turn, or the
passing of time (log 4). -/
def stepAgent (s : State) : Host.Outcome State Fault Refusal :=
  match s.issuing? with
  | some u =>
    match Sys2Proof.decodeWord u.word with
    | .ok i => exec i s
    | .error _ => .next (s.raiseHere u 0x01)
  | none =>
    match firstEvent s (s.defaultEvent.toList.map exec) with
    | some t => .next t
    | none => match firstEvent s s.idleEvents with
      | some t => .next t
      | none => match s.nextAgent? with
        | some a => .next { s with turn := a }
        | none => .next s.idleTime

/-- One step: the head of the agenda, or with an empty agenda a step of the agent whose turn it is. -/
def step (s : State) : Host.Outcome State Fault Refusal :=
  match s.agenda with
  | [] => stepAgent s
  | .event i :: rest =>
    match encode i with
    | none => exec i { s with agenda := rest }
    | some _ => .next { s with agenda := rest }
  | t :: rest => .next ({ s with agenda := rest }.takeTurn t)

/-- The state in which a word stands where the next step issues (log 1). -/
def State.withFetchWord (s : State) (_nbits w : Nat) : State := s.placeWord (BitVec.ofNat 64 w)

end Sys2Proof.Machine
end

