-- ==== Sys2Proof/Safety.lean ====
section
/-! DEFINITION. What counts as a safe run: no step stops; and, for the statements, when an instruction has
nothing to wait for and what it then enters. -/
namespace Sys2Proof.Safety

open Sys2Proof.Machine

/-- A step that answers a next state. -/
def Goes (s : State) : Prop := ∃ t, step s = .next t

/-- A number of steps, each of which answers a next state, leads to `t`. -/
def Leads (n : Nat) (s t : State) : Prop := Sys2Proof.core.run n s = .next t

end Sys2Proof.Safety

namespace Sys2Proof.Machine

/-- A release of an instruction has nothing to wait for: no error of the group is held, and no operation of the issuing threads is
in flight (R194, R199; log 9). -/
def NothingToRelease (s : State) (u : Issuer) (o : Order) : Prop :=
  o.releases = true → s.deferredOf u.agent = [] ∧ s.releaseIds u = []

/-- The accesses of a global instruction whose every lane passes its checks, at the places given. -/
def accessesAt (s : State) (u : Issuer) (f : FM) (index : Bool) (len : Nat) (data : Nat → Nat × Nat) (place : Nat → Target × CacheMode) :
    List Access :=
  (if f.u then [0] else u.lanes).map fun l =>
    { lane := l, va := s.globalAddr u f index l, len := len, tgt := (place l).1, mode := (place l).2, x := (data l).1, y := (data l).2 }

/-- A record of `size` bytes stands at `v` in an allocation, aligned to its size, with no older access of the group to it in flight
(R225, R236). -/
def RecordStands (s : State) (u : Issuer) (id : Nat) (al : Alloc) (v size : Nat) : Prop :=
  v < 2 ^ 32 ∧ v % size = 0 ∧ v + size ≤ al.size ∧
    (∀ p ∈ s.ops, p.2.owner = s.ownerOf u → p.2.touchesScratch id v size = false) ∧ s.recorded u.ctx = false ∧ s.replayed u.ctx = false

/-- The state with a command entered under a fresh name: its producers are the group's commands that mark its input tags and tiles,
it counts on its counter, its region is committed, and the path goes on; a tile task that has producers waits for its operands from
then on (R40, R176, R226, R238, R239, R432). -/
def enqueued (s : State) (u : Issuer) (c : Cmd) (sc : Fin 16) : State :=
  let bad := ((s.group? u.core u.slot).map fun g =>
    (c.inTags.any fun t => g.tagBad.contains t) || c.tiles.any fun t => g.accBad.contains t).getD false
  let deps := s.producers u.uid c.inTags c.tiles
  let c := { c with
    deps := deps, badDep := bad, mark := s.cyc u.core, spell := if c.kind = .tile && !deps.isEmpty then .operands else .none }
  let t := { s with nextId := s.nextId + 1, cmds := Assoc.set s.cmds s.nextId c }.modGroup u.core u.slot fun g =>
    { g with enqueued := g.enqueued + 1 }
  ((t.enterRing u.agent c.kind.ctr s.nextId).commitRegion u).retire u sc

/-! ## Forms (the model's own) -/

/-- The v registers of a saved group are in order, and the bytes of its allocation in canonical form. -/
def SavedGroup.formed (v : SavedGroup) : Bool := Assoc.sorted v.group.v && v.alloc.all fun a => a.bytes.wf

/-- The forms that the model's tables keep: memory and every allocation are in canonical form, and the tables of clusters, slots, lines and
leases, and the v registers of every group, in the order of their keys; in what is saved and in the checkpoints too. -/
def State.formed (s : State) : Bool :=
  s.mem.wf && Assoc.sorted s.clusters && Assoc.sorted s.engine.slots && Assoc.sorted s.booth.dir && Assoc.sorted s.booth.lent &&
  Assoc.sorted s.booth.borrowed &&
  (s.cores.all fun k => (k.2.slots.all fun g => Assoc.sorted g.2.v) && k.2.allocs.all fun a => a.2.bytes.wf) &&
  (s.engine.saved.all fun v => v.2.formed) && s.fomar.cks.all fun c => c.groups.all fun v => v.2.formed

end Sys2Proof.Machine
end

