-- ==== Sys2Proof/Certificates/Slice0/Obligations.lean ====
section
/-! DEFINITION. The statements about the model, one `Obligations.<Name>` each. A statement that says what an instruction does
asks that the instruction be ready: that every check of R66, R70 and R194 passes for its issuer (`State.ready?`; the statement
`ReadyMeansEveryCheckPasses` says what that is). An event has no word; the statement of its family says when it happens. -/

open Sys2Proof Sys2Proof.Machine

/-! ## The machine: reset, decoding, one step -/

/-- R439, R265, R273, R414: after package reset every steward is at supervisor level with SSTAT at its reset value (PL = 1, the
rest 0) and SIE = 0; stewards 1 to 31 are in the start wait and steward 0 is not; SSTART, NSC and every cyc are 0. That no group,
launch or lease exists is the model's reading of a reset (log 2), and that the tables have their forms (`State.formed`) is the model's own.
Of the model's own choices it uses those of log 2. -/
def Obligations.ResetLeavesOneStewardRunning : Prop :=
  (∀ k < 32, (State.reset.steward k).start = (k != 0) ∧ (State.reset.steward k).sup = true ∧
    (State.reset.steward k).sstat = 2 ∧ (State.reset.steward k).sie = 0) ∧
  State.reset.sstart = 0 ∧ State.reset.clocks.nsc = 0 ∧ (∀ core, State.reset.cyc core = 0) ∧
  State.reset.cores = [] ∧ State.reset.engine.running = [] ∧ State.reset.booth.lent = [] ∧ State.reset.booth.borrowed = [] ∧
  State.reset.formed = true

/-- Words written out from the spec's encodings (the worked examples of the integer chapter, and R60 to R63 with the opcode
map) decode to the instructions they stand for, with every field. -/
def Obligations.SpecWordsDecode : Prop :=
  decodeWord 0x0000040102FF0100 = .ok (.add
    { u := false, sc := 0, d := .v 4, a := .v 1, b := .v 2, c := .none, ty := .s32, rm := .fmt, s := true, x := 0 }) ∧
  decodeWord 0x0007141406FF0003 = .ok (.lea
    { u := false, sc := 0, d := .v 20, a := .v 20, b := .v 6, c := .none, ty := .s32, rm := .fmt, s := false, x := 3 }) ∧
  decodeWord 0x0402C40102FF0000 = .ok (.cmpLt
    { u := false, sc := 0, d := .g 4, a := .v 1, b := .v 2, c := .none, ty := .s32, rm := .fmt, s := false, x := 0 }) ∧
  decodeWord 0x0304070809FF0000 = .ok (.bfx
    { u := false, sc := 0, d := .v 7, a := .v 8, b := .v 9, c := .none, ty := .s32, rm := .fmt, s := false, x := 0 }) ∧
  decodeWord 0x0080C9C1C2FF0000 = .ok (.add
    { u := true, sc := 0, d := .g 9, a := .g 1, b := .g 2, c := .none, ty := .s32, rm := .fmt, s := false, x := 0 }) ∧
  decodeWord 0x08000303FFFFFFFF = .ok (.addImm { u := false, sc := 0, d := .v 3, a := .v 3, imm := 0xFFFFFFFF }) ∧
  decodeWord 0xA0000000FFFFFFFF = .error .unused ∧ decodeWord 0xF8000000FFFFFFFF = .error .clauseHeader ∧
  decodeWord 0x0700000000000000 = .error .opcode

/-- Every instruction that has a word and is well formed is read back from its word, with every operand at every value its
fields admit: no bit of an encoding is dropped. -/
def Obligations.DecodeReadsEncodeBack : Prop :=
  ∀ (i : Instr) (w : DWord), i.illFormed = none → encode i = some w → decodeWord w = .ok i

/-- Every word that decodes is the word of the instruction it decodes to, which is well formed: two words never mean the same
instruction, and no bit of a word is ignored. -/
def Obligations.AcceptedWordsAreEncodings : Prop :=
  ∀ (w : DWord) (i : Instr), decodeWord w = .ok i → i.illFormed = none ∧ encode i = some w

/-- With no turn or event due on the agenda (log 4), a step at a word that decodes is `exec` of the instruction it decodes to;
and at a word that the opcode map does not hold it is the illegal-instruction trap at the word's own address (R88). An event at the agenda's head is carried out on the state without it; an agent there gets the turn (log 4). -/
def Obligations.StepRunsTheDecodedInstruction : Prop :=
  (∀ (s : State) (u : Issuer), s.agenda = [] → s.issuing? = some u →
    (∀ i, decodeWord u.word = .ok i → step s = exec i s) ∧
    (∀ e, decodeWord u.word = .error e → step s = .next (s.raise u
      { cause := 0x01, faddr := u.path.wordAddr.setWidth 64, pc := u.path.wordAddr }))) ∧
  (∀ (s : State) (rest : List Turn),
    (∀ i, s.agenda = .event i :: rest → encode i = none → step s = exec i { s with agenda := rest }) ∧
    (∀ a, s.agenda = .agent a :: rest → step s = .next { s with agenda := rest, turn := a }))

/-! ## The checks before an instruction takes effect -/

/-- R66, R70, R194: an instruction is ready exactly where an issuer stands at it; its fields are well formed, its class bit is
set in the clause header, it is last in its clause if it ends one, and its issuer may run it; every operand names registers its
position takes; with SBCHK = 1 no register it touches has a write that is not yet visible; no operation in flight will write a
register it touches; and poisoned lanes of such a register wait only where the instruction raises a deferred fault that arose before
them (R397), which its own effect then does. -/
def Obligations.ReadyMeansEveryCheckPasses : Prop :=
  ∀ (s : State) (i : Instr) (req : Issuer → Req) (u : Issuer),
    s.ready? i req = some u ↔
      s.issuing? = some u ∧
      (i.illFormed = none ∧ u.path.clause.header.getLsbD (req u).cls = true ∧
        ((req u).ends = true → u.path.clause.idx + 1 = u.path.clause.words.length) ∧ (req u).may = true) ∧
      ((∀ x ∈ (req u).uses, x.ok u (req u).uni = true) ∧ (req u).valid = true) ∧
      (u.path.view.cmode.getLsbD 0 = true → ∀ r ∈ (req u).regs u, u.path.early r = false) ∧
      (∀ r ∈ (req u).regs u, s.interlocked u r = false) ∧
      (∀ x l, u.poisoned (some ((req u).regs u)) = x :: l →
        ∃ f ∈ s.deferredOf u.agent, f.raisedAt (req u).defers = true ∧ f.arose < x.2.arose)

/-- R66: the first check that fails decides the cause: fields, class bit, place in the clause or right to issue give 0x01; operands
give 0x02; a stall distance that is too short under SBCHK = 1 gives 0x03. The fault address is the word's (R88), and the
instruction's own effect does not happen. -/
def Obligations.FirstFailedCheckDecidesTheCause : Prop :=
  ∀ (s : State) (i : Instr) (req : Issuer → Req) (body : Issuer → State) (u : Issuer), s.issuing? = some u →
    let trap := fun c : Byte => Host.Outcome.next (φ := Fault) (ρ := Refusal)
      (s.raise u { cause := c, faddr := u.path.wordAddr.setWidth 64, pc := u.path.wordAddr })
    let fields := i.illFormed = none ∧ u.path.clause.header.getLsbD (req u).cls = true ∧
      ((req u).ends = true → u.path.clause.idx + 1 = u.path.clause.words.length) ∧ (req u).may = true
    let operands := (∀ x ∈ (req u).uses, x.ok u (req u).uni = true) ∧ (req u).valid = true
    (¬fields → issue s i req body = trap 0x01) ∧
    (fields → ¬operands → issue s i req body = trap 0x02) ∧
    (fields → operands → u.path.view.cmode.getLsbD 0 = true → (∃ r ∈ (req u).regs u, u.path.early r = true) →
      issue s i req body = trap 0x03)

/-- R70, R379: an instruction whose other checks pass and that touches a register which an operation in flight will write stalls, and
has no effect: only the phase of its path changes, and where a pre-emption of its group is under way that is its halt, at which the
writes of its path become visible (R51, R382). A path or helper of a killed group is removed instead (R296), and a path that the
watchdog waits for takes it there (R388). -/
def Obligations.InterlockedInstructionStalls : Prop :=
  ∀ (s : State) (i : Instr) (req : Issuer → Req) (body : Issuer → State) (u : Issuer), s.issuing? = some u →
    s.gate u i (req u) = .wait →
    (u.kind ≠ .steward → ∀ g, s.group? u.core u.slot = some g → g.killed = false) → u.path.bite = false →
    let t := s.modPath u.agent fun p => { p with phase := .stalled (.interlock ((req u).regs u)) }
    issue s i req body = .next (if s.stopped u.agent then t.leaveClause u.agent else t)

/-! ## Integer, bit and address instructions -/

/-- R120, R122 (add, sub, min, max, mul, mulhi; abs and neg; mad): for every lane the result is the exact value of the operation
on the sources under TY, clamped where S = 1 and kept to the width where S = 0, with the latency of R67; uniform forms do so once.
The instruction then stands at the next word, or its clause ends. -/
def Obligations.IntegerArithmeticGivesExactResults : Prop :=
  ∀ (s : State) (f : F3) (u : Issuer),
    let w := isWide f.ty
    let x := fun (o : Opnd) t => intValue f.ty (s.src u w o t)
    let gives := fun (lat : Nat) (r : Nat → Int) =>
      Host.Outcome.next (φ := Fault) (ρ := Refusal) (s.result u f.u f.d w lat f.sc fun t => intResult f.ty f.s (r t))
    (∀ p ∈ [(Instr.add, (aluLat w, fun a b : Int => a + b)), (.sub, (aluLat w, fun a b => a - b)),
        (.min, (aluLat w, fun a b => min a b)), (.max, (aluLat w, fun a b => max a b)), (.mul, (4, fun a b => a * b)),
        (.mulhi, (4, fun a b => (a * b) / (2 ^ typeWidth f.ty : Nat)))],
      s.ready? (p.1 f) (fun _ => alu2 f) = some u → exec (p.1 f) s = gives p.2.1 fun t => p.2.2 (x f.a t) (x f.b t)) ∧
    (s.ready? (.abs f) (fun _ => req1 Cls.alu f w w) = some u → exec (.abs f) s = gives (aluLat w) fun t => (x f.a t).natAbs) ∧
    (s.ready? (.neg f) (fun _ => req1 Cls.alu f w w) = some u → exec (.neg f) s = gives (aluLat w) fun t => -x f.a t) ∧
    (s.ready? (.mad f) (fun _ => req3 Cls.alu f w w w w) = some u →
      exec (.mad f) s = gives 4 fun t => x f.a t * x f.b t + x f.c t)

/-- R121, R123, R127, R128, R131 (sel, dp4, lea, add64, sub64, cvt): `sel` gives A where its mask bit, or its uniform condition,
is set and B elsewhere; `dp4` adds the four products of bytes to C; `lea` is A + B·2^sh; `add64` and `sub64` take the addend
their type names; `cvt` gives the value under the source type, kept or clamped to the destination type. R124, R141 (cmp.eq to cmp.ge, fcmp.eq to fcmp.ord): a per-thread compare writes a mask whose bit t is the condition for every
thread t of exec and 0 for every other; a uniform one writes 1 or 0. Integers compare as exact values under TY, floating-point
numbers as the values their format holds. -/
def Obligations.SelectsConversionsAndComparesGiveResults : Prop :=
  (∀ (s : State) (f : F3) (u : Issuer),
    let w := isWide f.ty
    let st := DType.ofCode f.x.toNat
    let t32 : DType := if isSigned f.ty then .s32 else .n32
    let gives := fun (wide : Bool) (lat : Nat) (r : Nat → DWord) =>
      Host.Outcome.next (φ := Fault) (ρ := Refusal) (s.result u f.u f.d wide lat f.sc r)
    (s.ready? (.sel f) (fun _ => { cls := Cls.alu, uni := f.u
                                   uses := [dstUse f.u w f.d, srcUse w f.a, srcUse w f.b,
                                     { o := f.c, role := if f.u then .greg else .mask }] }) = some u →
      exec (.sel f) s = gives w (aluLat w) fun t =>
        let c := if f.u then s.read64 u f.c 0 != 0 else (s.readMask u f.c).getLsbD t
        intResult f.ty false (intValue f.ty (if c then s.src u w f.a t else s.src u w f.b t))) ∧
    (s.ready? (.dp4 f) (fun _ => req3 Cls.alu f false false false false) = some u →
      exec (.dp4 f) s = gives false 4 fun t =>
        let byte := fun (x : Word) i => wrapInt 8 (isSigned f.ty) (bits x.toNat (8 * i) 8)
        let p := fun i => byte (s.read32 u f.a t) i * byte (s.read32 u f.b t) i
        intResult t32 f.s (intValue t32 (s.src u false f.c t) + p 0 + p 1 + p 2 + p 3)) ∧
    (s.ready? (.lea f) (fun _ => req2 Cls.alu f true true w) = some u →
      exec (.lea f) s = gives true 4 fun t =>
        BitVec.ofInt 64 ((s.read64 u f.a t).toNat + intValue f.ty (s.src u w f.b t) * (2 ^ f.x.toNat : Nat))) ∧
    (∀ p ∈ [(Instr.add64, fun a b : Int => a + b), (.sub64, fun a b => a - b)],
      s.ready? (p.1 f) (fun _ => req2 Cls.alu f true true (f.ty == .b64)) = some u →
        exec (p.1 f) s = gives true 4 fun t =>
          intResult f.ty f.s (p.2 (intValue f.ty (s.read64 u f.a t))
            (match f.ty with
             | .s64 => (s.read32 u f.b t).toInt
             | .n64 => (s.read32 u f.b t).toNat
             | _ => (s.read64 u f.b t).toNat))) ∧
    (s.ready? (.cvt f) (fun _ => req1 Cls.alu f w (isWide st)) = some u →
      exec (.cvt f) s = gives w (aluLat (w || isWide st)) fun t =>
        intResult f.ty f.s (intValue st (s.src u (isWide st) f.a t)))) ∧
  (∀ (s : State) (f : F3) (u : Issuer),
    let w := isWide f.ty
    let x := fun (o : Opnd) t => intValue f.ty (s.src u w o t)
    let y := fun (o : Opnd) t => (ffmt f.ty).decode u.ftz (s.src u w o t).toNat
    let gives := fun (lat : Nat) (p : Nat → Bool) => Host.Outcome.next (φ := Fault) (ρ := Refusal)
      ((s.pushWrites u (if f.u then resultWrites f.d false [(0, if p 0 then 1 else 0)]
          else maskWrites u f.d (maskOf (u.lanes.filter p))) lat).retire u f.sc)
    (∀ p ∈ [(Instr.cmpEq, fun a b : Int => a == b), (.cmpNe, fun a b => a != b), (.cmpLt, fun a b => decide (a < b)),
        (.cmpLe, fun a b => decide (a ≤ b)), (.cmpGt, fun a b => decide (b < a)), (.cmpGe, fun a b => decide (b ≤ a))],
      s.ready? (p.1 f) (fun _ => cmpReq Cls.alu f) = some u →
        exec (p.1 f) s = gives (aluLat w) fun t => p.2 (x f.a t) (x f.b t)) ∧
    (∀ p ∈ [(Instr.fcmpEq, FCond.eq), (.fcmpNe, .ne), (.fcmpLt, .lt), (.fcmpLe, .le), (.fcmpGt, .gt), (.fcmpGe, .ge),
        (.fcmpUn, .un), (.fcmpOrd, .ord)],
      s.ready? (p.1 f) (fun _ => fcmpReq f) = some u →
        exec (p.1 f) s = gives (fpLat w) fun t => p.2.holds (y f.a t) (y f.b t)))

/-- R125, R126 (and, or, xor, andn, not, popc, clz, ctz, shl, shr, sar, rot, bfx, bfi, brev): the results of the bit
instructions. The shift amount and the field are read from one 32-bit register whatever the width. -/
def Obligations.BitInstructionsGiveResults : Prop :=
  ∀ (s : State) (f : F3) (u : Issuer),
    let w := isWide f.ty
    let n := typeWidth f.ty
    let gives := fun (r : Nat → DWord) =>
      Host.Outcome.next (φ := Fault) (ρ := Refusal) (s.result u f.u f.d w (aluLat w) f.sc r)
    (∀ p ∈ [(Instr.and, fun a b : DWord => a &&& b), (.or, fun a b => a ||| b), (.xor, fun a b => a ^^^ b),
        (.andn, fun a b => a &&& ~~~b)],
      s.ready? (p.1 f) (fun _ => alu2 f) = some u →
        exec (p.1 f) s = gives fun t => p.2 (s.src u w f.a t) (s.src u w f.b t)) ∧
    (s.ready? (.not f) (fun _ => req1 Cls.alu f w w) = some u →
      exec (.not f) s = gives fun t => intResult f.ty false (~~~(s.src u w f.a t)).toNat) ∧
    (∀ p ∈ [(Instr.popc, popCount), (.clz, leadingZeros), (.ctz, trailingZeros)],
      s.ready? (p.1 f) (fun _ => req1 Cls.alu f false w) = some u →
        exec (p.1 f) s = .next (s.result u f.u f.d false (aluLat w) f.sc fun t => BitVec.ofNat 64 (p.2 n (s.src u w f.a t)))) ∧
    (∀ p ∈ [(Instr.shl, fun a k : Nat => if n ≤ k then 0 else a * 2 ^ k % 2 ^ n), (.shr, fun a k => if n ≤ k then 0 else a / 2 ^ k),
        (.sar, shiftArith n), (.rot, fun a k => a * 2 ^ (k % n) % 2 ^ n + a / 2 ^ (n - k % n))],
      s.ready? (p.1 f) (fun _ => shiftReq f) = some u →
        exec (p.1 f) s = gives fun t => intResult f.ty false (p.2 (s.src u w f.a t).toNat (s.read32 u f.b t).toNat)) ∧
    (s.ready? (.bfx f) (fun _ => shiftReq f) = some u →
      exec (.bfx f) s = gives fun t =>
        intResult f.ty false (extractField n (isSigned f.ty) (s.src u w f.a t).toNat (s.read32 u f.b t).toNat)) ∧
    (s.ready? (.bfi f) (fun _ => req3 Cls.alu f w w w false) = some u →
      exec (.bfi f) s = gives fun t =>
        intResult f.ty false (insertField n (s.src u w f.a t).toNat (s.src u w f.b t).toNat (s.read32 u f.c t).toNat)) ∧
    (s.ready? (.brev f) (fun _ => req1 Cls.alu f w w) = some u →
      exec (.brev f) s = gives fun t => intResult f.ty false (reverseBits n (s.src u w f.a t).toNat))

/-- R129, R130 (the immediate forms of opcodes 0x08 and 0x09): each has the effect of its counterpart at width 32 with
b := IMM32, or at width 64 with b := IMM32 sign-extended; a shift by 32 or more is as Table 4 gives it. -/
def Obligations.ImmediateFormsGiveResults : Prop :=
  ∀ (s : State) (f : FI) (u : Issuer),
    (∀ p ∈ [(Instr.addImm, (2, fun a b : Nat => a + b)), (.andImm, (2, fun a b => a &&& b)), (.orImm, (2, fun a b => a ||| b)),
        (.xorImm, (2, fun a b => a ^^^ b)), (.shlImm, (2, fun a b => if 32 ≤ b then 0 else a * 2 ^ b)),
        (.shrImm, (2, fun a b => if 32 ≤ b then 0 else a / 2 ^ b)), (.sarImm, (2, shiftArith 32)), (.mulImm, (4, fun a b => a * b))],
      s.ready? (p.1 f) (fun _ => immReq Cls.alu f false) = some u →
        exec (p.1 f) s = .next (s.result u f.u f.d false p.2.1 f.sc fun t =>
          BitVec.ofNat 64 (p.2.2 (s.read32 u f.a t).toNat f.imm.toNat % 2 ^ 32))) ∧
    (∀ p ∈ [(Instr.add64Imm, fun a b : DWord => a + b), (.and64Imm, fun a b => a &&& b), (.or64Imm, fun a b => a ||| b),
        (.xor64Imm, fun a b => a ^^^ b)],
      s.ready? (p.1 f) (fun _ => immReq Cls.alu f true) = some u →
        exec (p.1 f) s = .next (s.result u f.u f.d true 4 f.sc fun t => p.2 (s.read64 u f.a t) (f.imm.signExtend 64)))

/-! ## Floating point, transcendentals, block formats and fmt -/

/-- R137 to R140 (fadd, fsub, fmul, fma, fmin, fmax, fabs, fneg, and the immediate forms of opcode 0x38): each source is decoded under
the flush mode, the exact result is rounded once in the mode that RM or fmt's RND names, saturated where S or fmt's SAT says so
and flushed; both halves of .f16x2 are computed alike; `fabs` and `fneg` change the sign bit only. -/
def Obligations.FloatArithmeticGivesRoundedResults : Prop :=
  ∀ (s : State) (f : F3) (j : FI) (u : Issuer),
    let w := isWide f.ty
    let x := fun (o : Opnd) t => (s.src u w o t).toNat
    let gives := fun (r : Nat → DWord) => Host.Outcome.next (φ := Fault) (ρ := Refusal) (s.result u f.u f.d w (fpLat w) f.sc r)
    let e := u.fenv f.rm f.s
    (∀ p ∈ [(Instr.fadd, fun (k : FFmt) (a b : Nat) => k.encode e (FVal.add e.mode (k.decode e.ftz a) (k.decode e.ftz b))),
        (.fsub, fun k a b => k.encode e (FVal.add e.mode (k.decode e.ftz a) (k.decode e.ftz b).negate)),
        (.fmul, fun k a b => k.encode e (FVal.mul (k.decode e.ftz a) (k.decode e.ftz b))),
        (.fmin, fun k a b => k.minMax false u.ftz a b), (.fmax, fun k a b => k.minMax true u.ftz a b)],
      s.ready? (p.1 f) (fun _ => fp2 f) = some u → exec (p.1 f) s = gives fun t => onHalves2 f.ty p.2 (x f.a t) (x f.b t)) ∧
    (s.ready? (.fma f) (fun _ => fp3 f) = some u →
      exec (.fma f) s = gives fun t => onHalves3 f.ty (fMulAdd e) (x f.a t) (x f.b t) (x f.c t)) ∧
    (∀ p ∈ [(Instr.fabs, fun (k : FFmt) (a : Nat) => bits a 0 (k.width - 1)),
        (.fneg, fun k a => (if bits a (k.width - 1) 1 = 0 then 2 ^ (k.width - 1) else 0) + bits a 0 (k.width - 1))],
      s.ready? (p.1 f) (fun _ => fp1 f w) = some u → exec (p.1 f) s = gives fun t => onHalves1 f.ty p.2 (x f.a t)) ∧
    (∀ p ∈ [(Instr.faddF32Imm, (false, fAdd)), (.fmulF32Imm, (false, fMul)), (.faddF64Imm, (true, fAdd)), (.fmulF64Imm, (true, fMul))],
      s.ready? (p.1 j) (fun _ => fpImm j p.2.1) = some u →
        exec (p.1 j) s = .next (s.result u j.u j.d p.2.1 (if p.2.1 then 6 else 4) j.sc fun t =>
          BitVec.ofNat 64 (p.2.2 (u.fenv .fmt false) (if p.2.1 then fp64 else fp32) (s.src u p.2.1 j.a t).toNat
            (if p.2.1 then j.imm.toNat * 2 ^ 32 else j.imm.toNat))))

/-- R149 (frcp, frsq, fsqrt, fexp2, flog2, fsin, fcos): each result has latency 8 and is the function of the decoded source,
rounded once, in the RM mode for `frcp` and `fsqrt` and to nearest even, whatever RM and fmt hold, for the others (log 11). R142 to R148 (fclass, frnd, fcvt, f2i, i2f, fldexp, ffrexp, ffrexp.exp): classes, rounding to an integral value, conversions
and the splitting of a value. -/
def Obligations.TranscendentalsAndConversionsGiveResults : Prop :=
  (∀ (s : State) (f : F3) (u : Issuer),
    let k := ffmt f.ty
    let e := u.fenv f.rm f.s
    let n : FEnv := { u.fenv .rne f.s with mode := .rne }
    ∀ p ∈ [(Instr.frcp, fun x : FVal => k.encode e x.recip), (.frsq, fun x => k.encode n x.rsqrt), (.fsqrt, fun x => k.encode e x.sqrt),
        (.fexp2, k.exp2 n), (.flog2, k.log2 n), (.fsin, k.trig n false), (.fcos, k.trig n true)],
      s.ready? (p.1 f) (fun _ => sfuReq f) = some u →
        exec (p.1 f) s = .next (s.result u f.u f.d (isWide f.ty) 8 f.sc fun t =>
          BitVec.ofNat 64 (p.2 (k.decode u.ftz (s.src u (isWide f.ty) f.a t).toNat)))) ∧
  (∀ (s : State) (f : F3) (u : Issuer),
    let w := isWide f.ty
    let k := ffmt f.ty
    let st := typeOfCode f.x.toNat
    let v := isWide st
    let e := u.fenv f.rm f.s
    let gives := fun (wide : Bool) (lat : Nat) (r : Nat → DWord) =>
      Host.Outcome.next (φ := Fault) (ρ := Refusal) (s.result u f.u f.d wide lat f.sc r)
    (s.ready? (.fclass f) (fun _ => fp1 f false) = some u →
      exec (.fclass f) s = gives false (fpLat w) fun t => BitVec.ofNat 64 (k.classify (s.src u w f.a t).toNat)) ∧
    (s.ready? (.frnd f) (fun _ => fp1 f w) = some u →
      exec (.frnd f) s = gives w (fpLat w) fun t => onHalves1 f.ty (fun k a =>
        k.encode { mode := u.mode f.rm, ftz := u.ftz } ((k.decode u.ftz a).roundIntegral (u.mode f.rm))) (s.src u w f.a t).toNat) ∧
    (s.ready? (.fcvt f) (fun _ => { req1 Cls.fp f w v with fmt := true }) = some u →
      exec (.fcvt f) s = gives w (fpLat (w || v)) fun t =>
        BitVec.ofNat 64 (k.encode e ((ffmt st).decode u.ftz (s.src u v f.a t).toNat))) ∧
    (s.ready? (.f2i f) (fun _ => { req1 Cls.fp f w v with fmt := true }) = some u →
      exec (.f2i f) s = gives w (fpLat (w || v)) fun t =>
        BitVec.ofInt 64 (((ffmt st).decode u.ftz (s.src u v f.a t).toNat).toInteger (u.mode f.rm) (typeWidth f.ty) (isSigned f.ty))) ∧
    (s.ready? (.i2f f) (fun _ => { req1 Cls.fp f w v with fmt := true }) = some u →
      exec (.i2f f) s = gives w (fpLat (w || v)) fun t =>
        BitVec.ofNat 64 (k.encode e (.ofInt (intValue st (s.src u v f.a t))))) ∧
    (s.ready? (.fldexp f) (fun _ => { req2 Cls.fp f w w false with fmt := true }) = some u →
      exec (.fldexp f) s = gives w (fpLat w) fun t => onHalves1 f.ty
        (fun k a => k.encode e ((k.decode u.ftz a).scale (s.read32 u f.b t).toInt)) (s.src u w f.a t).toNat) ∧
    (s.ready? (.ffrexp f) (fun _ => fp1 f w) = some u →
      exec (.ffrexp f) s = gives w (fpLat w) fun t => onHalves1 f.ty
        (fun k a => k.encode { ftz := u.ftz } (k.decode u.ftz a).significand) (s.src u w f.a t).toNat) ∧
    (s.ready? (.ffrexpExp f) (fun _ => fp1 f false) = some u →
      exec (.ffrexpExp f) s = gives false (fpLat w) fun t =>
        BitVec.ofInt 64 (k.decode u.ftz (s.src u w f.a t).toNat).exponent))

/-- R106, R107, R151 to R155 (bfpk, bfpk.pk, bfup, bfq): packing lanes into blocks, the packed words of a block, unpacking (where no lane
holds the reserved exponent 255), quantising. R104, R156 (fmtset): it writes the masked fmt with its reserved bits zero, where the result holds
the reserved operand width 0x7 in neither WA nor WB. R157 (fmtget): it writes fmt to a g register of any index, with latency 4; a v destination
raises illegal operand, where the fields of the word pass their checks; its word is opcode 0x34, SUB 4, TY 0x9 with A, B and C all ones. -/
def Obligations.BlockAndFmtInstructionsGiveResults : Prop :=
  ∀ (s : State) (f : F3) (u : Issuer),
    let bs := s.blocksOf u f
    let n := blockWidth f.x
    let k := blockFmt f.x
    let e := u.fenv f.rm f.s
    let gives := fun (r : Nat → DWord) => Host.Outcome.next (φ := Fault) (ρ := Refusal) (s.result u f.u f.d false 4 f.sc r)
    (s.ready? (.bfpk f) (fun _ => blockReq f) = some u →
      exec (.bfpk f) s = gives fun t => BitVec.ofNat 64 ((blockLane bs t).1 * 256 + ((blockLane bs t).2 % 256).toNat)) ∧
    (s.ready? (.bfpkPk f) (fun _ => blockReq f) = some u →
      exec (.bfpkPk f) s = gives fun t => match bs[t / 32]? with
        | none => 0
        | some b =>
          if t % 32 < n then BitVec.ofNat 64 (bits (mantBits n b.mant) (32 * (t % 32)) 32)
          else if t % 32 = 31 then BitVec.ofNat 64 b.ex else 0) ∧
    (s.ready? (.bfup f) (fun _ => blockReq f) = some u →
      (∀ t ∈ (if f.u then [0] else u.lanes), bits (s.read32 u f.a t).toNat 8 8 ≠ 255) →
      exec (.bfup f) s = gives fun t =>
        BitVec.ofNat 64 (k.encode e (elementValue n (bits (s.read32 u f.a t).toNat 8 8)
          (wrapInt n true (bits (s.read32 u f.a t).toNat 0 n))))) ∧
    (s.ready? (.bfq f) (fun _ => blockReq f) = some u →
      exec (.bfq f) s = gives fun t =>
        BitVec.ofNat 64 (if (blockLane bs t).1 = 255 then k.encode {} .qnan
          else k.encode e (elementValue n (blockLane bs t).1 (blockLane bs t).2))) ∧
    (let x := fmtNew u.fmt (s.read64 u f.a 0) (s.read64 u f.b 0) (f.b != Opnd.none)
     s.ready? (.fmtset f) (fun _ => { cls := Cls.fp, uni := f.u, fmt := true
                                      uses := [{ o := f.a, role := .greg }, { o := f.b, role := .greg }] }) = some u →
      fmtBad x = false → exec (.fmtset f) s = .next ((s.pushWrites u [(.fmt, [(0, x)])] 4).retire u f.sc)) ∧
    (s.ready? (.fmtget f) (fun _ => { cls := Cls.fp, uni := f.u, uses := [{ o := f.d, role := .greg, write := true }], fmt := true }) =
        some u →
      exec (.fmtget f) s = .next ((s.pushWrites u (resultWrites f.d false [(0, u.fmt)]) 4).retire u f.sc) ∧
      ∀ n, f.d = .g n → exec (.fmtget f) s = .next ((s.pushWrites u [(.g n.val, [(0, u.fmt)])] 4).retire u f.sc)) ∧
    (∀ n : Fin 64, decodeWord (0x3404C0FFFFFF9000#64 + (BitVec.ofNat 64 n.val <<< 40)) = .ok (.fmtget
      { u := false, sc := 0, d := .g n, a := .none, b := .none, c := .none, ty := .b64, rm := .fmt, s := false, x := 0 })) ∧
    (∀ n, s.issuing? = some u → (Instr.fmtget f).illFormed = none → u.path.clause.header.getLsbD Cls.fp = true → f.d = .v n →
      exec (.fmtget f) s = .next (s.raise u { cause := 0x02, faddr := u.path.wordAddr.setWidth 64, pc := u.path.wordAddr }))
/-! ## Memory: issuing an access -/

/-- R64, R190 to R193, R195, R200, R202 (ld.g, st.g, every global atomic and every reduction): where the counter is below 1,023, a
release has nothing to wait for and every lane's address is aligned, mapped, permitted and leased, the instruction enters one
operation with one access for each lane of exec (one in all where U = 1), takes the translations into the TLB, counts it on its
counter, and the path goes on; an atomic with return commits its region (R176). Nothing is read from or written to memory yet.
Of the model's own choices it uses those of log 9. -/
def Obligations.GlobalAccessesEnterOneOperation : Prop :=
  ∀ (s : State) (f : FM) (u : Issuer) (place : Nat → Target × CacheMode),
    let completes := fun (i : Instr) (req : Issuer → Req) (kind : OpKind) (ask : Ask) (index : Bool) (dst : Option Reg)
        (commits : Bool) (data : Nat → Nat × Nat) =>
      s.ready? i req = some u → (s.rings u.agent).count kind.ctr < 1023 → NothingToRelease s u f.ord →
      (∀ l ∈ (if f.u then [0] else u.lanes), s.target u ask (s.globalAddr u f index l) (data l).1 = .ok (place l)) →
      exec i s = .next (
        let as := accessesAt s u f index ask.len data place
        let t := as.foldl (fun s a => s.cacheTarget u a ask.need) s
        ((if commits then t.commitRegion u else t).startOp u f kind dst as as []).retire u f.sc)
    completes (.ldG f) (fun _ => { memReq f.u (globalUses f ++ [{ o := f.d, role := dataRole f.sz, write := true }]) with
        valid := f.u || Opnd.isV f.d }) .load (askOf f false) true (some (Opnd.reg f.d)) false (fun _ => (0, 0)) ∧
    completes (.stG f) (fun _ => { memReq f.u (globalUses f ++ [{ o := f.d, role := dataRole f.sz }]) with defers := orderDefers f.ord })
        .store (askOf f true) true none false (fun l => (s.readBytes u f.d l f.sz.bytes, 0)) ∧
    (∀ p ∈ [(Instr.atomAdd, AtomOp.add), (.atomMinN, .minN), (.atomMaxN, .maxN), (.atomMinS, .minS), (.atomMaxS, .maxS),
        (.atomAnd, .and), (.atomOr, .or), (.atomXor, .xor), (.atomExch, .exch), (.atomCas, .cas), (.atomAddF, .addF),
        (.atomMinF, .minF), (.atomMaxF, .maxF)],
      completes (p.1 f) (fun _ => f.atomReq p.2 .w64) (.atom p.2 (!f.noReturn)) (atomAsk f p.2) (!f.noReturn) f.atomDst (!f.noReturn)
        (s.atomValues u f p.2)) ∧
    (∀ p ∈ [(Instr.redAdd, AtomOp.add), (.redMinN, .minN), (.redMaxN, .maxN), (.redMinS, .minS), (.redMaxS, .maxS), (.redAnd, .and),
        (.redOr, .or), (.redXor, .xor), (.redAddF, .addF), (.redMinF, .minF), (.redMaxF, .maxF)],
      completes (p.1 f) (fun _ => redReq f) (.red p.2) (redAsk f p.2) true none false
        (fun l => (s.readBytes u f.d l f.sz.bytes, 0)))

/-- R30, R33 to R35, R64, R195, R206 (ld.l, st.l, every local atomic): where the counter is below 1,023, a release has nothing to
wait for, every lane's address lies aligned in a region that permits the access, and no operation in flight or poisoned lane
stands at a register that a frame access names, the instruction enters one operation, with the scratchpad accesses still to
perform; a load from a frame has its values at once, a store to one is made at once; the operation is counted and the path goes
on.
Of the model's own choices it uses those of log 9, 23. -/
def Obligations.LocalAccessesEnterOneOperation : Prop :=
  ∀ (s : State) (f : FM) (u : Issuer) (place : Nat → LocalPlace),
    let len := f.sz.bytes
    let lanes := if f.u then [0] else u.lanes
    let completes := fun (i : Instr) (req : Issuer → Req) (kind : OpKind) (need : Need) (index : Bool) (dst : Option Reg)
        (commits : Bool) (data : Nat → Nat × Nat) =>
      s.ready? i req = some u → (s.rings u.agent).count kind.ctr < 1023 → NothingToRelease s u f.ord →
      (∀ l ∈ lanes, s.localPlace u (s.localAddr u f index l) len need = .ok (place l)) →
      (∀ l ∈ lanes, ∀ slot reg thread lo, place l = .frame slot reg thread lo → s.frameWaits u slot reg thread lo len = []) →
      u.poisoned (some (lanes.flatMap fun l => (place l).ownRegs u len)) = [] →
      exec i s = .next (
        let acc := fun l => localAccess u.core l (s.localAddr u f index l) len (place l) (data l).1 (data l).2
        let t := if need = .read then s else lanes.foldl (fun s l => match place l with
          | .frame slot reg thread lo => s.frameStore u slot reg thread lo (toBytes len (data l).1)
          | _ => s) s
        let t := if lanes.any fun l => match place l with
            | .tail _ _ => true
            | _ => false then { t with free := t.free + 1 } else t
        let vals := if need != .read then [] else lanes.filterMap fun l => match place l with
          | .frame slot reg thread lo => some (l, ofBytes (s.frameBytes u slot reg thread lo len))
          | .tail slot off => some (l, ofBytes (((((s.group? u.core slot).map fun g => g.tailBytes s.free).getD []).drop off).take len))
          | .scratch _ _ => none
        ((if commits then t.commitRegion u else t).startOp u f kind dst (lanes.map acc)
          ((lanes.filter fun l => (place l).isScratch).map acc) vals).retire u f.sc)
    completes (.ldL f) (fun u => { memReq f.u (localUses f ++ [{ o := f.d, role := dataRole f.sz, write := true }]) with
        may := u.kind != .steward, valid := f.u || Opnd.isV f.d }) .load .read true (some (Opnd.reg f.d)) false (fun _ => (0, 0)) ∧
    completes (.stL f) (fun u => { memReq f.u (localUses f ++ [{ o := f.d, role := dataRole f.sz }]) with
        may := u.kind != .steward, defers := orderDefers f.ord })
        .store .write true none false (fun l => (s.readBytes u f.d l f.sz.bytes, 0)) ∧
    (∀ p ∈ [(Instr.atomLAdd, AtomOp.add), (.atomLMinN, .minN), (.atomLMaxN, .maxN), (.atomLMinS, .minS), (.atomLMaxS, .maxS),
        (.atomLAnd, .and), (.atomLOr, .or), (.atomLXor, .xor), (.atomLExch, .exch), (.atomLCas, .cas), (.atomLAddF, .addF),
        (.atomLMinF, .minF), (.atomLMaxF, .maxF)],
      completes (p.1 f) (fun u => { f.atomReq p.2 .w32 with may := u.kind != .steward }) (.atom p.2 (!f.noReturn)) .modify
        (!f.noReturn) f.atomDst (!f.noReturn) (s.atomValues u f p.2))

/-- R197 to R199 (ldx, stx, pf): an extent of 16 to 524,288 bytes, a multiple of 16, inside the allocation and at a multiple of 16,
enters one operation with one access for each 64-byte line it meets; a prefetch never faults: it goes on with memory, every register,
ring and deferred fault of every group, helper and steward unchanged. R41, R53, R210 (wait.ld, wait.st, wait.at, wait.cp, wait.tt, wait.sv) and R205, R199 (fence): a wait whose counter is no greater than
its limit (the register's value, at most 1,023), with no error held that it raises, lets the path go on; a fence goes on where a
release has nothing to wait for and, if it acquires, no operation of its threads is in flight; it then drops the stale L1 copies of
its scope.
Of the model's own choices it uses those of log 9, 12, 35. -/
def Obligations.ExtentsPrefetchesWaitsAndFencesComplete : Prop :=
  (∀ (s : State) (f : FM) (u : Issuer) (as : List Access) (g : Group) (al : Alloc),
    let d := (s.read64 u f.d 0).toNat
    let off := bits d 0 32
    let len := bits d 32 32
    let va := s.globalAddr u f true 0
    let req := fun (d : Defers) (u : Issuer) => { memReq true (gUse f.d false :: globalUses f) with may := u.kind != .steward, defers := d }
    (s.group? u.core u.slot = some g → s.alloc? u.core g.alloc = some al → NothingToRelease s u f.ord →
      off % 16 = 0 → len % 16 = 0 → 16 ≤ len → len ≤ 524288 → off + len ≤ al.size → va % 16 = 0 → va < 2 ^ 60 →
      (∀ p ∈ [(Instr.ldx, (OpKind.ldx, (Need.read, Defers.none))), (.stx, (OpKind.stx, (Need.write, orderDefers f.ord)))],
        s.ready? (p.1 f) (req p.2.2.2) = some u → (s.rings u.agent).count (p.2.1 g.alloc).ctr < 1023 →
        s.extentAccesses u p.2.2.1 va off len = .ok as →
        exec (p.1 f) s = .next (
          let t := as.foldl (fun s a => s.cacheTarget u a p.2.2.1) s
          let t := if f.ord.acquires then t.acquire u.core f.scp else t
          (t.startOp u f (p.2.1 g.alloc) none as as []).retire u f.sc))) ∧
    (s.ready? (.pf f) (fun _ => memReq f.u (globalUses f)) = some u →
      ∃ t : State, exec (.pf f) s = .next (t.retire u f.sc) ∧ t.mem = s.mem ∧ t.stewards = s.stewards ∧
        ∀ c, (t.core c).slots = (s.core c).slots ∧ (t.core c).helpers = (s.core c).helpers)) ∧
  (∀ (s : State) (f : F3) (g : FM) (u : Issuer),
    (∀ p ∈ [(Instr.waitLd, (Ctr.ld, Defers.none)), (.waitSt, (.st, .stores)), (.waitAt, (.am, .none)), (.waitCp, (.cp, .copies)),
        (.waitTt, (.tt, .tasks)), (.waitSv, (.sv, .none))],
      s.ready? (p.1 f) (waitReq f p.2.2) = some u → (∀ e ∈ s.deferredOf u.agent, e.raisedAt p.2.2 = false) →
      (s.rings u.agent).count p.2.1 ≤ Nat.min (s.read64 u f.a 0).toNat 1023 → exec (p.1 f) s = .next (s.retire u f.sc)) ∧
    (s.ready? (.fence g) (fun _ => { memReq false [] with defers := orderDefers g.ord }) = some u → NothingToRelease s u g.ord →
      (g.ord.acquires = true → s.releaseIds u = []) →
      exec (.fence g) s = .next ((if g.ord.acquires then s.acquire u.core g.scp else s).retire u g.sc)))

/-! ## Barriers, the register pool, coherence objects and windows -/

/-- R207, R181, R194 (bar.init, bar.arr, bar.arr.drop, bar.wait, bar.test): where the index is below the kernel's count and no older
access of the path's threads to the object is in flight: `bar.init` sets INIT and PEND to the low word, PMASK, KIND, BRK = 0 and
PHASE = 0, and wakes parked paths with BRK seen as 1; `bar.arr` subtracts the arrivals, and the phase ends where they reach PEND;
`bar.arr.drop` takes the slot out of PMASK and lowers INIT first; `bar.wait` goes on where the phase is not the one named and the
object is not broken; `bar.test` reads BRK, PHASE and PEND.
Of the model's own choices it uses those of log 9, 73. -/
def Obligations.BarrierInstructionsAct : Prop :=
  ∀ (s : State) (f : FM) (u : Issuer) (g : Group) (al : Alloc),
    let i := s.barIndex u f
    let b := al.barrier i
    let v := (s.read64 u f.b 0).toNat
    s.group? u.core u.slot = some g → s.alloc? u.core g.alloc = some al → i < g.kernel.bars →
    s.olderAt u (.scratch u.core g.alloc (16 * i)) 16 = [] →
    (s.ready? (.barInit f) (fun u => barReq f u false) = some u → NothingToRelease s u f.ord → bits v 32 15 = 0 → bits v 0 32 ≠ 0 →
      exec (.barInit f) s = .next (
        let new : Barrier := { pend := bits v 0 32, init := bits v 0 32, pmask := bits v 48 16, kind := bits v 47 1 == 1
                               brk := false, phase := 0 }
        ((s.modAlloc u.core g.alloc fun a => { a.setBarrier i new with arrived := Assoc.erase a.arrived i }).wakeBarrier
          u.core g.alloc i new true).retire u f.sc)) ∧
    (s.ready? (.barArr f) (fun u => barReq f u true) = some u → NothingToRelease s u f.ord →
      exec (.barArr f) s = .next ((s.arriveAt u.core g.alloc i (some u.slot) fun b => b.arrive (s.arrivals u f)).retire u f.sc)) ∧
    (s.ready? (.barArrDrop f) (fun u => barReq f u true) = some u → NothingToRelease s u f.ord →
      exec (.barArrDrop f) s =
        .next ((s.arriveAt u.core g.alloc i (some u.slot) fun b => b.arriveDrop u.slot (s.arrivals u f)).retire u f.sc)) ∧
    (s.ready? (.barWait f) (fun u => barReq f u false) = some u →
      (u.path.woken = some false ∨ (u.path.woken = none ∧ b.brk = false ∧ b.phase ≠ (s.read64 u f.b 0).setWidth 32)) →
      exec (.barWait f) s = .next ((if f.ord.acquires then s.acquire u.core f.scp else s).retire u f.sc)) ∧
    (s.ready? (.barTest f) (fun u => { barReq f u false with uses := [gUse f.d true, gUse f.a false, gUse f.b false] }) = some u →
      exec (.barTest f) s = .next ((s.pushWrites u (resultWrites f.d false
        [(0, BitVec.ofNat 64 (b.brk.toNat * 2 ^ 63 + b.phase.toNat % 2 ^ 31 * 2 ^ 32 + b.pend))]) 1).retire u f.sc))

/-- R206, R3: an object stored in an allocation is read back from it, where its fields fit Table 3. R206, R207: n arrivals at an object that is not broken leave PEND lower by n; where they reach PEND the phase number rises by
one, modulo 2^32, and PEND starts again at INIT. A broken object does not change. -/
def Obligations.BarrierObjectsCountArrivals : Prop :=
  (∀ (al : Alloc) (i : Nat) (b : Barrier), al.bytes.wf = true → b.pend < 2 ^ 32 → b.init < 2 ^ 32 → b.pmask < 2 ^ 16 →
    (al.setBarrier i b).barrier i = b ∧
    (al.setBarrier i b).bytes.load (16 * i) 4 = b.pend ∧ (al.setBarrier i b).bytes.load (16 * i + 12) 4 = b.phase.toNat ∧
    (∀ j, j ≠ i → (al.setBarrier i b).barrier j = al.barrier j)) ∧
  (∀ (b : Barrier) (n : Nat),
    (b.brk = true → b.arrive n = b) ∧
    (b.brk = false → n < b.pend → b.arrive n = { b with pend := b.pend - n }) ∧
    (b.brk = false → 0 < b.pend → b.pend ≤ n → b.arrive n = { b with pend := b.init, phase := b.phase + 1 }))

/-- R211 to R213 (rclaim, rgive, and the events of the pool: RCLAIM_GRANT, RGIVE_RETURN, REGISTER_CLAIM_DEADLOCK): a claim of the
group's only path is granted at issue where no claim waits and the free count suffices; `rgive` lowers W at once and gives the
units back when no write to the lost registers is pending; the oldest waiting claim is granted when the free count suffices; a
give is returned when its operations are done; where every group of a launch on the core waits for ever, the waiting claims of its
groups are withdrawn, the others stay, and cause 0x0C is raised on each path that made one (R214).
Of the model's own choices it uses those of log 55. -/
def Obligations.PoolInstructionsAndEventsComplete : Prop :=
  ∀ (s : State) (f : F3) (u : Issuer) (core : Nat),
    let n := bits f.x.toNat 0 5
    let k := s.core u.core
    (s.ready? (.rclaim f) poolReq = some u → u.path.woken = none → s.alone u = true → u.window + 8 * n ≤ 192 → k.claims = [] →
      n ≤ k.free →
      exec (.rclaim f) s = .next (((s.modCore u.core fun k => { k with free := k.free - n }).modGroup u.core u.slot fun g =>
        { g with w := g.w + 8 * n }).retire u f.sc)) ∧
    (s.ready? (.rgive f) poolReq = some u → s.alone u = true → 8 * n + 8 ≤ u.window → s.writesFrom u.uid (u.window - 8 * n) = [] →
      ∃ t : State, exec (.rgive f) s = .next (t.retire u f.sc) ∧ t.mem = s.mem ∧ (t.core u.core).free = k.free + n ∧
        ∀ g, s.group? u.core u.slot = some g →
          (t.group? u.core u.slot).map (·.w) = some (u.window - 8 * n)) ∧
    (∀ cl rest, (s.core core).claims = cl :: rest → cl.n ≤ (s.core core).free →
      ∃ t : State, exec (.rclaimGrant core) s = .next t ∧ (t.core core).claims = rest ∧ (t.core core).free = (s.core core).free - cl.n) ∧
    (∀ entry g, (s.core core).gives[entry]? = some g → (∀ i ∈ g.ops, Assoc.get? s.ops i = none) →
      exec (.rgiveReturn core entry) s =
        .next (s.modCore core fun k => { k with gives := k.gives.eraseIdx entry, free := k.free + g.n })) ∧
    (∀ cl rest g0, (s.core core).claims = cl :: rest → Assoc.get? (s.core core).slots cl.slot = some g0 →
      (∀ p ∈ (s.core core).slots, p.2.launch = g0.launch → p.2.life = .resident → s.deadlocked core p.2 = true) →
      (s.core core).free + (s.core core).heldByOthers g0.launch < cl.n →
      let mine := fun c : Claim => (s.core core).slots.any fun p => p.1 = c.slot && p.2.launch = g0.launch
      exec (.registerClaimDeadlock core) s = .next (((s.core core).claims.filter mine).foldl (fun s c =>
          match s.issuer? (.path core c.slot c.path) with
          | some u => (s.raise u { cause := 0x0C, faddr := 0, pc := u.path.wordAddr }).groupWoke core c.slot (s.group? core c.slot)
          | none => s)
        (s.modCore core fun k => { k with claims := k.claims.filter fun c => !mine c })))

/-- R215 to R218, R331, R332 (cobj, cwin, cctl.l1inv, cctl.l1all, cctl.rlcev), where the record of `cobj` or `cwin` reads as `bs` and
leaves the state `t`: `cobj` removes the object at BASE, adds one that meets no other of the context, or at 8,192 objects only
counts; `cwin`, once the group's ld, st and at counters are zero, closes window WIN or installs one that overlaps no other, and
drops every L1 copy of the ranges that cease to be or become a window's; where the walk of a range waits for a borrowed line of a
table, the path asks for it and waits. `cctl` drops the copy of one line or all of a SIMT core's L1, once no older acquire of the
thread is in flight, or gives a lent line back; an address that fails translation, whatever its leaf allows, is dropped.
Of the model's own choices it uses those of log 46, 52. -/
def Obligations.CoherenceInstructionsComplete : Prop :=
  ∀ (s t : State) (f : FM) (u : Issuer) (bs : List Byte),
    let req := fun u : Issuer => { memReq false [gUse f.a false, gUse f.b false] with may := u.kind != .steward }
    let va := s.globalAddr u f false 0
    let place := s.located u.core u.ctx u.path.view.root va
    let lineOf := fun x : Xlate => (x.pa - 0x8000000000000) / 64
    let idle := fun (r : Rings) => r.count .ld = 0 ∧ r.count .st = 0 ∧ r.count .am = 0
    ((∀ k, s.withRecord u f k = k t bs) →
      (∀ o, s.ready? (.cobj f) req = some u → shapeOf u.ctx bs = some (false, o) →
        exec (.cobj f) s = .next (State.retire
          { t with objects := t.objects.filter fun p => !(p.ctx = o.ctx && p.base = o.base) } u f.sc)) ∧
      (∀ o, s.ready? (.cobj f) req = some u → shapeOf u.ctx bs = some (true, o) →
        (∀ p ∈ t.objects, p.ctx = o.ctx → p.meets o = false) →
        exec (.cobj f) s = .next (State.retire
          (if t.objects.length < 8192 then { t with objects := t.objects ++ [o] } else t.observe 4096 9 1) u f.sc)) ∧
      (let win := bits (valueAt bs 24 8) 61 3
       let old := Assoc.get? (t.context u.ctx).windows win
       let drop := fun (t : State) (w : Window) => t.dropRange u.ctx w.base w.size
       let needs := fun w : Window => t.rangeWaits u.ctx w.base w.size
       s.ready? (.cwin f) req = some u → idle (s.rings u.agent) → idle (((s.group? u.core u.slot).map (·.rings)).getD {}) →
       (windowOf bs 0 win = .ok none → (∀ w ∈ old, needs w = none) →
         exec (.cwin f) s =
           .next ((old.toList.foldl drop (t.modContext u.ctx fun k => { k with windows := Assoc.erase k.windows win })).retire u f.sc)) ∧
       (∀ w, windowOf bs 0 win = .ok (some w) → (∀ p ∈ (t.context u.ctx).windows, p.1 ≠ win → p.2.overlaps w = false) →
         (∀ w' ∈ old, needs w' = none) →
         (needs w = none → exec (.cwin f) s = .next ((drop (old.toList.foldl drop (t.modContext u.ctx fun k =>
           { k with windows := Assoc.set k.windows win w })) w).retire u f.sc)) ∧
         ∀ l, needs w = some l → exec (.cwin f) s = .next ((t.wantRead l.1 l.2).stall u (.line l.1 l.2))))) ∧
    (s.ready? (.cctlL1inv f) (fun _ => memReq false [gUse f.a false]) = some u → s.olderAcquires u = [] →
      (∀ w, windowAt u.path.view.windows va = some w →
        exec (.cctlL1inv f) s = .next ((s.dropCopy u.core (.block u.ctx (va / 64))).retire u f.sc)) ∧
      (windowAt u.path.view.windows va = none →
        (∀ x, place = .ok x → exec (.cctlL1inv f) s = .next ((s.dropCopy u.core (if paClass x.pa = .borrowed
          then .lent (entryOf u.ctx x.slot) (lineOf x) else .phys (x.pa / 64))).retire u f.sc)) ∧
        (∀ m, place = .error m → m.waits = none → exec (.cctlL1inv f) s = .next (s.retire u f.sc)) ∧
        (∀ m l, place = .error m → m.waits = some l →
          exec (.cctlL1inv f) s = .next ((s.wantRead l.1 l.2).stall u (.line l.1 l.2))))) ∧
    (s.ready? (.cctlL1all f) (fun _ => memReq false []) = some u → s.olderAcquires u = [] →
      exec (.cctlL1all f) s =
        .next ((if u.core < 4096 then s.modCore u.core fun k => { k with l1 := [] } else s).retire u f.sc)) ∧
    (s.ready? (.cctlL1all f) (fun _ => memReq false []) = some u → s.olderAcquires u ≠ [] →
      exec (.cctlL1all f) s = .next (s.stall u (.drain (s.olderAcquires u)))) ∧
    (s.ready? (.cctlRlcev f) (fun _ => memReq false [gUse f.a false]) = some u →
      (∀ w, windowAt u.path.view.windows va = some w → exec (.cctlRlcev f) s = .next (s.retire u f.sc)) ∧
      (windowAt u.path.view.windows va = none →
        (∀ x, place = .ok x → exec (.cctlRlcev f) s = .next (State.retire
          (if paClass x.pa = .borrowed then s.evict (entryOf u.ctx x.slot) (lineOf x) else s) u f.sc)) ∧
        (∀ m, place = .error m → m.waits = none → exec (.cctlRlcev f) s = .next (s.retire u f.sc)) ∧
        (∀ m l, place = .error m → m.waits = some l →
          exec (.cctlRlcev f) s = .next ((s.wantRead l.1 l.2).stall u (.line l.1 l.2)))))
/-! ## Asynchronous commands and accumulator tiles; cross-lane instructions -/

/-- R221, R226, R230, R242 (tenq, cpkick), outside a recording and a replay: a record that stands in the group's allocation, whose fields are valid and whose
local operands lie inside the allocation, is entered as a command with the issuing path's fmt, where the counter is below 1,023
and its output tag has room; a collective reduction takes its place in its collective.
Of the model's own choices it uses those of log 49, 57. -/
def Obligations.CommandsAreEntered : Prop :=
  ∀ (s : State) (f : F3) (u : Issuer) (g : Group) (al : Alloc),
    let v := (s.read64 u f.a 0).toNat
    let bs := s.scratchRead u.core g.alloc v 64
    let tile := s.newCmd u .tile bs
    let copy := s.newCmd u .copy bs
    let req := fun u : Issuer => { asyncReq u f.u [gUse f.a false] with fmt := true }
    s.group? u.core u.slot = some g → s.alloc? u.core g.alloc = some al → RecordStands s u g.alloc al v 64 →
    (s.ready? (.tenq f) req = some u → (s.rings u.agent).count .tt < 1023 → tile.tileOk g.kernel.tiles = true →
      tile.axisOk = true → tile.tileBeyond al.size = none →
      let c : Cmd := { tile with rec' := bs.take 0x30 ++ toBytes 2 u.fmt.toNat ++ bs.drop 0x32 }
      (∀ t ∈ c.outTag, s.tagCount u.uid t < 255) → exec (.tenq f) s = .next (enqueued s u c f.sc)) ∧
    (s.ready? (.cpkick f) req = some u → (s.rings u.agent).count .cp < 1023 →
      copy.copyOk g.kernel.tiles g.kernel.bars (fun i => (al.barrier i).kind) s.collOk = true → copy.copyBeyond al.size = none →
      (∀ t ∈ copy.outTag, s.tagCount u.uid t < 255) →
      exec (.cpkick f) s = .next (enqueued (s.joinCollective copy).1 u (s.joinCollective copy).2 f.sc))

/-- R227 to R229 (twait), R224 (ardr, awr), R225 (azero) and R221, R245, R278 (launch), where no fault is held that they raise and no command in flight
marks the tag or uses the tile: `twait` of a tag that the kernel has acquires at core scope; `ardr` gives lane t the element i + t of the tile, `awr` stores the
lanes of exec there, `azero` makes every element 0; `launch` enters a launch of the same context, whose header it reads in place of no older store of the group, on a queue with room; the
launch follows the group's older accesses (R222), for which the path does not wait; a record of another context, or of one that has
ended (R400), raises the protection trap.
Of the model's own choices it uses those of log 49, 53. -/
def Obligations.TileAccessAndLaunchComplete : Prop :=
  ∀ (s : State) (f : F3) (u : Issuer) (g : Group) (al : Alloc) (i : Nat),
    let w := isWide f.ty
    let tag := if f.a = .none then f.x.toNat else (s.read64 u f.a 0).toNat
    let free := fun d : Defers => ∀ e ∈ s.deferredOf u.agent, e.raisedAt d = false
    s.group? u.core u.slot = some g →
    (s.ready? (.twait f) (fun u => { asyncReq u f.u [gUse f.a false] with defers := .tag (s.tagOf u f) }) = some u →
      tag < g.kernel.tiles ∨ (48 ≤ tag ∧ tag < 256) → g.kernel.tiles ≤ 48 → free (.tag tag) → s.producers u.uid [tag] [] = [] →
      exec (.twait f) s = .next ((s.acquire u.core .core).retire u f.sc)) ∧
    (free (.tile f.x.toNat) → s.producers u.uid [] [f.x.toNat] = [] →
      (s.ready? (.ardr f) (fun u => { asyncReq u f.u [dstUse f.u w f.d, gUse f.b false] with valid := s.tileDeclared u f.x, defers := .tile f.x.toNat }) = some u →
        s.firstElement u f = some i →
        exec (.ardr f) s = .next (s.result u f.u f.d w 1 f.sc fun t => BitVec.ofNat 64 (g.element w f.x.toNat (i + t)))) ∧
      (s.ready? (.awr f) (fun u => { asyncReq u f.u [srcUse w f.a, gUse f.b false] with valid := s.tileDeclared u f.x, defers := .tile f.x.toNat }) = some u →
        s.firstElement u f = some i →
        exec (.awr f) s = .next ((s.modGroup u.core u.slot fun g => (if f.u then [0] else u.lanes).foldl (fun g t =>
          g.setElement w f.x.toNat (i + t) (s.src u w f.a t).toNat) g).retire u f.sc)) ∧
      (s.ready? (.azero f) (fun u => { asyncReq u f.u [] with valid := s.tileDeclared u f.x, defers := .tile f.x.toNat }) = some u →
        exec (.azero f) s = .next ((s.modGroup u.core u.slot fun g => { g with acc := Assoc.erase g.acc f.x.toNat }).retire u f.sc))) ∧
    (∀ (t : State) (h : List Byte),
      let v := (s.read64 u f.a 0).toNat
      let r := s.scratchRead u.core g.alloc v 256
      s.ready? (.launch f) (fun u => asyncReq u f.u [gUse f.a false]) = some u → s.alloc? u.core g.alloc = some al →
      RecordStands s u g.alloc al v 256 → recordOk r = true →
      (recCtx r ≠ u.ctx ∨ (s.context u.ctx).ended = true →
        exec (.launch f) s = .next (s.raise u { cause := 0x05, faddr := BitVec.ofNat 64 v, pc := u.path.wordAddr })) ∧
      (recCtx r = u.ctx → (s.context u.ctx).ended = false → s.olderOn u u.reader (recKhdr r) 256 = [] →
        s.readHeader u.reader r = .ok t h → (t.queue (recQueue r)).length < 32 →
        exec (.launch f) s = .next (((t.queueLaunch r h (t.groupOps (t.ownerOf u))).commitRegion u).retire u f.sc)))

/-- R249 to R252 (shfl, bcast, vote.ballot, vote.any, vote.all, vote.eq, mpop): results over the lanes of exec. A `shfl` whose
source lane lies outside the segment or outside exec gives the lane its own value; `bcast` gives every lane the value of the named
lane, or of the lowest of exec, and 0 where that lane is not in exec; the votes and the count are over exec. R252 to R254, R113 (scan, rdx): `scan` combines the values of the lanes of exec in increasing thread index, inclusive or
exclusive; `rdx` combines integers and bit strings over all lanes and floating-point values by the tree of R113; the integer result
is exact before it wraps or is clamped. R255 to R261 (xpat, xbar, vdtab, vdec): a table record in the group's allocation, with no store of the group to its scratchpad in
flight and every entry valid, replaces a table that no other launch with a resident group owns; `xbar` builds each byte by its
selector from the lanes of exec, and `vdec` decodes four words, both with the table of the issuing launch that the instruction sees: of a
replacement, a sibling path that issues in its cycle sees what was there before, and every later instruction the new table (outside a
recording and a replay).
Of the model's own choices it uses those of log 9, 49, 56. -/
def Obligations.CrossLaneAndTableInstructionsGiveResults : Prop :=
  ((∀ (s : State) (f : F3) (u : Issuer),
    let w := isWide f.ty
    let gives := fun (wide : Bool) (r : Nat → DWord) =>
      Host.Outcome.next (φ := Fault) (ρ := Refusal) (s.result u false f.d wide 6 f.sc r)
    let holds := fun t => s.read32 u f.a t != 0
    (s.ready? (.shfl f) (fun u => { laneReq u [vDst w f.d, vSrc w f.a, srcUse w f.b] with
        may := u.kind != .steward && !(u.w32 && 6 ≤ bits f.x.toNat 2 3) }) = some u →
      exec (.shfl f) s = gives w fun t =>
        match shflSource (bits f.x.toNat 0 2) (2 ^ bits f.x.toNat 2 3) t (s.read32 u f.b t).toNat with
        | some j => s.src u w f.a (if j ∈ u.lanes then j else t)
        | none => s.src u w f.a t) ∧
    (s.ready? (.bcast f) (fun u => laneReq u [vgDst w f.d, vSrc w f.a, gUse f.b false]) = some u →
      let j := if f.x.getLsbD 0 then u.lanes.headD 0 else (s.read64 u f.b 0).toNat
      exec (.bcast f) s = gives w fun _ => if j ∈ u.lanes then s.src u w f.a j else 0) ∧
    (s.ready? (.voteBallot f) (fun u => laneReq u [{ o := f.d, role := .mask, write := true }, vSrc false f.a]) = some u →
      exec (.voteBallot f) s = .next ((s.pushWrites u (maskWrites u f.d (maskOf (u.lanes.filter holds))) 6).retire u f.sc)) ∧
    (∀ p ∈ [(Instr.voteAny, u.lanes.any holds), (.voteAll, u.lanes.all holds),
        (.voteEq, u.lanes.all fun t => s.read32 u f.a t == s.read32 u f.a (u.lanes.headD 0))],
      s.ready? (p.1 f) (voteReq f) = some u → exec (p.1 f) s = gives false fun _ => if p.2 then 1 else 0) ∧
    (s.ready? (.mpop f) (fun u => laneReq u [vDst false f.d, { o := f.a, role := .mask }]) = some u →
      exec (.mpop f) s = gives false fun t =>
        BitVec.ofNat 64 (((List.range (if f.x.getLsbD 0 then 128 else t)).filter fun i => (s.readMask u f.a).getLsbD i).length))) ∧
  (∀ (s : State) (f : F3) (u : Issuer),
    let op := bits f.x.toNat 1 3
    let excl := f.x.getLsbD 0
    let w := isWide f.ty
    let k := ffmt f.ty
    let fl := fun t => k.flushed (u.fenv f.rm f.s).ftz (s.src u w f.a t).toNat
    let lanesOf := fun (out : List DWord) t => ((u.lanes.zip out).lookup t).getD 0
    (s.ready? (.scan f) (fun u => laneRedReq f u false) = some u →
      exec (.scan f) s = .next (s.result u false f.d w 6 f.sc (lanesOf (
        if f.ty = .f32 ∨ f.ty = .f64 then
          (scanList (combineFloat op (u.fenv f.rm f.s) k) (floatIdentity op k) excl none (u.lanes.map fl)).map (BitVec.ofNat 64)
        else if op ≤ 2 then
          (scanList (combineInt op) (intIdentity op f.ty) excl none (u.lanes.map fun t => intValue f.ty (s.src u w f.a t))).map
            (intResult f.ty f.s)
        else scanList (combineBits op) (if op = 3 then BitVec.allOnes 64 else 0) excl none (u.lanes.map fun t => s.src u w f.a t))))) ∧
    (s.ready? (.rdx f) (fun u => laneRedReq f u true) = some u → u.lanes ≠ [] →
      exec (.rdx f) s = .next (s.result u false f.d w 6 f.sc fun _ =>
        if f.ty = .f32 ∨ f.ty = .f64 then
          BitVec.ofNat 64 ((treeFold (combineFloat op (u.fenv f.rm f.s) k) 7
            ((List.range 128).map fun t => if t ∈ u.lanes then some (fl t) else none)).getD 0)
        else if op ≤ 2 then
          intResult f.ty f.s ((u.lanes.tail.map fun t => intValue f.ty (s.src u w f.a t)).foldl (combineInt op)
            (intValue f.ty (s.src u w f.a (u.lanes.headD 0))))
        else (u.lanes.tail.map fun t => s.src u w f.a t).foldl (combineBits op) (s.src u w f.a (u.lanes.headD 0)))))) ∧
  (∀ (s : State) (f : F3) (u : Issuer) (g : Group) (al : Alloc),
    let v := (s.read64 u f.a 0).toNat
    let k := s.core u.core
    let q := bits f.x.toNat 2 4
    let n := bits f.x.toNat 0 2
    let entries := fun size => (List.range (size / 2)).map fun i => BitVec.ofNat 16 (valueAt (s.scratchRead u.core g.alloc v size) (2 * i) 2)
    let own := fun t : Option Table => s.tableOwner? u.core t = none ∨ s.tableOwner? u.core t = some u.launch
    let stands := fun size => v < 2 ^ 32 ∧ v % 16 = 0 ∧ v + size ≤ al.size ∧ s.localStores (s.ownerOf u) = [] ∧ s.recorded u.ctx = false ∧ s.replayed u.ctx = false
    s.group? u.core u.slot = some g → s.alloc? u.core g.alloc = some al →
    (s.ready? (.xpat f) (fun u => { laneReq u [gUse f.a false] with may := u.kind == .simt }) = some u → stands 1024 →
      (∀ i < 512, selectorOk i ((entries 1024).getD i 0) = true) → own (Assoc.get? k.patterns f.x.toNat) →
      exec (.xpat f) s = .next ((s.modCore u.core fun k =>
        { k with patterns := Assoc.set k.patterns f.x.toNat (replaceTable (Assoc.get? k.patterns f.x.toNat) u.launch (s.seqOf u.agent) (entries 1024)) }).retire u f.sc)) ∧
    (s.ready? (.vdtab f) (fun u => { laneReq u [gUse f.a false] with may := u.kind == .simt }) = some u → stands (2 ^ (q + 1)) →
      (∀ e ∈ entries (2 ^ (q + 1)), bits e.toNat 12 4 ≤ q) → own (Assoc.get? k.decoders n) →
      exec (.vdtab f) s = .next ((s.modCore u.core fun k =>
        { k with decoders := Assoc.set k.decoders n (replaceTable (Assoc.get? k.decoders n) u.launch (s.seqOf u.agent) (entries (2 ^ (q + 1)))) }).retire u f.sc)) ∧
    (∀ (t : Table) (v : TableVersion), Assoc.get? k.patterns f.x.toNat = some t → t.seenAt (s.seqOf u.agent) = some v → v.launch = u.launch →
      s.ownsTables u.core v.launch = true →
      s.ready? (.xbar f) (fun u => laneReq u [vDst false f.d, vSrc false f.a]) = some u →
      exec (.xbar f) s = .next (s.result u false f.d false 6 f.sc fun i =>
        BitVec.ofNat 64 (ofBytes ((List.range 4).foldl (fun bs j =>
          bs ++ [xbarByte (fun k => s.read32 u f.a k) u.lanes.contains (v.entries.getD (4 * i + j) 0) bs]) [])))) ∧
    (∀ (t : Table) (v : TableVersion) (d : Fin 192), f.d = .v d → Assoc.get? k.decoders n = some t → t.seenAt (s.seqOf u.agent) = some v →
      v.launch = u.launch → s.ownsTables u.core v.launch = true →
      s.ready? (.vdec f) (fun u => laneReq u [{ o := f.d, role := .vquad, write := true }, vSrc true f.a, vSrc false f.b]) = some u →
      exec (.vdec f) s = .next ((s.pushWrites u ((List.range 4).map fun j => (.v (d.val + j), u.lanes.map fun i =>
        (i, ((decodeWords v.entries (bits f.x.toNat 2 3) (s.read64 u f.a i).toNat (s.read32 u f.b i).toNat).getD j 0).setWidth 64))) 1).retire
          u f.sc))) ∧
  (∀ (old : Option Table) (launch : Nat) (seq at' : Stamp) (es : List (BitVec 16)),
    (∀ t, old = some t → ∀ v ∈ t.versions, v.seq.before seq = true) →
    let new := replaceTable old launch seq es
    (seq.seenBy at' = true → new.seenAt at' = some { launch := launch, seq := seq, entries := es }) ∧
    (seq.seenBy at' = false → new.seenAt at' = old.bind fun t => t.seenAt at'))
/-! ## Control flow and helpers -/

/-- R56, R166 to R169, R57 (bra, brc, brx, call, callx, ret): every transfer ends its clause. `bra` and `call` go to the clause at
8·OFFS from their own; `brc` sends the lanes whose mask bit matches the sense there and the others to the next clause; `brx`, `callx`
and `ret`, all of whose targets are multiples of 8, send each lane to its own target; `call` and `callx` write the address of the
next clause. The sides part by `State.diverge` (R18, R158, R161, R162, R164): the side of lowest PC stays on the path, each
following side takes the lowest free path entry as a new path with the same fmt, loop stack, level and region and an empty
reconvergence stack, and the sides for which no entry is free wait on the path's own stack, the highest PC first: joined to the top
entry where its PC is the same, else pushed, from the ninth entry on with the lowest free place of the frame tail, of which there are
128.
Of the model's own choices it uses those of log 32. -/
def Obligations.BranchesTransferControl : Prop :=
  (∀ (s : State) (f : FB) (g : F3) (u : Issuer),
    let tgt := u.path.clause.addr + BitVec.ofInt 60 (8 * f.offs.toInt)
    let link := u.path.nextClause.setWidth 64
    (s.ready? (.bra f) (fun _ => ctrlReq true []) = some u → exec (.bra f) s = .next (s.endClause u tgt)) ∧
    (∀ t, s.ready? (.brc f) (fun _ => ctrlReq true [{ o := f.d, role := .mask }]) = some u →
      s.diverge u (sidesOf (u.lanes.map fun l =>
        (l, if (s.readMask u f.d).getLsbD l = (f.a == .v 0) then tgt else u.path.nextClause))) = some t →
      exec (.brc f) s = .next t) ∧
    (s.ready? (.call f) (fun _ => ctrlReq true [gUse f.d true]) = some u →
      exec (.call f) s = .next ((s.pushWrites u (resultWrites f.d false [(0, link)]) 1).endClause u tgt)) ∧
    (u.lanes ≠ [] → (∀ l ∈ u.lanes, (s.read64 u g.a l).toNat % 8 = 0) →
      let sides := sidesOf (u.lanes.map fun l => (l, (s.read64 u g.a l).setWidth 60))
      (∀ t, s.ready? (.brx g) (fun _ => ctrlReq true [{ o := g.a, role := .w64 }]) = some u → s.diverge u sides = some t →
        exec (.brx g) s = .next t) ∧
      (∀ t, s.ready? (.ret g) (fun _ => ctrlReq true [gUse g.a false]) = some u → s.diverge u sides = some t →
        exec (.ret g) s = .next t) ∧
      (∀ v t, s.ready? (.callx g) (fun _ => ctrlReq true [gUse g.d true, { o := g.a, role := .w64 }]) = some u →
        (s.pushWrites u (resultWrites g.d false [(0, link)]) 1).issuer? u.agent = some v →
        (s.pushWrites u (resultWrites g.d false [(0, link)]) 1).diverge v sides = some t →
        exec (.callx g) s = .next t))) ∧
  (∀ (s : State) (u : Issuer) (c sl i : Nat) (gr : Group) (p : Path) (side next : PC × Mask) (more : List (PC × Mask))
      (stack : List Recon),
    u.agent = .path c sl i → s.issuer? u.agent = some u → s.group? c sl = some gr →
    let b := s.endClause u side.1
    let free := (List.range 16).filter fun k => (Assoc.get? gr.paths k).isNone
    deferSides (tailsInUse (Assoc.erase gr.paths i)) u.path.recon ((next :: more).drop free.length).reverse = some stack →
    b.path? u.agent = some p →
    (p.pc = side.1 ∧ p.fmt = u.path.lastFmt ∧ p.loops = u.path.loops ∧ p.lvl = u.path.lvl ∧ p.rgpc = u.path.rgpc ∧
      p.rgc = u.path.rgc ∧ p.snap = u.path.snap) ∧
    s.diverge u (side :: next :: more) = some ((free.zip (next :: more)).foldl (fun s e =>
        (s.setPath (.path c sl e.1) { p with
          pc := e.2.1, exec := e.2.2, recon := [], phase := .boundary, clause := {}, dist := 0, pend := [], halt := false
          present := false, passed := false, counted := false, parked := none, woken := none }).trace 4 c sl e.1 e.2.1 e.2.2)
      (b.setPath u.agent { p with exec := side.2, recon := stack }))) ∧
  (∀ (used : List Nat) (stack : List Recon) (side : PC × Mask),
    (∀ e rest, stack = e :: rest → e.pc = side.1 →
      deferSide stack used side = some ({ e with mask := e.mask ||| side.2 } :: rest)) ∧
    ((∀ e ∈ stack.head?, e.pc ≠ side.1) →
      (stack.length < 8 → deferSide stack used side = some ({ pc := side.1, mask := side.2 } :: stack)) ∧
      (8 ≤ stack.length →
        (∀ k < 128, (k ∉ used ∧ k ∉ stack.filterMap (·.tail)) → (∀ j < k, j ∈ used ∨ j ∈ stack.filterMap (·.tail)) →
          deferSide stack used side = some ({ pc := side.1, mask := side.2, tail := some k } :: stack)) ∧
        ((∀ j < 128, j ∈ used ∨ j ∈ stack.filterMap (·.tail)) → deferSide stack used side = none))))

/-- R170 to R175 (loop, endl, endl.x, rgn, exit, yield, nop): `loop` pushes its count, or skips the body where the count is 0; `endl`
counts down and goes to the body's start, or leaves the loop with the last iteration, `endl.x` at once; `rgn` begins a region;
`exit` takes the lanes of exec out of the group, or ends a helper's chunk; `yield` gives up priority; `nop` only advances. -/
def Obligations.LoopsRegionsAndExitsAct : Prop :=
  ∀ (s : State) (f : FB) (g : F3) (u : Issuer),
    let tgt := u.path.clause.addr + BitVec.ofInt 60 (8 * f.offs.toInt)
    let next := u.path.nextClause
    let n : Word := (s.read64 u f.a 0).setWidth 32
    let withLoops := fun l => s.modPath u.agent fun p => { p with loops := l }
    (s.ready? (.loop f) (fun _ => ctrlReq true [gUse f.a false]) = some u → u.path.loops.length < 4 →
      exec (.loop f) s = .next (if n = 0 then s.endClause u tgt
        else (s.modPath u.agent fun p => { p with loops := { count := n, start := next, stop := tgt } :: p.loops }).endClause u next)) ∧
    (∀ e rest, u.path.loops = e :: rest →
      (s.ready? (.endl f) (fun _ => ctrlReq true []) = some u →
        exec (.endl f) s = .next (if e.count - 1 = 0 then (withLoops rest).endClause u e.stop
          else (withLoops ({ e with count := e.count - 1 } :: rest)).endClause u e.start)) ∧
      (s.ready? (.endlX f) (fun _ => ctrlReq true []) = some u → exec (.endlX f) s = .next ((withLoops rest).endClause u e.stop))) ∧
    (s.ready? (.rgn f) (fun _ => ctrlReq false []) = some u →
      exec (.rgn f) s = .next ((s.modPath u.agent fun p =>
        { p with rgpc := tgt, rgc := false, snap := { fmt := u.fmt, loops := p.loops } }).retire u f.sc)) ∧
    (s.ready? (.exit g) (fun u => { ctrlReq true [] with may := u.kind != .steward }) = some u → s.recruiting u = [] →
      exec (.exit g) s = .next (match u.agent with
        | .path c sl _ => ((s.endClause u next).modPath u.agent fun p => { p with exec := 0 }).modGroup c sl
            fun g => { g with live := g.live &&& ~~~u.path.exec }
        | _ => s.stall u .chunk)) ∧
    (s.ready? (.yield g) (fun _ => ctrlReq true []) = some u → exec (.yield g) s = .next ((s.endClause u next).yieldGroup u.agent)) ∧
    (s.ready? (.nop g) (fun _ => ctrlReq false []) = some u → exec (.nop g) s = .next (s.retire u g.sc))

/-- R178 to R187 (recruit, hpost, hjoin, dismiss, and CHUNK_COMPLETE): one thread of a kernel with HLP recruits where it has no
active recruitment and no chunk remains to repeat; `hpost` posts a helper's partial; `hjoin`, with every chunk of the lanes done, gives D of each lane the
partials of its chunks that have one combined in chunk order (0 where none has one), under OP 0 nothing, and the recruitments of the
lanes are gone; `dismiss` sends the helpers of the lanes away; a chunk that has ended with its operations complete and no poisoned
lane is done with its partial, with a yield of its group where the Y bit of its clause is set (R54), and the helper takes the next
chunk or is released. `recruit` waits for, and under SBCHK is checked for, the registers that it takes copies of (R69, R70, R181).
Of the model's own choices it uses those of log 21. -/
def Obligations.HelperInstructionsComplete : Prop :=
  (∀ (s : State) (f : FB) (g : F3) (u : Issuer),
    (∀ t r n reason gr, s.ready? (.recruit f) (fun u => { ctrlReq false [gUse f.d true, gUse f.a false] with
          may := u.kind != .steward, fmt := true, more := s.recruited u f.a }) = some u →
      u.lanes = [t] → recruitReq (s.read64 u f.a 0) u.window = some r → s.group? u.core u.slot = some gr → gr.kernel.hlp = true →
      (u.kind = .simt → Assoc.get? gr.recruits t = none) → s.recordedGrant u t (s.barker u r) = (n, reason) →
      exec (.recruit f) s = .next (
        let a := if reason = 3 then s else s.makeRecruitment u t r (u.target f.offs) n
        let b := a.pushWrites u (resultWrites f.d false [(0, BitVec.ofNat 64 (reason * 256 + n))]) 1
        ((b.logEntry u.ctx { kind := .recruit, uid := s.ownerOf u, idx := u.idx, lane := t, line := u.hubLine (s.ownerOf u) t
                             value := reason * 256 + n }).commitRegion u).retire u f.sc)) ∧
    (∀ c k, s.ready? (.hpost g) (fun u => { ctrlReq false [{ o := g.a, role := .vpair }] with may := u.kind = .helper }) = some u →
      u.agent = .helper c k →
      exec (.hpost g) s = .next ((s.modHelper c k fun h => { h with part := some (s.read64 u g.a 0) }).retire u g.sc)) ∧
    (let op := bits g.x.toNat 0 3
     ∀ (gr : Group) (rec' : Nat → Recruitment),
      s.ready? (.hjoin g) (fun u => { ctrlReq true (if op = 0 then [] else [{ o := g.d, role := .vpair, write := true }]) with
          may := u.kind = .simt, fmt := true }) = some u →
      s.group? u.core u.slot = some gr →
      (∀ t ∈ u.lanes, Assoc.get? gr.recruits t = some (rec' t) ∧ s.joinState u.core u.slot t (rec' t) = .done (rec' t)) →
      exec (.hjoin g) s = .next (
        let parts := fun t => (rec' t).chunks.filterMap fun ch => match ch with
          | .done p => p
          | _ => none
        let sum := fun t => match parts t with
          | [] => 0
          | p :: ps => ps.foldl (combine op (u.fenv g.rm false)) p
        ((if op = 0 then s else s.pushWrites u (resultWrites g.d true (u.lanes.map fun t => (t, sum t))) 1).modGroup u.core u.slot
          fun gr => { gr with recruits := u.lanes.foldl (fun r t => Assoc.erase r t) gr.recruits }).retire u g.sc)) ∧
    (s.ready? (.dismiss g) (fun u => { ctrlReq false [] with may := u.kind = .simt }) = some u →
      exec (.dismiss g) s =
        .next ((s.releaseHelpers u.core fun h => h.slot = u.slot && u.lanes.contains h.thread && !h.self).retire u g.sc)) ∧
    (∀ c k h, s.helper? c k = some h → h.path.phase = .stalled .chunk → h.rings.count .ld = 0 → h.rings.count .st = 0 →
      h.rings.count .am = 0 → (∀ v, s.issuer? (.helper c k) = some v → v.poisoned none = []) →
      exec (.chunkComplete (.helper c k)) s = .next (
        let t := (if h.path.clause.header.getLsbD 36 then s.yieldSlot c h.slot else s).modGroup c h.slot fun g => { g with
          recruits := Assoc.update g.recruits h.thread fun r => { r with chunks := modifyAt r.chunks h.chunk fun _ => .done h.part } }
        if h.leaving then t.releaseHelper c k
        else if h.self then t.dropHelper c k h.slot
        else match ((t.group? c h.slot).bind fun g => Assoc.get? g.recruits h.thread).bind fun q => q.next h.num with
          | some ch => t.startChunk c k ch
          | none => t.dropHelper c k h.slot))) ∧
  (∀ (v : FEnv) (p q : DWord), combine 3 v p q = p + q ∧ (combine 4 v p q).toInt = min p.toInt q.toInt ∧
    (combine 5 v p q).toInt = max p.toInt q.toInt ∧ combine 1 v p q = BitVec.ofNat 64 (fp64.encode { v with ftz := false, sat := false }
      (FVal.add v.mode (fp64.decode false p.toNat) (fp64.decode false q.toNat))))

/-! ## Special registers, services, traps and returns, translation, contexts, leases -/

/-- R263, R264, R273, R414 (gsr, ssr, ssr sipi, ssr stcmp), R271 (tlbi.page, tlbi.ctx, tlbi.all), R272 (ipf): `gsr` gives the register's value to every
lane, or once, with latency 2; `ssr` writes the bits the register has, one write of latency 2; such a write of sipi, once it is visible, sets IPI of the steward
named or wakes it from the start wait at SSTART, and one of stcmp takes TIMER back where it lies above cyc; `tlbi` drops the translations it names from the issuing core's TLB, or from every core's and the hub's, where a release
has nothing to wait for and no access translated with them is in flight; `ipf` changes nothing. R262, R263, Table 2: what the special registers
read for a lane of a SIMT path or on a steward.
Of the model's own choices it uses those of log 9. -/
def Obligations.SpecialRegisterAndTlbInstructionsComplete : Prop :=
  (∀ (s : State) (f : F3) (u : Issuer),
    let code := f.x.toNat
    let x := s.read64 u f.a 0
    let writes := fun c v => Host.Outcome.next (φ := Fault) (ρ := Refusal) ((s.pushWrites u [(.sys c, [(0, v)])] 2).retire u f.sc)
    (s.ready? (.gsr f) (fun u => { ctrlReq false [gsrUse f] with may := sysReadable u code, uni := f.u, sys := [code] }) = some u →
      exec (.gsr f) s = .next ((s.pushWrites u (resultWrites f.d (sysWide code)
        ((if f.u then [0] else u.lanes).map fun t => (t, s.readSys u code t))) 2).retire u f.sc)) ∧
    (s.ready? (.ssr f) (fun u => { ctrlReq false [gUse f.a false] with may := sysWritable u code, sys := [code] }) = some u →
      exec (.ssr f) s = writes code (x &&& sysMask code)) ∧
    (s.ready? (.stcmpWrite f) (fun u => { ctrlReq false [gUse f.a false] with may := sysWritable u 0x37, sys := [0x37] }) = some u →
      exec (.stcmpWrite f) s = writes 0x37 x) ∧
    (s.ready? (.sipiWrite f) (fun u => { ctrlReq false [gUse f.a false] with may := sysWritable u 0x38, sys := [0x38] }) = some u →
      exec (.sipiWrite f) s = writes 0x38 x) ∧
    (∀ k at' seq,
      s.commitWrite (.steward k) { reg := .sys 0x38, vals := [(0, x)], visAt := at', seq := seq } =
        (s.modSteward (bits x.toNat 0 5) fun w => if w.start then { w with
            start := false, sup := true, svec := s.sstart, sie := 0, ipi := false, timer := false, sstat := 2
            path := { w.path with pc := s.sstart.setWidth 60, exec := 1, phase := .boundary } }
          else { w with ipi := true }) ∧
      s.commitWrite (.steward k) { reg := .sys 0x37, vals := [(0, x)], visAt := at', seq := seq } =
        s.modSteward k fun w => { w with stcmp := x, timer := w.timer && decide (x.toNat ≤ s.cyc (4096 + k)) }) ∧
    (let ctx := if f.b = .none then u.ctx else (s.read64 u f.b 0).toNat
     let drops := fun (ctx va : Option Nat) =>
      let drop := fun (l : List TlbEntry) => l.filter fun e => !e.named ctx va
      State.retire (if f.x.getLsbD 2 then
          { s with cores := s.cores.mapVals fun k => { k with tlb := drop k.tlb }, hubTlb := drop s.hubTlb }
        else s.modTlb u.core drop) u f.sc
     let inScope := fun c : Nat => f.x.getLsbD 2 || c == u.core
     s.deferredOf u.agent = [] → s.releaseIds u = [] →
     (s.ready? (.tlbiPage f) (fun u => { ctrlReq false (gUse f.a false :: (if f.b = .none then [] else [gUse f.b false])) with
          may := tlbiMay u f, defers := .all }) = some u → (f.b ≠ .none → ctx < 1024) → s.translatedIds inScope (some ctx) (some x.toNat) = [] →
        exec (.tlbiPage f) s = .next (drops (some ctx) (some x.toNat))) ∧
     (s.ready? (.tlbiCtx f) (fun u => { ctrlReq false [gUse f.b false] with may := tlbiMay u f, defers := .all }) = some u →
        (s.read64 u f.b 0).toNat < 1024 → s.translatedIds inScope (some (s.read64 u f.b 0).toNat) none = [] →
        exec (.tlbiCtx f) s = .next (drops (some (s.read64 u f.b 0).toNat) none)) ∧
     (s.ready? (.tlbiAll f) (fun u => { ctrlReq false [] with may := tlbiMay u f, defers := .all }) = some u → s.translatedIds inScope none none = [] →
        exec (.tlbiAll f) s = .next (drops none none))) ∧
    (s.ready? (.ipf f) (fun _ => ctrlReq false [gUse f.a false]) = some u → exec (.ipf f) s = .next (s.retire u f.sc))) ∧
  (∀ (s : State) (u : Issuer) (g : Group) (lane : Nat),
    (u.kind = .simt → s.readSys u 0x00 lane = BitVec.ofNat 64 lane ∧ s.readSys u 0x01 lane = BitVec.ofNat 64 (lane % 16) ∧
      s.readSys u 0x02 lane = BitVec.ofNat 64 (lane / 16)) ∧
    (u.kind ≠ .simt → s.readSys u 0x00 lane = 0 ∧ s.readSys u 0x01 lane = 0 ∧ s.readSys u 0x02 lane = 0) ∧
    (u.path.pend = [] →
      (u.kind = .simt → s.readSys u 0x03 lane = BitVec.ofNat 64 (u.core * 16 + u.slot) ∧ s.readSys u 0x04 lane = BitVec.ofNat 64 u.idx ∧
        s.readSys u 0x11 lane = BitVec.ofNat 64 (u.core / 16)) ∧
      s.readSys u 0x10 lane = BitVec.ofNat 64 u.core ∧ s.readSys u 0x12 lane = BitVec.ofNat 64 (dieOf u.core) ∧
      s.readSys u 0x13 lane = BitVec.ofNat 64 s.boot.pkgId ∧ s.readSys u 0x14 lane = BitVec.ofNat 64 u.ctx ∧
      s.readSys u 0x16 lane = BitVec.ofNat 64 (s.cyc u.core) ∧
      (u.path.loops = [] → s.readSys u 0x17 lane = 0) ∧
      (s.group? u.core u.slot = some g → u.kind = .simt → (∃ c i, u.agent = .path c u.slot i ∧ c = u.core) →
        s.readSys u 0x18 lane = BitVec.ofNat 64 g.wth)))

/-- R266 to R269 (svc, trap, brk): on a steward each enters supervisor level with the PC after the clause (R273); a `svc` of a SIMT
path with room on sv is entered as a command that follows the group's older operations, is counted, commits its region and ends its
clause; posted, it is queued as an event with its record, or completes at once with the results of the call it repeats; `trap` at user level is the software trap (0x10), at trap
level the end of the launch; `brk` at user level is the breakpoint trap (0x11) where the debug unit does not claim it. The record's
fault address is the next clause and its lease-id field is n. A clause with Y set ends with a yield after either trap too (R54).
Of the model's own choices it uses those of log 49, 53. -/
def Obligations.ServiceAndTrapInstructionsAct : Prop :=
  ∀ (s : State) (f : F3) (u : Issuer),
    let next := u.path.nextClause
    let info := fun (c : Byte) => ({ cause := c, faddr := next.setWidth 64, pc := u.path.wordAddr, lease := f.x.setWidth 32 } : FaultInfo)
    let yields := fun t : State =>
      if u.path.clause.header.getLsbD 36 ∧ (t.path? u.agent).any Path.splitWaits = false then t.yieldGroup u.agent else t
    let svcReq := fun u : Issuer => { ctrlReq true [gUse f.a false] with may := u.kind == .simt || (u.kind == .steward && !u.sup) }
    (∀ k, u.agent = .steward k →
      (s.ready? (.svc f) svcReq = some u → exec (.svc f) s = .next (s.stewardEnter k (next.setWidth 64) 0x40 (s.read64 u f.a 0))) ∧
      (s.ready? (.trap f) (fun _ => ctrlReq true []) = some u →
        exec (.trap f) s = .next (s.stewardEnter k (next.setWidth 64) 0x10 (f.x.setWidth 64))) ∧
      (s.ready? (.brk f) (fun _ => ctrlReq true []) = some u →
        exec (.brk f) s = .next (s.stewardEnter k (next.setWidth 64) 0x11 (f.x.setWidth 64)))) ∧
    (∀ (g : Group) (al : Alloc) (c sl i : Nat),
      let v := (s.read64 u f.a 0).toNat
      let bs := s.scratchRead u.core g.alloc v 64
      let call : Cmd := { s.newCmd u .svc bs with path := u.idx, bytes := v }
      let t := { s with nextId := s.nextId + 1, cmds := Assoc.set s.cmds s.nextId call }.modGroup u.core u.slot fun g =>
        { g with enqueued := g.enqueued + 1 }
      s.ready? (.svc f) svcReq = some u → u.agent = .path c sl i → s.group? u.core u.slot = some g →
      s.alloc? u.core g.alloc = some al → RecordStands s u g.alloc al v 64 → (s.rings u.agent).count .sv < 1023 →
      call.after = s.groupOps (s.ownerOf u) ∧
      exec (.svc f) s = .next (((t.enterRing u.agent .sv s.nextId).commitRegion u).endClause u next).postCalls) ∧
    (∀ (id : Nat) (c : Cmd),
      let cached := (s.context c.ctx).calls.find? fun k => k.svc.toNat = c.field 0 4 && k.token.toNat = c.field 8 8
      (∀ k, cached = some k → s.replayed c.ctx = false → s.postCall id c =
        ((({ s with cmds := Assoc.erase s.cmds id }.writeCall c k.status
          ((List.range 6).flatMap fun i => toBytes 8 (k.args.getD i 0).toNat)).logCall c).modRingsNamed c.uid fun r => r.complete .sv id)) ∧
      (cached = none → s.replayed c.ctx = false → s.postCall id c =
        { s with cmds := Assoc.set s.cmds id { c with started := true, handle := s.engine.nextHandle } }.postEvent 1 c.ctx
          (toBytes 4 c.gid ++ toBytes 4 c.bytes ++ List.replicate 0x28 0 ++ c.rec') false)) ∧
    (∀ c sl i, u.agent = .path c sl i →
      (s.ready? (.trap f) (fun _ => ctrlReq true []) = some u →
        exec (.trap f) s = .next (if u.path.lvl then
            (s.endClause u next).endLaunch u.launch 0x10 f.x (gidOf c sl) u.path.wordAddr none
          else yields (s.raise u (info 0x10)))) ∧
      (s.ready? (.brk f) (fun _ => ctrlReq true []) = some u →
        exec (.brk f) s = .next (if u.path.view.claimed u.ctx then
            (s.endClause u next).modPath u.agent fun p => { p with brk := true }
          else if u.path.lvl then s.endClause u next else yields (s.raise u (info 0x11))))) ∧
    (∀ c n, u.agent = .helper c n →
      (s.ready? (.trap f) (fun _ => ctrlReq true []) = some u → exec (.trap f) s = .next (s.raise u (info 0x10))) ∧
      (s.ready? (.brk f) (fun _ => ctrlReq true []) = some u → exec (.brk f) s = .next (s.raise u (info 0x11))))

/-- R270 (eret), R274 (sret), R275 (wfi), R273, R47 (the events STEWARD_ENTRY and STEWARD_TIMER): `eret` with an empty reconvergence stack
and a target that is a multiple of 8 puts the path back at user level at the target, with the fmt, loops and region it had saved;
`sret` restores the level from PL and IE from PIE, as it reads SSTAT at its place (R68); `wfi` goes on where an enabled interrupt is pending; an enabled interrupt at a
boundary at user level, or with IE = 1, enters supervisor level with cause 0x80 plus the lowest one; TIMER becomes pending when cyc
reaches STCMP.
Of the model's own choices it uses those of log 29. -/
def Obligations.ReturnsAndInterruptsAct : Prop :=
  ∀ (s : State) (f : F3) (u : Issuer) (k : Nat),
    let target := s.read64 u f.a 0
    let goal : PC := target.setWidth 60
    (∀ h, s.ready? (.eret f) (fun u => { ctrlReq true [gUse f.a false] with may := u.kind == .simt && u.path.lvl }) = some u →
      u.path.recon = [] → target.toNat % 8 = 0 → u.path.handler = some h →
      exec (.eret f) s = .next (((s.endClause u goal).modPath u.agent fun p => match p.handler with
        | none => p
        | some h => { p with fmt := h.saved.fmt, loops := h.saved.loops, rgpc := h.saved.rgpc, rgc := h.saved.rgc, snap := h.saved.snap
                             lvl := false, pc := goal, handler := none }).refreshBusy u.ctx)) ∧
    (s.ready? (.sret f) (fun u => { ctrlReq true [gUse f.a false] with may := u.kind == .steward && u.sup, sys := [0x34] }) = some u →
      target.toNat % 8 = 0 →
      exec (.sret f) s = .next ((s.endClause u goal).modSteward (u.core - 4096) fun w => { w with
        sup := (s.readSys u 0x34 0).getLsbD 1
        sstat := (w.sstat &&& ~~~1#64) ||| (if (s.readSys u 0x34 0).getLsbD 3 then 1 else 0)
        path := { w.path with pc := goal } })) ∧
    (s.ready? (.wfi f) (fun u => { ctrlReq true [] with may := u.kind == .steward && u.sup, sys := [0x35, 0x36] }) = some u →
      s.readSys u 0x35 0 &&& s.readSys u 0x36 0 ≠ 0 → exec (.wfi f) s = .next (s.endClause u u.path.nextClause)) ∧
    (∀ b < 6, k < 32 → (s.steward k).start = false → (s.steward k).path.phase.atBoundary = true →
      ((s.steward k).sup = false ∨ (s.steward k).sstat.getLsbD 0 = true) → (s.pendingEnabled k).testBit b = true →
      (∀ c < b, (s.pendingEnabled k).testBit c = false) →
      exec (.stewardEntry k) s = .next ((if b = 3 then { s with doorbells := [] } else s).stewardEnter k
        ((s.steward k).path.pc.setWidth 64) (0x80 + b) 0)) ∧
    (k < 32 → (s.steward k).stcmp.toNat ≤ s.cyc (4096 + k) → (s.steward k).timer = false →
      exec (.stewardTimer k) s = .next (s.modSteward k fun w => { w with timer := true }))

/-- R273: what entering supervisor level writes, whatever writes of the clause are still to come out: PL and NEST hold the level
before, PIE the interrupt enable before, IE is 0, UCTX is kept; SEPC, SCAUSE and STVAL hold what the entry names; the steward goes
on at SVEC, at supervisor level, at a clause boundary. -/
def Obligations.StewardEntrySavesAndGoesToSvec : Prop :=
  ∀ (s : State) (k cause : Nat) (epc tval : DWord), k < 32 → cause < 2 ^ 32 →
    let before := (s.commit (.steward k)).steward k
    let after := (s.stewardEnter k epc cause tval).steward k
    after.sup = true ∧ after.sepc = epc ∧ after.scause.toNat = cause ∧ after.stval = tval ∧
    after.sstat.getLsbD 0 = false ∧ after.sstat.getLsbD 3 = before.sstat.getLsbD 0 ∧ after.sstat.getLsbD 1 = before.sup ∧
    after.sstat.getLsbD 2 = before.sup ∧ bits after.sstat.toNat 16 10 = bits before.sstat.toNat 16 10 ∧
    after.svec = before.svec ∧ after.path.pc = before.svec.setWidth 60 ∧ after.path.phase = .boundary ∧
    after.g = before.g ∧ after.v = before.v ∧ after.sie = before.sie ∧ after.stcmp = before.stcmp ∧
    (s.stewardEnter k epc cause tval).mem = s.mem ∧
    ∀ j, j ≠ k → (s.stewardEnter k epc cause tval).steward j = (s.commit (.steward k)).steward j

/-- Tables 5 and 7 of the system chapter with R349 to R352 and R366 (lsread, lswrite, lsgrant, lsrecall): `lsread` reads a quadword of an entry of the lent or borrowed table;
`lswrite` of quadword 3 of a borrowed entry writes it; `lsgrant` grants the lease of a 32-byte image in memory and `lsrecall`
recalls one, each with its result in LSRES. Table 6 of that chapter with R276, R46 and R47 (ctxload, ctxsave, ctxkill, ctxmode), for a context number below 1,024: `ctxload` installs the image of 640 bytes at a
multiple of 64, where no group of the context is resident and none waits unless it is held; `ctxsave` writes the image: at once where each of
its bytes is the steward's to write at its home and nothing older of it is under way there, else by one operation, for whose end the steward
stalls (with no recording or replay of its context); `ctxkill`
ends its launches and, once none is left, forgets the context, its objects and its blocks; `ctxmode` writes CMODE, whose reserved
bits read as zero.
Of the model's own choices it uses those of log 22. -/
def Obligations.LeaseTableAndContextInstructionsComplete : Prop :=
  (∀ (s : State) (f : F3) (u : Issuer),
    let sel := (s.read64 u f.a 0).toNat
    let q := bits f.x.toNat 0 2
    let n := bits sel 0 13
    let withResult := fun (r : State × DWord) => (r.1.modSteward (u.core - 4096) fun w => { w with lsres := r.2 }).retire u f.sc
    (s.ready? (.lsread f) (fun u => boothReq u [gUse f.d true, gUse f.a false]) = some u → sel < 2 ^ 14 →
      exec (.lsread f) s = .next ((s.pushWrites u (resultWrites f.d true [(0, BitVec.ofNat 64 (bits
        (if bits sel 13 1 = 1 then (s.borrowed n).image else ((Assoc.get? s.booth.lent n).map Lent.image).getD 0) (64 * q) 64))]) 1).retire
          u f.sc)) ∧
    (s.ready? (.lswrite f) (fun u => boothReq u [gUse f.a false, gUse f.b false]) = some u → sel < 2 ^ 14 → bits sel 13 1 = 1 →
      exec (.lswrite f) s = .next (State.retire (if q = 3 then s.borrowedWrite n (s.read64 u f.b 0).toNat else s) u f.sc)) ∧
    (∀ bs as, s.ready? (.lsgrant f) (fun u => boothReq u [gUse f.a false]) = some u → sel % 32 = 0 → sel < 2 ^ 60 →
      s.placesOf u.core u.ctx u.path.view.root sel 32 .read = .ok as → s.olderThan (stewardOp u .load as) = [] →
      s.readRange u.core u.ctx u.path.view.root sel 32 .read = .ok bs →
      exec (.lsgrant f) s = .next (withResult (s.grantImage (ofBytes bs)))) ∧
    (s.ready? (.lsrecall f) (fun u => boothReq u [gUse f.a false]) = some u →
      exec (.lsrecall f) s = .next (withResult (s.recallLease ((s.read64 u f.a 0).setWidth 32))))) ∧
  (∀ (s : State) (f : F3) (u : Issuer) (bs : List Byte) (as : List Access),
    let ctx := (s.read64 u f.b 0).toNat
    let va := (s.read64 u f.a 0).toNat
    ctx < 1024 →
    (∀ k, s.ready? (.ctxload f) (fun u => ctxReq u [gUse f.a false] f.b) = some u → va % 64 = 0 → s.hasResident ctx = false →
      (s.hasWaiting ctx = true → (s.context ctx).held = true) → va < 2 ^ 60 →
      s.placesOf u.core u.ctx u.path.view.root va 640 .read = .ok as → s.olderThan (stewardOp u .load as) = [] →
      s.readRange u.core u.ctx u.path.view.root va 640 .read = .ok bs → (s.context ctx).ofImage bs = some k →
      exec (.ctxload f) s = .next (((s.modContext ctx fun _ => k).dropBlocks ctx 0 (2 ^ 60)).retire u f.sc)) ∧
    (s.ready? (.ctxsave f) (fun u => ctxReq u [gUse f.a false] f.b) = some u → va % 64 = 0 → va < 2 ^ 60 →
      let put := as.map fun a => { a with x := ofBytes (((s.context ctx).image.drop (a.va - va)).take a.len) }
      let o := stewardOp u .store put
      (u.path.woken = none → s.placesOf u.core u.ctx u.path.view.root va 640 .write = .ok as → s.recorded u.ctx = false →
        s.replayed u.ctx = false →
        ((∀ a ∈ as, s.turnOf u.uid a = true) → s.olderThan o = [] →
          exec (.ctxsave f) s = .next ((put.foldl (fun s' a =>
            ((s'.storeAt u.uid u.core a.tgt (toBytes a.len a.x)).map (·.1)).getD s') s).retire u f.sc)) ∧
        ((s.olderThan o ≠ [] ∨ ∃ a ∈ as, s.turnOf u.uid a = false) → (s.rings u.agent).count .st < 1023 →
          exec (.ctxsave f) s = .next (State.stall ((State.enterRing { s with nextId := s.nextId + 1, ops := Assoc.set s.ops s.nextId { o with
            seq := s.seqOf u.agent, born := s.cyc u.core } } u.agent .st s.nextId).modPath u.agent fun p => { p with woken := some false })
              u (.drain [s.nextId])))) ∧
      (u.path.woken = some false → exec (.ctxsave f) s = .next (s.retire u f.sc))) ∧
    (let t := s.endLaunches ctx 0xFF
     s.ready? (.ctxkill f) (fun u => ctxReq u [] f.b) = some u → (∀ r ∈ t.engine.running, r.2.ctx ≠ ctx) →
      exec (.ctxkill f) s = .next (State.retire (State.dropBlocks { t with
        objects := t.objects.filter fun o => o.ctx != ctx
        contexts := Assoc.erase t.contexts ctx } ctx 0 (2 ^ 60)) u f.sc)) ∧
    (s.ready? (.ctxmode f) (fun u => ctxReq u [gUse f.a false] f.b) = some u →
      exec (.ctxmode f) s = .next ((s.modContext ctx fun k => { k with cmode := s.read64 u f.a 0 &&& 0x3FF7 }).retire u f.sc)))

/-! ## Clauses: boundary, header, fetch, selection -/

/-- R52, R53, R159, R273, R375, R376, R379, R380, R428 (the events CLAUSE_BOUNDARY, CLAUSE_HEADER, CLAUSE_FETCH, ICACHE_FILL,
ISSUE_SELECTION, PATH_AGED, STALL_CLEAR). A path at a boundary takes its steps and stands at a header; a header that can be fetched and
is legal makes the path ready or waiting, under the state of its context as it is then (R47); a selected path's clause is fetched and
begins, or misses, or an enabled breakpoint at it holds a path of a group, and is traced for a helper; a filled path is ready again; the core selects what `pickPaths` picks;
a path ready for 1,024 cycles is aged; a stall that has cleared ends. A steward for which an enabled interrupt is pending passes none of
the three. R52 step 1, R53, R40: a header whose tag, reserved bits or WAIT codes are not legal raises illegal encoding at its own
address; a header that the path may not fetch raises the cause of its translation there.
Of the model's own choices it uses those of log 4, 7. -/
def Obligations.ClauseEventsComplete : Prop :=
  (∀ (s : State) (a : Agent) (u : Issuer), s.issuer? a = some u →
    let v := u.refresh s
    let quiet := u.path.hold = false ∧ s.mustEnter a = false ∧ u.poisoned none = []
    (u.path.phase = .boundary → s.heldLeaver a = false → s.stopped a = false → s.mustEnter a = false →
      (∀ k, a = .steward k → (s.steward k).start = false ∧ 2 ≤ s.bringup.stage) →
      (∀ c sl i, a = .path c sl i → s.awaitsHelpers u = false ∧ (u.path.lvl = true → s.hubWritesFor u.ctx = false)) →
      (∀ c n h, a = .helper c n → s.helper? c n = some h → h.leaving = false ∧ u.poisoned none = []) →
      exec (.clauseBoundary a) s = .next (match a with
        | .path c sl i => s.pathBoundary c sl i
        | .helper c _ => (s.refreshKeys c).setPath a { u.path with view := s.viewOf u.ctx, phase := .header, clause := {} }
        | .steward _ => s.setPath a { u.path with view := s.viewOf u.ctx, phase := .header, clause := {} })) ∧
    (∀ h, quiet → u.path.phase = .header → s.fetchWords v u.path.pc.toNat 1 = .ok [h] → headerOk h = true →
      (s.deferredOf u.agent).find? (FaultInfo.atHeader h) = none →
      exec (.clauseHeader a) s = .next (s.arm v h)) ∧
    (quiet → u.path.phase = .waiting → s.waitsHold a u.path.clause.header = true →
      (s.deferredOf u.agent).find? (FaultInfo.atHeader u.path.clause.header) = none →
      exec (.clauseHeader a) s = .next (s.arm v u.path.clause.header)) ∧
    (∀ ws, quiet → (u.path.phase = .selected ∨ (u.kind = .steward ∧ u.path.phase = .armed)) →
      s.waitsHold a u.path.clause.header = true → s.fetchClause v = .ok ws →
      (∀ c sl i g, a = .path c sl i → s.group? c sl = some g → s.interruptible? c sl g = none) →
      let t := s.cacheRange u.core u.ctx v.path.view.root u.path.pc.toNat (8 * (ws.length + 1)) .fetch
      let hits := if u.path.clause.header.getLsbD 34 && !u.path.passed then v.path.view.breakpoints u.ctx u.path.pc else []
      ((hits = [] ∨ ∃ k, a = .steward k) → exec (.clauseFetch a false) s = .next (t.setPath a (v.path.beginClause ws (t.seqOf a).seq))) ∧
      (∀ c n, a = .helper c n → hits ≠ [] → exec (.clauseFetch a false) s = .next (
        let q := if hits.any fun b => b.getLsbD 2 then t.trace 1 c u.slot 16 u.path.pc u.path.exec else t
        q.setPath a (v.path.beginClause ws (q.seqOf a).seq))) ∧
      (∀ c sl i, a = .path c sl i → hits ≠ [] → exec (.clauseFetch a false) s = .next (
        ((if hits.any fun b => b.getLsbD 2 then t.trace 1 c sl i u.path.pc u.path.exec else t).setPath a
          { v.path.beginRegion with phase := .armed, passed := true }).setHold c sl i)) ∧
      (u.path.present = false → u.core < 4096 →
        exec (.clauseFetch a true) s = .next ((t.setPath a { v.path with phase := .missed, present := false }).modCore u.core fun k =>
          { k with slips := k.slips + 1 }))) ∧
    (∀ p, s.path? a = some p → p.phase = .missed → (∀ m k, s.fetchClause v = .error (m, k) → m.waits = none) →
      exec (.icacheFill a) s = .next (s.setPath a { p with phase := .armed, present := true })) ∧
    (s.isReady a u.path = true → u.path.aged = false → Nat.max u.path.readyAt u.path.since + 1024 ≤ s.cyc u.core →
      exec (.pathAged a) s = .next (s.setPath a { u.path with aged := true })) ∧
    (∀ why, u.path.phase = .stalled why → (∀ f, why ≠ .refer f) → s.stallCleared u why = true → s.stopped a = false →
      s.awaitsHelpers u = false → (u.path.bite = true → u.path.hold = true) →
      exec (.stallClear a) s = .next (s.setPath a (if u.path.clause.words = [] then { u.path with phase := .boundary }
        else { u.path with phase := if u.kind = .steward then .issuing else .resumable, since := s.cyc u.core }))) ∧
    (∀ core, let all := s.candidates core
      let busy := (all.filter fun c => c.2.phase.holdsSlices).flatMap fun c => c.1.slices
      let chosen := pickPaths ((all.filter fun c => s.isReady c.1.agent c.2).map (·.1)) busy 4
      let n := (s.core core).picks + 1
      chosen ≠ [] →
      exec (.issueSelection core) s = .next (chosen.foldl (fun s c => s.modPath c.agent fun p =>
        if p.phase = .resumable then { p with phase := .issuing, aged := false, pick := n, pickAt := p.spent }
        else { p with phase := .selected, pick := n, pickAt := 0 }) (s.modCore core fun k => { k with picks := n })))) ∧
  (∀ (s : State) (a : Agent) (u : Issuer), s.issuer? a = some u → u.path.hold = false → s.mustEnter a = false →
    u.path.phase = .header → u.poisoned none = [] →
    let v := u.refresh s
    (∀ h, s.fetchWords v u.path.pc.toNat 1 = .ok [h] →
      (bits h.toNat 59 5 ≠ 31 ∨ bits h.toNat 0 24 ≠ 0 ∨ bits h.toNat 47 2 = 3 ∨ bits h.toNat 45 2 = 3 ∨ bits h.toNat 43 2 = 3 ∨
        bits h.toNat 41 2 = 3 ∨ bits h.toNat 39 2 = 3 ∨ bits h.toNat 37 2 = 3) →
      exec (.clauseHeader a) s =
        .next (s.raise v { cause := 0x01, faddr := u.path.pc.setWidth 64, pc := u.path.pc })) ∧
    (∀ m va, s.fetchWords v u.path.pc.toNat 1 = .error (m, va) → m.waits = none →
      let t := s.raise v { cause := m.cause, faddr := BitVec.ofNat 64 va, pc := u.path.pc, lease := m.lease, global := true }
      t ≠ s → exec (.clauseHeader a) s = .next t))

/-- R376, R375: the paths a core selects together hold disjoint slices, none of a slice already held, and the first of them is one
that no other path with free slices goes before. -/
def Obligations.SelectedPathsHoldDisjointSlices : Prop :=
  ∀ (cs : List Candidate) (taken : List Nat) (n : Nat),
    (pickPaths cs taken n).Pairwise (fun c d => ∀ l ∈ c.slices, l ∉ d.slices) ∧
    (∀ c ∈ pickPaths cs taken n, c ∈ cs ∧ ∀ l ∈ c.slices, l ∉ taken) ∧
    (∀ c rest, pickPaths cs taken n = c :: rest → ∀ d ∈ cs, (∀ l ∈ d.slices, l ∉ taken) → d.better c = false)

/-! ## Operations in flight -/

/-- R326, R300 (LOAD_COMPLETE, STORE_COMPLETE, ATOMIC_COMPLETE): where no older operation of its threads orders an operation, its accesses
are attempted (`AccessesPerform` says what each does); once all have performed and no completion is awaited, it ends: `finish`
delivers its values and moves its counter's ring. While an older operation orders it, none of the three happens. R328 (COMBINE_FLUSH): an entry of a core's buffer that is 64 cycles old goes on to its cluster's, and one of a cluster's goes to the
home as one reduction that carries the operations combined in it.
Of the model's own choices it uses those of log 6. -/
def Obligations.OperationsComplete : Prop :=
  (∀ (s : State) (id : Nat) (o o' : Op), Assoc.get? s.ops id = some o →
    (s.mayPerform id o = true → Assoc.get? (s.attempt id).ops id = some o' → o'.todo = [] → o'.awaits = 0 →
      (o.kind.ctr = .ld → exec (.loadComplete id) s = .next ((s.attempt id).finish id o')) ∧
      (o.kind.ctr = .st → exec (.storeComplete id) s = .next ((s.attempt id).finish id o')) ∧
      (o.kind.ctr = .am → exec (.atomicComplete id) s = .next ((s.attempt id).finish id o'))) ∧
    (s.mayPerform id o = false →
      exec (.loadComplete id) s = .fault .notEnabled ∧ exec (.storeComplete id) s = .fault .notEnabled ∧
      exec (.atomicComplete id) s = .fault .notEnabled)) ∧
  (∀ (s : State) (unit entry : Nat) (c : Combined),
    (∀ m, (s.core unit).combine[entry]? = some c → c.born + 64 ≤ s.cyc unit →
      combineInto 256 (Assoc.getD s.clusters (unit / 16) []) c = some m →
      exec (.combineFlush false unit entry) s = .next ({ s with clusters := Assoc.set s.clusters (unit / 16) m }.modCore unit fun k =>
        { k with combine := (s.core unit).combine.eraseIdx entry })) ∧
    (Assoc.sorted s.clusters = true → (Assoc.getD s.clusters unit [])[entry]? = some c → c.born + 64 ≤ s.cyc (16 * unit) →
      ∃ t o, exec (.combineFlush true unit entry) s = .next t ∧ Assoc.getD t.clusters unit [] = (Assoc.getD s.clusters unit []).eraseIdx entry ∧
        Assoc.get? t.ops s.nextId = some o ∧ o.kind = .red c.op ∧ o.todo = [c.acc] ∧ o.carries = c.ops ∧ t.mem = s.mem))

/-- R193, R195 to R201, R322, R328, R370 (with no recording or replay): what one access of an operation does once its place is at hand
and no access of a lower lane to that place is to perform before it. A load takes the bytes read there, or the error of the read; a
store writes its datum there; `ldx` writes the bytes read into the allocation, and `stx` writes the allocation's bytes; an atomic writes
its operation's result and, with return, takes the old value; so does a reduction that no buffer combines; one that a buffer takes
waits there for its completion; an element of a pool reduction is updated by its operation. After a write the copies that it concerns
follow it: none where the operation is a thread's own, those of the threads whose reductions it carries, and none is left where it is an
engine's.
Of the model's own choices it uses those of log 6, 12. -/
def Obligations.AccessesPerform : Prop :=
  ∀ (s r : State) (id : Nat) (o : Op) (acc : Access), s.fomar.ctl.getLsbD 0 = false → s.fomar.active = false → r.fomar = s.fomar →
    o.behind acc = false →
    let update := fun (f : Nat → Nat) n m =>
      s.updateAt id o.core acc.mode (o.scope.num < 3 && acc.mode != .uncached) acc.tgt acc.len f = some (r, n, .ok m)
    let updated := fun (op : AtomOp) n m => update (fun m => op.apply acc.len m acc.x acc.y) n m
    let wrote := fun (bs : List Byte) => r.settleCopies o acc.tgt bs
    let made := fun (op : AtomOp) (m : Nat) => wrote (toBytes acc.len (op.apply acc.len m acc.x acc.y))
    (o.carries = [] → o.discards = none → ∀ bs, wrote bs = r) ∧
    (∀ bs, o.kind = .load → s.freshLoad o.core acc.mode acc.tgt acc.len = some (r, .ok bs) →
      s.perform? id o acc = some (r.settle id acc 0 (.ok (some (ofBytes bs))))) ∧
    (∀ e, o.kind = .load → s.freshLoad o.core acc.mode acc.tgt acc.len = some (r, .error e) →
      s.perform? id o acc = some (r.settle id acc 0 (.error e))) ∧
    (∀ n, o.kind = .store → s.storeAt id o.core acc.tgt (toBytes acc.len acc.x) = some (r, n, none) →
      s.perform? id o acc = some ((wrote (toBytes acc.len acc.x)).settle id acc n (.ok none))) ∧
    (∀ al bs, o.kind = .ldx al → s.freshLoad o.core acc.mode acc.tgt acc.len = some (r, .ok bs) →
      s.perform? id o acc = some ((r.scratchWrite o.core al acc.x (toBytes acc.len (ofBytes bs))).settle id acc 0 (.ok none))) ∧
    (∀ al n, o.kind = .stx al → s.storeAt id o.core acc.tgt (s.scratchRead o.core al acc.x acc.len) = some (r, n, none) →
      s.perform? id o acc = some ((wrote (s.scratchRead o.core al acc.x acc.len)).settle id acc n (.ok none))) ∧
    (∀ op ret n m, o.kind = .atom op ret → updated op n m →
      s.perform? id o acc = some ((made op m).settle id acc n (.ok (if ret then some m else none)))) ∧
    (∀ op n m, o.kind = .red op → o.combines acc = false → updated op n m →
      s.perform? id o acc = some ((made op m).settle id acc n (.ok none))) ∧
    (∀ op l, o.kind = .red op → o.combines acc = true →
      combineInto 32 (s.core o.core).combine
        { ctx := o.ctx, acc := acc, op := op, size := acc.len, ops := [id], born := s.cyc o.core } = some l →
      s.perform? id o acc = some ((s.modCore o.core fun k => { k with combine := l }).settle id acc 1 (.ok none))) ∧
    (∀ opx fmt n m, o.kind = .pool opx fmt →
      let f := fun m => poolElement (reduceEnv fmt) (bits opx 0 4) (bits opx 4 4) m acc.x
      update f n m → s.perform? id o acc = some ((wrote (toBytes acc.len (f m))).settle id acc n (.ok none)))

/-- R195, R322, R310: a store to HBM4E or the pool, of a line that no other package holds and away from the hub's registers, writes its
bytes into memory and no other byte of it; no register, allocation or steward changes with it.
Of the model's own choices it uses those of log 44. -/
def Obligations.StoresWriteTheirBytesAndNoOthers : Prop :=
  ∀ (s : State) (id core pa : Nat) (bs : List Byte), s.mem.wf = true → bs.length ≤ 64 →
    Assoc.get? s.booth.dir (pa / 64) = none → (pa + bs.length ≤ hubArea ∨ hubArea + 0x10000000 ≤ pa) →
    ∃ t : State, s.storeAt id core (.phys pa) bs = some (t, 0, none) ∧ t.mem.wf = true ∧
      (∀ (k : Nat) (h : k < bs.length), t.mem.read (pa + k) = bs[k]) ∧
      (∀ x, x < pa ∨ pa + bs.length ≤ x → t.mem.read x = s.mem.read x) ∧
      (∀ c, (t.core c).slots = (s.core c).slots ∧ (t.core c).allocs = (s.core c).allocs ∧ (t.core c).helpers = (s.core c).helpers) ∧
      t.stewards = s.stewards ∧ t.contexts = s.contexts ∧ t.ops = s.ops ∧ t.cmds = s.cmds ∧ t.booth = s.booth

/-- R30, R195, R196: a load of an allocation reads its bytes; a store into one, that meets no barrier object of it, writes its bytes and
leaves every other byte, and memory, alone. R195, R322: an uncached load of HBM4E or the pool, with no uncorrectable word in it and no register of the hub, reads the bytes
of memory and changes nothing. R200, R203, R317: an atomic or a reduction, an update by a function of the old value, takes the value that stands at its
place, in memory (of a line that no other package holds, away from the hub's registers, with no copy in an L1 where it is made there) or in an
allocation, writes the function's result there, and leaves every other byte alone.
Of the model's own choices it uses those of log 44. -/
def Obligations.LoadsAndScratchpadStoresReachTheirBytes : Prop :=
  (∀ (s : State) (id core al off : Nat) (mode : CacheMode) (bs : List Byte) (x : Alloc), s.alloc? core al = some x →
    s.loadAt core mode (.scratch core al off) bs.length = some (s, .ok (x.bytes.readN off bs.length)) ∧
    (16 * x.bars ≤ off → x.bytes.wf = true →
      ∃ t y, s.storeAt id core (.scratch core al off) bs = some (t, 0, none) ∧ t.alloc? core al = some y ∧ t.mem = s.mem ∧
        (∀ (k : Nat) (h : k < bs.length), y.bytes.read (off + k) = bs[k]) ∧
        (∀ i, i < off ∨ off + bs.length ≤ i → y.bytes.read i = x.bytes.read i) ∧
        (t.core core).slots = (s.core core).slots)) ∧
  (∀ (s : State) (core pa n : Nat), s.poisonIn pa n = none → (pa + n ≤ hubArea ∨ hubArea + 0x10000000 ≤ pa) →
    s.loadAt core .uncached (.phys pa) n = some (s, .ok (s.mem.readN pa n))) ∧
  (∀ (s : State) (id core pa size : Nat) (mode : CacheMode) (atL1 : Bool) (f : Nat → Nat), s.mem.wf = true → size ≤ 8 → pa % 64 + size ≤ 64 →
    Assoc.get? s.booth.dir (pa / 64) = none → (pa + size ≤ hubArea ∨ hubArea + 0x10000000 ≤ pa) → s.poisonIn pa size = none →
    (atL1 = true → s.copy? core mode (.phys (pa / 64)) = none) →
    ∃ t : State, s.updateAt id core mode atL1 (.phys pa) size f = some (t, 0, .ok (s.mem.load pa size)) ∧ t.mem.wf = true ∧
      t.mem.load pa size = f (s.mem.load pa size) % 2 ^ (8 * size) ∧
      (∀ x, x < pa ∨ pa + size ≤ x → t.mem.read x = s.mem.read x) ∧
      ∀ c, (t.core c).slots = (s.core c).slots ∧ (t.core c).allocs = (s.core c).allocs ∧ (t.core c).helpers = (s.core c).helpers) ∧
  (∀ (s : State) (id core al off size : Nat) (mode : CacheMode) (atL1 : Bool) (f : Nat → Nat) (x : Alloc), s.alloc? core al = some x →
    x.bytes.wf = true → 16 * x.bars ≤ off →
    ∃ t y, s.updateAt id core mode atL1 (.scratch core al off) size f = some (t, 0, .ok (x.bytes.load off size)) ∧
      t.alloc? core al = some y ∧ y.bytes.load off size = f (x.bytes.load off size) % 2 ^ (8 * size) ∧ t.mem = s.mem ∧
      (∀ i, i < off ∨ off + size ≤ i → y.bytes.read i = x.bytes.read i) ∧ (t.core core).slots = (s.core core).slots)

/-- R200, Table 2 of the memory-access chapter: what each integer atomic writes, for a memory value and a datum that fit. R328, R200: two reductions of one place combine into one whose datum is their operation's. -/
def Obligations.AtomicOperationsCompute : Prop :=
  (∀ (size m x y : Nat), (size = 4 ∨ size = 8) → m < 2 ^ (8 * size) → x < 2 ^ (8 * size) →
    AtomOp.apply .add size m x y = (m + x) % 2 ^ (8 * size) ∧ AtomOp.apply .minN size m x y = Nat.min m x ∧
    AtomOp.apply .maxN size m x y = Nat.max m x ∧ AtomOp.apply .exch size m x y = x ∧
    AtomOp.apply .cas size m x y = (if m = x then y else m) ∧
    AtomOp.apply .and size m x y = m &&& x ∧ AtomOp.apply .or size m x y = m ||| x ∧ AtomOp.apply .xor size m x y = m ^^^ x ∧
    (BitVec.ofNat (8 * size) (AtomOp.apply .minS size m x y)).toInt =
      min (BitVec.ofNat (8 * size) m).toInt (BitVec.ofNat (8 * size) x).toInt ∧
    (BitVec.ofNat (8 * size) (AtomOp.apply .maxS size m x y)).toInt =
      max (BitVec.ofNat (8 * size) m).toInt (BitVec.ofNat (8 * size) x).toInt) ∧
  (∀ (c d : Combined) (m : Nat), c.matches d = true → (c.size = 4 ∨ c.size = 8) → m < 2 ^ (8 * c.size) →
    c.acc.x < 2 ^ (8 * c.size) → d.acc.x < 2 ^ (8 * c.size) → c.op ∈ [AtomOp.add, .minN, .maxN, .minS, .maxS, .and, .or, .xor] →
    c.op.apply c.size m (c.join d).acc.x 0 = c.op.apply c.size (c.op.apply c.size m c.acc.x 0) d.acc.x 0)

/-! ## The codec -/

/-- R315, R337, R338, R341 (CODEC_LOAD, CODEC_WRITE_STEP), for an operation in turn with accesses to one block: a load of a block that
decodes is settled, with the decoded bytes, on every lane that loads from it; a write step, for a store or an atomic, that writes the block settles
every lane of it, an atomic with return with the element that it found; a write step whose counter block is not at hand waits for it.
Of the model's own choices it uses those of log 39 to 41 and 102. -/
def Obligations.CodecEventsComplete : Prop :=
  ∀ (s r : State) (op block : Nat) (o : Op) (w : Window) (va : Nat) (ps : List (Nat × Nat)),
    let as := o.inBlock block
    let by' := o.writer op ((as.head?.map (·.lane)).getD 0)
    let after := r.counterDone by' w
    let merge := fun (bs : List Byte) => as.foldl (fun (acc : List Byte × List Nat) a =>
      let x := a.merge o.kind (toBytes a.len a.x) acc.1
      (x.1, acc.2 ++ [x.2])) (bs, [])
    Assoc.get? s.ops op = some o → as.head?.map Access.tgt = some (.block w va ps) → s.mayPerform op o = true →
    s.fomar.ctl.getLsbD 0 = false → s.fomar.active = false → r.fomar = s.fomar → after.fomar = s.fomar →
    (∀ bs, o.kind = .load → s.blockLoad o.core o.ctx w va ps = (r, .ok bs) →
      exec (.codecLoad op block) s = .next (as.foldl (fun s a => s.settle op a 0 (.ok (some (ofBytes ((bs.drop (a.va % 64)).take a.len))))) r)) ∧
    (o.kind = .store → s.counterKept? by' w = none →
      let whole := (List.range 64).all fun k => as.any fun a => a.va % 64 ≤ k && k < a.va % 64 + a.len
      s.writeBlock by' w va ps o.nfp whole (as.flatMap (·.elements))
        (fun bs => as.foldl (fun bs a => bs.take (a.va % 64) ++ toBytes a.len a.x ++ bs.drop (a.va % 64 + a.len)) bs) = (r, .written) →
      exec (.codecWriteStep op block) s = .next (as.foldl (fun s a => s.settle op a 0 (.ok none)) after)) ∧
    (∀ f ret, o.kind = .atom f ret → s.counterKept? by' w = none →
      let before := blockBytes ((decodeBlock w.k (s.pieceBytes ps)).getD (List.replicate 8 0))
      s.writeBlock by' w va ps o.nfp false (as.flatMap (·.elements)) (fun bs => (merge bs).1) = (r, .written) →
      exec (.codecWriteStep op block) s = .next ((as.zip (merge before).2).foldl
        (fun s p => s.settle op p.1 0 (.ok (if ret then some p.2 else none))) after)) ∧
    (∀ t, (o.kind = .store ∨ ∃ f ret, o.kind = .atom f ret) → s.counterKept? by' w = some t → t ≠ s →
      exec (.codecWriteStep op block) s = .next t)

/-- R333 to R336: the inverse transform gives back every eight integers; at k = 8 decoding gives back every eight FP64 values; at
every budget below 8 the encoding of finite values is 8k bytes and is not malformed; a block of zeros is encoded as zeros. -/
def Obligations.CodecEncodingsDecode : Prop :=
  (∀ a b c d e f g h : Int, untransform (transform [a, b, c, d, e, f, g, h]) = [a, b, c, d, e, f, g, h]) ∧
  (∀ xs : List Nat, xs.length = 8 → (∀ x ∈ xs, x < 2 ^ 64) → decodeBlock 8 (encodeBlock 8 xs) = some xs) ∧
  (∀ (k : Nat) (xs : List Nat), 1 ≤ k → k < 8 → xs.length = 8 → (∀ x ∈ xs, x < 2 ^ 64 ∧ isFinite64 x = true) →
    (encodeBlock k xs).length = 8 * k ∧ (decodeBlock k (encodeBlock k xs)).isSome = true ∧
    ((∀ x ∈ xs, x % 2 ^ 63 = 0) → encodeBlock k xs = List.replicate (8 * k) 0))

/-! ## Engine commands -/

/-- R112, R114, R236, R239 to R244, R370, R371 (TILE_TASK_START, TILE_TASK_COMPLETE, ENGINE_FAULT, the progress of each copy kind,
BYTE_COUNT_PORTION, COPY_COMPLETE). A copy that may run reads the bytes of its step from their places and writes those that its kind
makes of them to theirs, and owes what it wrote to its byte-count barrier; it begins with its acquire. Once its last access has been
made and nothing is owed, it ends. A tile task starts, or goes on at its (RUN, ROW), when no other of its core runs, with its tiles as
zero where ZA says so at the first start; it updates rows of its run at its engine's pace; its last run done, the stamp is written, and
when its writes are home it ends. A command that meets a fault stalls or stops. An engine's accesses, with no replay: in its group's
allocation it reads the bytes there and writes those given, away from barrier objects; a part of a line of HBM4E or the pool that no
other package holds, away from the hub's registers, with no earlier write of the command on its way, is read at the home, with no
uncorrectable word in it, and written there; an element of a pool reduction is updated there by its operation; each leaves every other
byte alone. The rows of a run that a tile task reads give every element of them of each tile the run's sum of products, added with one
rounding to nearest even; every other element stays; (RUN, ROW) goes on by those rows.
Of the model's own choices it uses those of log 13, 14, 47, 50, 54. -/
def Obligations.EngineEventsComplete : Prop :=
  (∀ (s : State) (id n : Nat) (c : Cmd),
    let begun := if c.started then s
      else (s.cmdAcquire c (c.flag 3) (c.field 2 1)).modCmd id fun c => { c with started := true, begun := s.cyc c.core }
    let moved := fun (t : State) (k w : Nat) => Host.Outcome.next (φ := Fault) (ρ := Refusal)
      (t.modCmd id fun c => { c with bytes := c.bytes + k, owed := (if c.flag 2 then c.owed + w else 0), got := [] })
    -- LEN, ROWS and AUX; a byte of a row of the source and of the destination
    let len := c.field 0x0C 4
    let aux := c.field 0x38 8
    let place := fun (l : Bool) (a : Nat) => if l then Loc.scratch (a % 2 ^ 64) else Loc.global (a % 2 ^ 64)
    let src := fun r o => place (c.flag 0) (c.field 0x10 8 + (r * c.field 0x20 8 + o))
    let dst := fun r o => place (c.flag 1) (c.field 0x18 8 + (r * c.field 0x28 8 + o))
    let row := c.bytes / len
    let off := c.bytes % len
    let rest := Nat.min n (len - c.bytes)
    let part := Nat.min n (len - off)
    (s.runnable? id .copy = some c → c.finished = false →
      (∀ (b t : State) (bs : List Byte), 0 < n →
        (c.copyKind = 1 → begun.engineRead id c (src 0 c.bytes) rest 1 false = .done (b, bs) →
          b.engineWrite id c (dst 0 c.bytes) bs false = .done t → exec (.copyKindCopy id n) s = moved t rest rest) ∧
        (c.copyKind = 2 → begun.engineRead id c (src row off) part 1 false = .done (b, bs) →
          b.engineWrite id c (dst row off) bs false = .done t → exec (.stridedCopy id n) s = moved t part part) ∧
        (let x := if off = 0 then ofBytes (begun.scratchRead c.core c.alloc (aux % 2 ^ 32 + 4 * row) 4) else c.row
         c.copyKind = 3 → begun.engineRead id c (src x off) part 1 false = .done (b, bs) →
          b.engineWrite id c (dst row off) bs false = .done t →
          exec (.gather id n) s = moved (t.modCmd id fun c => { c with row := x }) part part) ∧
        (c.copyKind = 4 → bs = (List.range rest).map (fun k => (toBytes 8 aux).getD ((c.bytes + k) % 8) 0) →
          begun.engineWrite id c (dst 0 c.bytes) bs true = .done t → exec (.poolFill id n) s = moved t rest rest)) ∧
      (∀ (b b' : State) (x y : List Byte), c.copyKind = 5 → c.result = none → begun.engineRead id c (src 0 0) len 1 true = .done (b, x) →
        b.engineRead id c (dst 0 0) len 1 true = .done (b', y) →
        (x = y → firstMismatch x y = 2 ^ 64 - 1) ∧
        (∀ k, k < x.length → x[k]? ≠ y[k]? → (∀ j, j < k → x[j]? = y[j]?) → firstMismatch x y = k) ∧
        exec (.poolCompare id) s = moved (b'.modCmd id fun c => { c with result := some (toBytes 8 (firstMismatch x y)) }) len len) ∧
      (∀ (t : State) (r : List Byte), c.copyKind = 5 → c.result = some r → begun.engineWrite id c (.global aux) r false = .done t →
        exec (.poolCompare id) s = moved (t.modCmd id fun c => { c with row := 1 }) 0 0) ∧
      (let size := opxBytes (bits (c.field 0x0A 2) 0 4)
       ∀ (b t : State) (bs : List Byte), c.copyKind = 6 → bits (c.field 0x0A 2) 0 4 ≠ 0xF → c.flag 1 = false →
        begun.engineRead id c (src 0 c.bytes) size size true = .done (b, bs) →
        b.engineUpdate id c (.pool (c.field 0x0A 2) c.fmt) ((c.field 0x18 8 + c.bytes) % 2 ^ 64) size (ofBytes bs) true = .done t →
        exec (.poolReduce id size) s = moved t size size) ∧
      (∀ ls, c.copyKind = 8 → 0 < n → begun.rangeLines id c (c.field 0x10 8 + c.bytes) rest true = .ok ls →
        (∀ l ∈ ls, ∀ g ∈ c.got, g.1 = l.2 → g.2 ≠ none) →
        (∀ l ∈ ls, (∃ g ∈ c.got, g.1 = l.2) ∨ (begun.lentRead? l.2.1 l.2.2).isSome = true) → exec (.leasePrefetch id n) s = moved begun rest rest) ∧
      (∀ all ls, c.copyKind = 9 → 0 < n → begun.rangeLines id c (c.field 0x10 8) len false = .ok all →
        begun.rangeLines id c (c.field 0x10 8 + c.bytes) rest false = .ok ls →
        (∀ l ∈ all, ∀ x, begun.line? l.2.1 l.2.2 = some x → x.wrs = []) →
        let t := ls.foldl (fun s l => s.evict l.2.1 l.2.2) begun
        (∀ l ∈ ls, t.line? l.2.1 l.2.2 = none) → exec (.leaseWriteBack id n) s = moved t rest rest) ∧
      (let i := c.bytes / c.blockSizes.1
       ∀ (b t : State) (bs : List Byte), c.copyKind = 10 → begun.engineRead id c (src 0 c.bytes) c.blockSizes.1 1 false = .done (b, bs) →
        b.engineWrite id c (dst 0 (i * c.blockSizes.2)) (if c.fromMx then mxToBfp c.mxType c.bfpWidth aux (32 * i) bs
          else bfpToMx c.mxType c.bfpWidth aux (32 * i) bs) false = .done t →
        exec (.formatConversion id 1) s = moved t c.blockSizes.1 c.blockSizes.2)) ∧
    (∀ (t : State) (bs : List Byte), s.runnable? id .copy = some c → c.finished = false → c.copyKind = 7 → c.result = none → c.row ≠ 1 →
      s.instanceBroken? c = none → c.started = true → s.engineRead id c (src 0 0) len 1 false = .done (t, bs) →
      exec (.fabricReduce id) s = moved ((t.modCmd id fun c => { c with row := 1 }).contribute c.aux c.inst c.len (c.field 0x0A 2)
        (elementsOf (bits (c.field 0x0A 2) 0 4) c.bfpWidth bs) (some id) none) 0 0) ∧
    (∀ al, Assoc.get? s.cmds id = some c → c.owed ≠ 0 → c.awaits = 0 → c.refer = none → s.alloc? c.core c.alloc = some al →
      exec (.byteCountPortion id) s = .next ((s.arriveAt c.core c.alloc (c.field 9 1) none fun b => b.arrive c.owed).modCmd id fun c =>
        { c with owed := 0 })) ∧
    (s.runnable? id .copy = some c → c.finished = true → c.owed = 0 → c.awaits = 0 → s.fomar.active = false →
      let ended := (s.endCmd id c false).observe c.core 5 (s.cyc c.core - c.born)
      exec (.copyComplete id) s = .next (match c.slot with
        | some k => ended.answer k 0 []
        | none => ended)) ∧
    (s.runnable? id .tile = some c → c.started = false →
      (∀ p ∈ s.cmds, p.1 ≠ id → p.2.kind = .tile → p.2.core = c.core → s.cmdPresent p.2 = true → p.2.started = false) →
      let acquired := if c.entered then s else s.cmdAcquire c ((c.field 0x2E 1).testBit 0) (bits (c.field 0x2E 1) 2 3)
      let zeroed := if c.entered = false ∧ (c.field 0x22 1).testBit 7 = true then
          acquired.modGroupNamed c.uid fun g => { g with acc := g.acc.filter fun t => !c.tiles.contains t.1 }
        else acquired
      exec (.tileTaskStart id) s = .next ((zeroed.modCore c.core fun k => { k with run := c.run, row := c.row }).modCmd id fun c =>
        { (c.turnTo (zeroed.cyc c.core) (if c.run < c.runs then .copyIn else .copyOut)) with started := true, entered := true })) ∧
    (∀ t : State, s.runnable? id .tile = some c → c.started = true → c.run < c.runs →
      (s.runRows id c (s.core c.core).pace = .done t ∨
        (∃ f, s.runRows id c (s.core c.core).pace = .fault f) ∧ s.runRows id c 1 = .done t) →
      exec (.tileTaskComplete id) s = .next t) ∧
    (∀ t : State, s.runnable? id .tile = some c → c.started = true → c.runs ≤ c.run → s.fomar.active = false → c.result = none →
      s.stampTask id c = .done t →
      exec (.tileTaskComplete id) s = .next (if ((Assoc.get? t.cmds id).map (·.awaits)) = some 0 then t.endTask id c
        else t.modCmd id fun c => { c with result := some [] })) ∧
    (s.runnable? id .tile = some c → c.started = true → c.runs ≤ c.run → s.fomar.active = false → c.result.isSome = true → c.awaits = 0 →
      exec (.tileTaskComplete id) s = .next ((s.endCmd id c false).observe c.core 4 (c.counts.getD 2 0))) ∧
    (∀ f, Assoc.get? s.cmds id = some c → c.kind ≠ .svc → c.refer = none → c.held = none → c.badDep = false → s.cmdReady c = true →
      s.nextFault? id c = some f → (s.served c f = true ∨ s.landed c = true) →
      exec (.engineFault id) s = .next (s.meetFault id c f))) ∧
  (∀ (s : State) (id : Nat) (c : Cmd), s.replayed c.ctx = false →
    (∀ off n, ∃ b, s.engineRead id c (.scratch off) n 1 false = .done (b, s.scratchRead c.core c.alloc off n) ∧ b.mem = s.mem ∧ b.cores = s.cores) ∧
    (∀ off bs x pool, s.alloc? c.core c.alloc = some x → x.bytes.wf = true → 16 * x.bars ≤ off →
      ∃ t y, s.engineWrite id c (.scratch off) bs pool = .done t ∧ t.alloc? c.core c.alloc = some y ∧ t.mem = s.mem ∧
        (∀ (k : Nat) (h : k < bs.length), y.bytes.read (off + k) = bs[k]) ∧
        ∀ i, i < off ∨ off + bs.length ≤ i → y.bytes.read i = x.bytes.read i) ∧
    (∀ va pa n pool, 0 < n → va % 64 + n ≤ 64 → (pa + n ≤ hubArea ∨ hubArea + 0x10000000 ≤ pa) →
      (c.asked = [] → c.got = [] → s.poisonIn pa n = none → s.engineTarget id c .read va n 1 pool = .ok (.phys pa) →
        ∃ b, s.engineRead id c (.global va) n 1 pool = .done (b, s.mem.readN pa n) ∧ b.mem = s.mem ∧ b.cores = s.cores) ∧
      (s.mem.wf = true → Assoc.get? s.booth.dir (pa / 64) = none → (∀ d ∈ s.booth.dir, HomeReq.local id ∉ d.2.queue) →
        (∀ o ∈ s.ops, o.2.uid ≠ id) →
        (∀ bs : List Byte, bs.length = n → s.engineTarget id c .write va n 1 pool = .ok (.phys pa) →
          ∃ t, s.engineWrite id c (.global va) bs pool = .done t ∧ t.mem.wf = true ∧ (∀ (k : Nat) (h : k < bs.length), t.mem.read (pa + k) = bs[k]) ∧
            ∀ x, x < pa ∨ pa + n ≤ x → t.mem.read x = s.mem.read x) ∧
        (∀ opx fmt x, n ≤ 8 → pa % 64 = va % 64 → s.poisonIn pa n = none → s.engineTarget id c .write va n n pool = .ok (.phys pa) →
          ∃ t, s.engineUpdate id c (.pool opx fmt) va n x pool = .done t ∧
            t.mem.load pa n = poolElement (reduceEnv fmt) (bits opx 0 4) (bits opx 4 4) (s.mem.load pa n) x % 2 ^ (8 * n) ∧
            ∀ i, i < pa ∨ pa + n ≤ i → t.mem.read i = s.mem.read i)))) ∧
  (∀ (s a b : State) (id n k sl : Nat) (c : Cmd) (as bs : List (List FVal)) (g : Group),
    let rows := Nat.min n (c.dimM - c.row)
    let first := c.runLength * c.run
    let steps := Nat.min c.runLength (c.dimK - first)
    let cols := c.tileCols
    let across := c.partColumns / cols
    let f := if c.wide then fp64 else fp32
    let env : FEnv := { mode := .rne, ftz := false, sat := c.fmt.getLsbD 3 }
    let last := c.dimM ≤ c.row + rows
    s.readOperand id c (c.operand false) c.row rows first steps = .done (a, as) →
    a.readOperand id c (c.operand true) (c.part * c.partColumns) c.partColumns first steps = .done (b, bs) →
    b.unit? c.uid = some (.slot k sl) → b.group? k sl = some g → g.life = .resident → Assoc.sorted g.acc = true →
    ∃ t h, s.runRows id c n = .done t ∧ t.group? k sl = some h ∧ t.mem = b.mem ∧
      (∀ q, q < c.tiles.length → ∀ i, i < 64 → ∀ j, j < cols →
        let tile := bits (c.field 0x22 1) 0 6 + q
        let old := g.element c.wide tile (cols * i + j)
        let m := 64 * (q / across) + i
        h.element c.wide tile (cols * i + j) = if c.row ≤ m ∧ m < c.row + as.length
          then f.encode env (FVal.add .rne (f.decode false old) (runSum
            ((as.getD (m - c.row) []).zipWith FVal.mul (bs.getD (cols * (q % across) + j) [])))) % 2 ^ (if c.wide then 64 else 32)
          else old) ∧
      (∀ tile, tile ∉ c.tiles → Assoc.getD h.acc tile [] = Assoc.getD g.acc tile []) ∧
      (∀ x, Assoc.get? t.cmds id = some x → x.run = (if last then c.run + 1 else c.run) ∧ x.row = if last then 0 else c.row + rows)) ∧
  (∀ ps : List FVal,
    (((∃ p ∈ ps, p.isNan = true) ∨ (.inf false ∈ ps ∧ .inf true ∈ ps)) → runSum ps = .qnan) ∧
    (∀ neg, (∀ p ∈ ps, p.isNan = false ∧ p ≠ .inf !neg) → .inf neg ∈ ps → runSum ps = .inf neg))

/-- R411 to R413 (COLLECTIVE_RESULT, COLLECTIVE_TIMEOUT, CHILD_SUM): a child's sum is added once; at the root the full instance of a
collective, with no participant lost, gives every local command the rounded total and sends it down; elsewhere the answer from above
does; an instance that has waited 10 ms stops with cause 0x0B. R411, R412: the result of a collective does not depend on the order in which its contributions arrive, whatever the elements hold.
Of the model's own choices it uses those of log 65, 66. -/
def Obligations.CollectiveEventsComplete : Prop :=
  (∀ (s : State) (coll inst : Nat) (i : Instance),
    (∀ src len opx sums, s.onFabric = true →
      exec (.childSum src coll inst len opx sums) s =
        .next (if ((s.instance? coll inst).map fun i => i.from'.contains src).getD false then s
          else s.contribute coll inst len opx sums none (some src))) ∧
    (s.instance? coll inst = some i →
      (s.atRoot coll = true → s.instanceFull i = true → i.broken = none → s.participantLost i = false → ∀ m rest, i.cmds = m :: rest →
        (∀ x ∈ rest, m ≤ x) →
        exec (.collectiveResult coll inst .here) s = .next (s.deliverResult i (i.sums.flatMap
          (resultBytes (((Assoc.get? s.cmds m).map Cmd.reduceEnv).getD {}) (bits i.opx 0 4) (bits i.opx 4 4))))) ∧
      (∀ bytes, s.onFabric = true → i.broken = none → i.sent = true →
        exec (.collectiveResult coll inst (.result bytes)) s = .next (s.deliverResult i bytes)) ∧
      (i.broken = none → i.since + 10000000 ≤ s.clocks.nsc →
        exec (.collectiveTimeout coll inst) s = .next (s.breakInstance coll inst 0x0B))) ∧
    (∀ cause, s.onFabric = true → exec (.collectiveResult coll inst (.broken cause)) s = .next (s.breakInstance coll inst cause))) ∧
  (let proper := fun (p : Part) => p.2 < 16 ∧ (p.2 < 8 → p.1 = 0)
  (∀ x : FVal, proper (partOf x)) ∧
  ∀ (op : Nat) (a b c : Part), proper a → proper b → proper c →
    proper (combineParts op a b) ∧ combineParts op a b = combineParts op b a ∧
    combineParts op (combineParts op a b) c = combineParts op a (combineParts op b c))


/-! ## The launch engine -/

/-- R16, R177, R246, R288, R291, R292, R295, R373, R381, R382, R388, R401 (LAUNCH_PRED_CHECK, GROUP_RESUME, PLACE_UNIT, PREEMPT,
PREEMPT_RESUME_ONLY, PREEMPT_HOLD, PREEMPT_SAVE, WATCHDOG_EXPIRY, GROUP_RETIRE, END_COMPLETE). A group of a launch whose core units are
single groups is created in the lowest free slot of the core chosen, with one path, whole, at its stage's entry at user level, fmt and
g0 to g7 from the record, every other register, counter and tile zero, and its frame's units taken from the pool. A group saved keeps
its registers, tiles, counters, tags and recruitments; each path that stands inside a clause whose region has not committed takes the
state that it had at region entry, every other path is kept as it stands; its slot and units are freed, its claim withdrawn, and its
tile tasks wait at their (RUN, ROW); the allocation goes with the last group of its unit, with its bytes.
Of the model's own choices it uses those of log 57, 61, 62. -/
def Obligations.LaunchEngineEventsComplete : Prop :=
  ∀ (s : State),
    (∀ queue entry l, (s.queue queue)[entry]? = some l → l.st = .held →
      ((∀ i ∈ l.after, Assoc.get? s.ops i = none) →
        (∀ va ∈ recPreds l.record, ∃ bs, s.hwLoad (recCtx l.record) va 8 = .ok bs ∧ ofBytes bs ≠ 0) →
        exec (.launchPredCheck queue entry) s = .next { s with engine := { s.engine with
          queues := Assoc.set s.engine.queues queue (modifyAt (s.queue queue) entry fun l => { l with st := .placing }) } }) ∧
      ((∃ va ∈ recPreds l.record, ∃ bs, s.hwLoad (recCtx l.record) va 8 = .ok bs ∧ ofBytes bs = 0) →
        (∀ va ∈ recPreds l.record, ∃ bs, s.hwLoad (recCtx l.record) va 8 = .ok bs) →
        exec (.launchPredCheck queue entry) s = .next s)) ∧
    (∀ x rest t, s.waitingGangs = x :: rest → s.resumeGang x.1 x.2.1 x.2.2 = some t → exec .groupResume s = .next t) ∧
    (∀ q l rest r p, s.waitingGangs = [] → s.heads = (q, l) :: rest → Assoc.get? s.engine.running l.id = some r →
      s.placeNext l r = some p → exec .placeUnit s = .next (p.1.placed q l r p.2)) ∧
    (∀ q l rest r k c sl, s.waitingGangs = [] → s.heads = (q, l) :: rest → Assoc.get? s.engine.running l.id = some r →
      kernelOf l.header = some k → r.shape.cluster = false → r.shape.die = 0 → r.shape.unit = 1 →
      s.bestCore 0 4096 (newWant l k) = some c → Assoc.firstFree (s.core c).slots 16 = some sl →
      let rec' := l.record
      let stage := stageOf rec' ((lvlsOf rec' l.placed).headD 0)
      let entry := BitVec.ofNat 60 (recKhdr rec' + k.entry.getD stage 256)
      let before := if (s.core c).slots = [] then divisionPool (recLsdiv rec') else (s.core c).free
      ∃ t g p a, exec .placeUnit s = .next t ∧ t.mem = s.mem ∧ t.group? c sl = some g ∧ (∀ i, i ≠ sl → (t.group? c i).isSome = (s.group? c i).isSome) ∧
        (t.core c).free = before - (k.regs / 8 + 1) ∧
        g.ctx = recCtx rec' ∧ g.launch = l.id ∧ g.unit = l.placed ∧ g.kernel = k ∧ g.stage = stage ∧ g.w = k.regs ∧ g.life = .resident ∧
        (∀ i, Assoc.getD g.g i 0 = if i < 8 then recParam rec' i else 0) ∧ g.v = [] ∧ g.acc = [] ∧ g.rings = {} ∧ g.wth = 0 ∧ g.tagBad = [] ∧
        g.paths = [(0, p)] ∧ p.pc = entry ∧ p.rgpc = entry ∧ p.rgc = false ∧ p.lvl = false ∧ p.hold = false ∧ p.fmt = recFmt rec' ∧
        p.exec = (if k.w32 then 0xFFFFFFFF else 0xFFFFFFFFFFFFFFFFFFFFFFFFFFFFFFFF) ∧ g.live = p.exec ∧ p.loops = [] ∧ p.recon = [] ∧
        p.pend = [] ∧ p.phase = .boundary ∧ t.alloc? c g.alloc = some a ∧ a.size = k.scr ∧ a.bars = k.bars) ∧
    (∀ slot q, s.pendingRequest? slot = some q →
      (q.op = 1 → q.ok = true → exec (.preempt slot) s = .next ((s.preempt q).answer slot 0 [])) ∧
      (q.op = 2 → q.ok = true → exec (.preemptResumeOnly slot) s = .next ((s.resumeOnly q).answer slot 0 [])) ∧
      (q.op = 3 → q.ok = true → exec (.preemptHold slot) s = .next ((s.preempt q).answer slot 0 [])) ∧
      (q.op ≠ 2 → q.op ≠ 3 → q.ok = false →
        exec (.preempt slot) s = .next ((if q.donew % 8 = 0 then s.writeDonew q.donew 4 else s).answer slot 4 []))) ∧
    (∀ core, let mine := (s.core core).slots.filter fun p => p.2.stopping && !p.2.killed
      (s.core core).preempt = true → (∀ p ∈ mine, s.haltedGroup core p.1 p.2 = true) →
      exec (.preemptSave core) s = .next ((mine.foldl (fun s p => s.saveGroup core p.1) s).modCore core fun k =>
        { k with preempt := false }).settleRequests) ∧
    (∀ c sl g, s.group? c sl = some g → Assoc.sorted (s.core c).slots = true → Assoc.sorted s.engine.saved = true →
      Assoc.sorted (s.core c).allocs = true →
      let t := s.saveGroup c sl
      let gives := ((s.core c).gives.filter fun v => v.slot = sl).foldl (fun n v => n + v.n) 0
      t.group? c sl = none ∧ (∀ i, i ≠ sl → t.group? c i = s.group? c i) ∧ (t.core c).free = (s.core c).free + (g.w / 8 + 1) + gives ∧
      (∀ v ∈ (t.core c).claims, v.slot ≠ sl) ∧ (∀ v ∈ (t.core c).gives, v.slot ≠ sl) ∧
      (∀ id d, Assoc.get? s.cmds id = some d → d.uid = g.uid → d.kind = .tile →
        ∃ e, Assoc.get? t.cmds id = some e ∧ e.started = false ∧ e.run = d.run ∧ e.row = d.row ∧ e.rec' = d.rec' ∧ e.fmt = d.fmt) ∧
      (∃ v, Assoc.get? t.engine.saved g.uid = some v ∧ v.core = c ∧ v.slot = sl ∧
        v.group = { g with stopping := false, paths := v.group.paths } ∧ v.group.paths.keys = g.paths.keys ∧
        ∀ i p, Assoc.get? g.paths i = some p → ∃ q, Assoc.get? v.group.paths i = some q ∧
          (p.inside = true ∧ p.rgc = false → q.pc = p.rgpc ∧ q.rgpc = p.rgpc ∧ q.rgc = false ∧ q.fmt = p.snap.fmt ∧ q.loops = p.snap.loops ∧
            q.exec = p.exec ∧ q.recon = p.recon ∧ q.lvl = p.lvl ∧ q.hold = p.hold ∧ q.pend = [] ∧ q.phase = .boundary) ∧
          (¬(p.inside = true ∧ p.rgc = false) → q = p)) ∧
      (∀ al, s.alloc? c g.alloc = some al →
        ((∃ i h, i ≠ sl ∧ s.group? c i = some h ∧ h.alloc = g.alloc) → t.alloc? c g.alloc = some al) ∧
        ((∀ i h, i ≠ sl → s.group? c i = some h → h.alloc ≠ g.alloc) → t.alloc? c g.alloc = none ∧
          ∃ v ∈ t.engine.saved, v.2.group.alloc = g.alloc ∧ v.2.alloc = some al))) ∧
    (∀ c sl g, sl < 16 → s.group? c sl = some g →
      (g.life = .resident → g.killed = false → (s.context g.ctx).watchdog ≠ 0 → (s.context g.ctx).watchdog.toNat < g.watch →
        exec (.watchdogExpiry (16 * c + sl)) s = .next (g.paths.keys.foldl (fun s i => s.bitePath c sl i)
          ((s.modGroup c sl fun g => { g with watch := 0 }).releaseHelpers c fun h => h.slot = sl))) ∧
      (s.drained c sl g = true →
        let t := s.modCore c fun k => { k with free := k.free + (g.w / 8 + 1), slots := Assoc.erase k.slots sl }
        exec (.groupRetire (16 * c + sl)) s = .next ((((t.leaveAlloc c g.alloc).unfuse c).grantClaims c
          (t.core c).claims.length).countRetired g.launch))) ∧
    (∀ launch r e, Assoc.get? s.engine.running launch = some r → r.ending = some e → r.left = 0 →
      (∀ p ∈ s.cmds, p.2.launch = launch → p.2.ofSlot = true) → ∃ t, exec (.endComplete launch) s = .next t ∧
        (e.slots = [] → e.asked = true → t.engine.running = Assoc.erase s.engine.running launch))

/-- R279, R366, R381, R399, R401, R407, R411, R416 to R420, R422 (the submission-slot commands LAUNCH and its wait for room, END, FETCH,
RESUME, REFER, COMPLETE, SVCRST, COPY, ROUTE, COLL, MODE, LGRANT, LRECALL, UINT): what each does, and the STATUS its slot gets.
Of the model's own choices it uses those of log 24, 28, 61, 63. -/
def Obligations.SlotCommandsComplete : Prop :=
  ∀ (s : State) (slot : Nat),
    let field := fun off n => s.payloadNat slot off n
    let r := s.payload slot 0x40 256
    let launches := s.launchesOf (field 0x48 8) (field 0x40 4)
    (∀ x, s.slotCmd slot 1 = true → Assoc.get? s.engine.waiting slot = none → Assoc.get? s.engine.submits slot = some x → x.early = true →
      exec (.cmdLaunch slot) s = .next (s.answer slot 4 (toBytes 8 0))) ∧
    (s.slotCmd slot 1 = true → Assoc.get? s.engine.waiting slot = none →
      (∀ x, Assoc.get? s.engine.submits slot = some x → x.early = false) →
      (recordOk r = false → exec (.cmdLaunch slot) s = .next (s.answer slot 2 [])) ∧
      (∀ t h, recordOk r = true → s.liveContext (recCtx r) = true → s.readHeader (s.slotReader slot (recCtx r)) r = .ok t h →
        (t.queue (recQueue r)).length < 32 → exec (.cmdLaunch slot) s = .next ((t.queueLaunch r h []).answer slot 0 []))) ∧
    (∀ l, Assoc.get? s.engine.waiting slot = some l → s.liveContext (recCtx l.record) = true → (s.queue (recQueue l.record)).length < 32 →
      exec (.cmdLaunchRoom slot) s = .next ((State.queueLaunch { s with
        engine := { s.engine with waiting := Assoc.erase s.engine.waiting slot } } l.record l.header []).answer slot 0 [])) ∧
    (s.slotCmd slot 3 = true → (∀ x ∈ s.engine.running, ∀ e, x.2.ending = some e → slot ∉ e.slots) →
      (s.launchesOf (field 0x40 8) (field 0x48 4) = [] → exec (.endLaunch slot) s = .next (s.answer slot 1 [])) ∧
      (∀ l rest, s.launchesOf (field 0x40 8) (field 0x48 4) = l :: rest →
        exec (.endLaunch slot) s = .next (s.endLaunch l 0 0 0 0 (some slot)))) ∧
    (s.slotCmd slot 15 = true → field 0x50 1 < 16 → field 0x44 4 = 0 →
      (launches = [] → exec (.uint slot) s = .next (s.answer slot 1 [])) ∧
      (launches ≠ [] →
        let post := fun (g : Group) => if launches.contains g.launch && g.life = .resident
          then { g with uip := g.uip ||| (1#16 <<< field 0x50 1) } else g
        let posted : State := { s with
          cores := s.cores.mapVals fun (k : Core) => { k with slots := k.slots.mapVals post }
          engine := { s.engine with saved := s.engine.saved.mapVals fun (v : SavedGroup) => { v with group := post v.group } } }
        exec (.uint slot) s = .next (State.answer ((posted.groupsOf fun g => launches.contains g.launch && !g.killed).foldl
          (fun t p => t.takeInterrupt p.1 p.2) posted) slot 0 []))) ∧
    (∀ cls, s.slotCmd slot 4 = true → field 0x40 1 = cls → cls < 3 →
      ((∀ e ∈ s.engine.events, e.cls ≠ cls) → exec (.fetch slot) s = .next (s.answer slot 1 [])) ∧
      (∀ e, s.engine.events.find? (fun e => e.cls = cls) = some e →
        exec (.fetch slot) s = .next (State.answer { s with engine := { s.engine with
          events := s.engine.events.erase e, fetched := Assoc.set s.engine.fetched e.handle cls } } slot 0 e.bytes))) ∧
    (s.slotCmd slot 5 = true →
      (s.handle? (field 0x40 4) = none → exec (.resume slot) s = .next (s.answer slot 1 [])) ∧
      (∀ h, s.handle? (field 0x40 4) = some h → exec (.resume slot) s = .next ((s.resumeHandle h).answer slot 0 []))) ∧
    (s.slotCmd slot 6 = true →
      (s.handle? (field 0x40 4) = none → exec (.refer slot) s = .next (s.answer slot 1 [])) ∧
      (∀ h, s.handle? (field 0x40 4) = some h → exec (.refer slot) s = .next ((s.referHandle h).answer slot 0 []))) ∧
    (s.slotCmd slot 7 = true →
      (s.callOf? (field 0x40 4) = none → exec (.complete slot) s = .next (s.answer slot 1 [])) ∧
      (∀ id c, s.callOf? (field 0x40 4) = some (id, c) →
        let status := BitVec.ofNat 32 (field 0x44 4)
        let args := (List.range 6).map fun i => BitVec.ofNat 64 (field (0x48 + 8 * i) 8)
        let ended := (((s.writeCall c status (argBytes args)).logCall c).endCmd id c false).forget (field 0x40 4)
        exec (.complete slot) s = .next ((ended.modContext c.ctx fun k => { k with calls :=
          (⟨BitVec.ofNat 32 (c.field 0 4), BitVec.ofNat 64 (c.field 8 8), status, args⟩ :: k.calls).take 64 }).answer slot 0 []))) ∧
    (s.slotCmd slot 8 = true → (∀ c ∈ s.cmds, c.2.kind = .svc → Assoc.get? s.engine.fetched c.2.handle = none) →
      exec (.svcrst slot) s = .next (s.answer slot 0 [])) ∧
    (∀ c, s.slotCmd slot 8 = true → s.cmds.filter (fun c => c.2.kind = .svc && (Assoc.get? s.engine.fetched c.2.handle).isSome &&
        (field 0x40 4 = 0xFFFFFFFF || c.2.field 0 4 = field 0x40 4)) = [c] →
      exec (.svcrst slot) s = .next (((((s.writeCall c.2 0xFFFFFF01 []).logCall c.2).endCmd
        c.1 c.2 false).forget c.2.handle).answer slot 0 [])) ∧
    (s.slotCmd slot 9 = true → (∀ c ∈ s.cmds, c.2.slot ≠ some slot) → slot < 32 →
      let c : Cmd :=
        { kind := .copy, rec' := s.payload slot 0x40 64, fmt := ((Assoc.get? s.engine.submits slot).map (·.fmt)).getD 0, uid := 0, core := 4096, gid := 0, ctx := 0
          launch := 0, view := s.viewOf 0, slot := some slot, born := s.cyc 4096 }
      (c.field 0x34 4 ≠ 0 → exec (.copy slot) s = .next (s.answer slot 0xFF [])) ∧
      (c.field 0x34 4 = 0 → c.flag 0 = false → c.flag 1 = false → c.flag 2 = false → c.copyKind ≠ 3 → c.copyKind ≠ 7 →
      c.copyOk 0 0 (fun _ => false) (fun _ => false) = true →
      exec (.copy slot) s = .next { s with nextId := s.nextId + 1, cmds := Assoc.set s.cmds s.nextId c })) ∧
    (s.slotCmd slot 10 = true → field 0x40 4 < 4096 → field 0x46 2 = 0 →
      exec (.route slot) s = .next (State.answer { s with fabric := { s.fabric with
        routes := Assoc.put 0 s.fabric.routes (field 0x40 4) (BitVec.ofNat 16 (field 0x44 2) &&& 0x3FF) } } slot 0 [])) ∧
    (s.slotCmd slot 11 = true → field 0x40 4 < 64 → field 0x44 4 = 0 → field 0x4E 2 = 0 →
      (∀ c ∈ s.cmds, c.2.kind = .copy → c.2.copyKind = 7 → c.2.aux ≠ field 0x40 4) →
      exec (.coll slot) s = .next (State.answer { s with fabric := { s.fabric with
        colls := Assoc.put 0 s.fabric.colls (field 0x40 4) (BitVec.ofNat 64 (field 0x48 8) &&& 0xFFFFFFFFFF01) } } slot 0 [])) ∧
    (s.slotCmd slot 12 = true → field 0x41 7 = 0 →
      exec (.mode slot) s = .next (State.answer { s with hmode := BitVec.ofNat 64 (field 0x40 1) &&& 0xF } slot 0 [])) ∧
    (s.slotCmd slot 13 = true →
      let g := s.grantImage (field 0x40 32)
      exec (.lgrant slot) s = .next (g.1.answer slot (bits g.2.toNat 32 8) (toBytes 8 g.2.toNat))) ∧
    (s.slotCmd slot 14 = true →
      let g := s.recallLease (BitVec.ofNat 32 (field 0x40 4))
      exec (.lrecall slot) s = .next (g.1.answer slot (bits g.2.toNat 32 8) (toBytes 8 g.2.toNat)))

/-- R416, R417: answering a slot writes its STATUS and, where there is one, its result, and clears OWN of its command word, which is
then no longer waiting; the rest of memory, every core and every steward stay as they are. -/
def Obligations.AnsweringASlotWritesStatusAndClearsOwn : Prop :=
  ∀ (s : State) (k w status : Nat) (result : List Byte), s.mem.wf = true → Assoc.sorted s.engine.slots = true → k < 32 → w < 2 ^ 64 →
    status < 2 ^ 32 → result.length ≤ 0xFC0 → Assoc.get? s.engine.slots k = some w →
    let t := s.answer k status result
    t.mem.load (slotBase k + 8) 4 = status ∧ t.mem.load (slotBase k) 8 = w % 2 ^ 63 ∧
    t.mem.readN (slotBase k + 0x40) result.length = result ∧ Assoc.get? t.engine.slots k = none ∧
    (∀ j, j ≠ k → Assoc.get? t.engine.slots j = Assoc.get? s.engine.slots j) ∧
    (∀ a, a < slotBase k ∨ (slotBase k + 12 ≤ a ∧ a < slotBase k + 0x40) ∨ slotBase k + 0x40 + result.length ≤ a →
      t.mem.read a = s.mem.read a) ∧
    (∀ c, (t.core c).slots = (s.core c).slots ∧ (t.core c).allocs = (s.core c).allocs) ∧ t.stewards = s.stewards

/-! ## Lending -/

/-- R350, R352, R355 to R357, R366, R372, R440 (the lease messages LREQ, GRANT, GACK, REJECT, RENEW, RENEWED, RECALLING, GONE, RECALL,
RECALL_DONE, RELEASE), for a package whose bring-up is complete; before that none of them has an effect.
Of the model's own choices it uses those of log 24, 25, 60. -/
def Obligations.LeaseMessagesAct : Prop :=
  ∀ (s : State) (src n sz dur rgr : Nat) (lid : Word) (pa : DWord),
    let gives := fun (i : Instr) (t : State) => exec i s = Host.Outcome.next (φ := Fault) (ρ := Refusal) t
    let now := s.clocks.nsc
    let due := fun (t wait dur : Nat) => (((t + wait : Nat) : Int) - guardOf dur).emod (2 ^ 64) |>.toNat
    let extended := fun (l : Lent) => Nat.max l.exp (now + l.dur) % 2 ^ 64
    (s.onFabric = false → gives (.lreq src n sz) s ∧ gives (.grant src lid sz dur pa n) s ∧ gives (.gack src lid) s ∧
      gives (.reject src lid) s ∧ gives (.renew src lid) s ∧ gives (.renewed src lid) s ∧ gives (.recalling src lid) s ∧
      gives (.gone src lid) s ∧ gives (.recall src lid rgr) s ∧ gives (.recallDone src lid) s ∧ gives (.release src lid) s) ∧
    (s.onFabric = true →
      (let t := s.leaseEvent 0x01 [src, n, sz]
       gives (.lreq src n sz) (if t.hmode.getLsbD 1 then t.notice 0 else t)) ∧
      (s.booth.failed.contains src = true → gives (.renew src lid) s) ∧
      (gives (.grant src lid sz dur pa n)
        (if n < 8192 ∧ (s.borrowed n).st = 1 ∧ (s.borrowed n).lend = src ∧ (s.borrowed n).sz = sz then
          ((s.modBorrowed n fun b => { b with
              st := 2, lid := lid, dur := dur, rbase := pa.toNat, renewal := none
              deadline := due now dur dur }).send src (.gack lid)).notice lid
        else s.send src (.reject lid))) ∧
      (s.lentOf? lid = none → gives (.gack src lid) s ∧ gives (.reject src lid) s ∧
        (s.booth.failed.contains src = false → gives (.renew src lid) (s.send src (.gone lid))) ∧ gives (.recallDone src lid) s ∧ gives (.release src lid) s) ∧
      (∀ entry l, s.lentOf? lid = some (entry, l) →
        (∀ w, (src, w) ∈ l.acks → gives (.gack src lid) (s.modLent entry fun l =>
          { l with exp := extended l, acks := l.acks.filter fun a => a.1 != src })) ∧
        (src ∈ l.alive →
          (let t := (s.dropBorrower entry src).leaseEvent 0x04 [lid.toNat]
           gives (.reject src lid) (if t.hmode.getLsbD 1 then t.notice lid else t)) ∧
          gives (.release src lid) ((s.dropBorrower entry src).leaseEvent 0x0B [lid.toNat]) ∧
          (s.booth.failed.contains src = false → l.st = 2 → gives (.renew src lid) (s.send src (.recalling lid))) ∧
          (s.booth.failed.contains src = false → l.st ≠ 2 → (now < l.exp ∨ l.acks ≠ []) → gives (.renew src lid)
            ((s.modLent entry fun l => { l with exp := extended l }).send src (.renewed lid))) ∧
          (s.booth.failed.contains src = false → l.st ≠ 2 → l.exp ≤ now → l.acks = [] → gives (.renew src lid) (s.send src (.gone lid))) ∧
          (l.st = 2 → let t := (s.dropBorrower entry src).leaseEvent 0x0A [lid.toNat]
            gives (.recallDone src lid) (if (Assoc.get? t.booth.lent entry).isNone then t.notice lid else t)))) ∧
      (∀ e b, s.borrowedOf? src lid = some (e, b) → b.st = 2 →
        (∀ t0 x, b.renewal = some (t0, some x) →
          gives (.renewed src lid) (s.modBorrowed e fun b => { b with deadline := due t0 b.dur b.dur, renewal := none })) ∧
        gives (.recall src lid rgr) (s.modBorrowed e fun b =>
          { b with st := 3, renewal := none, deadline := due now (rgr * 1000) b.dur })) ∧
      (let t := s.leaseEvent 0x07 [lid.toNat]
       (t.borrowedOf? src lid = none → gives (.recalling src lid) t) ∧
       ∀ e b, t.borrowedOf? src lid = some (e, b) →
        gives (.recalling src lid) (t.modBorrowed e fun b => { b with renewal := b.renewal.map fun r => (r.1, none) })) ∧
      (let t := s.leaseEvent 0x08 [lid.toNat]
       (t.borrowedOf? src lid = none → gives (.gone src lid) t) ∧
       ∀ e b, t.borrowedOf? src lid = some (e, b) → b.st = 2 → gives (.gone src lid) (t.expire e)))

/-- R350, R356, R357, R364, R366 to R368 (the times of leases: GACK_TIMEOUT, RENEW_DUE, RENEW_RESEND, DEADLINE_EXPIRY, RECALL_DEADLINE,
LEASE_EXPIRY, RECALL_GRACE_EXPIRY, SNOOP_TIMEOUT, REQUEST_TIMEOUT, FABRIC_UNREACHABLE, BANDWIDTH_WINDOW): each happens at its time and
does what the rule says; before it, it does not happen.
Of the model's own choices it uses those of log 5, 24, 58. -/
def Obligations.LeaseTimesAct : Prop :=
  ∀ (s : State) (n pkg : Nat),
    let gives := fun (i : Instr) (t : State) => exec i s = Host.Outcome.next (φ := Fault) (ρ := Refusal) t
    let now := s.clocks.nsc
    let b := s.borrowed n
    (∀ l a rest, Assoc.get? s.booth.lent n = some l → l.acks.filter (fun a => a.2 + 10000000 ≤ now) = a :: rest →
      gives (.gackTimeout n) ((a :: rest).foldl (fun s a => s.failBorrower a.1) s)) ∧
    (b.st = 2 → b.renewal = none → b.leaving = none → now < b.deadline → 4 * (b.deadline - now) < b.dur →
      gives (.renewDue n) ((s.modBorrowed n fun b => { b with renewal := some (now, some now) }).send b.lend (.renew b.lid))) ∧
    (∀ t0 last, b.st = 2 → b.renewal = some (t0, some last) → now < b.deadline → last + 100000 ≤ now →
      gives (.renewResend n) ((s.modBorrowed n fun b => { b with renewal := some (t0, some now) }).send b.lend (.renew b.lid))) ∧
    (b.st = 2 → b.deadline ≤ now → gives (.deadlineExpiry n) (s.expire n)) ∧
    (b.st = 2 → now < b.deadline → exec (.deadlineExpiry n) s = .fault .notEnabled) ∧
    (b.st = 3 → b.leaving = none → b.deadline ≤ now → gives (.recallDeadline n) (s.drop n 4 0x0A)) ∧
    (∀ l, Assoc.get? s.booth.lent n = some l →
      (l.st = 1 → l.acks = [] → l.exp ≤ now → gives (.leaseExpiry n) (l.alive.foldl (fun s b => s.expireBorrower b) s)) ∧
      (l.st = 1 → now < l.exp → exec (.leaseExpiry n) s = .fault .notEnabled) ∧
      (l.st = 2 → l.recallAt + l.rgr * 1000 ≤ now → let t := (l.alive.foldl (fun s b => s.failBorrower b) s).notice l.lid
        gives (.recallGraceExpiry n) (if t.hmode.getLsbD 1 then t.leaseEvent 0x0A [l.lid.toNat] else t)) ∧
      (l.waiting ≠ [] → l.spentAt < now / 1000 → 
        -- the requests that the cap kept back: those found late to need data, then those not yet taken
        (let late := (s.dirLinesOf l).filter fun k => (s.dirLine k).wait.isEmpty && ((s.dirLine k).queue.head?.map fun r => !r.pkg?.isNone).getD false
         gives (.bandwidthWindow n) ((s.serve late).passWindow n l.waiting.length)))) ∧
    (∀ t, (pkg, t) ∈ (s.dirLine n).wait → t + 10000000 ≤ now → gives (.snoopTimeout n pkg) (s.failBorrower pkg)) ∧
    (∀ l ∈ s.booth.rlc, ∀ w ∈ l.wrs, l.entry = n → 2 ≤ b.st → b.st ≤ 4 → w.2 + 10000000 ≤ now → gives (.requestTimeout n) (s.lenderLost n)) ∧
    (s.booth.lent = [] → s.booth.dir = [] → s.booth.borrowed = [] → s.fabric.instances = [] → gives (.fabricUnreachable pkg)
      { s with booth := { s.booth with failed := pkg :: s.booth.failed.filter (· != pkg) } }) ∧
    (∀ e l, s.booth.lent = [(e, l)] → pkg ∈ l.alive → s.booth.borrowed = [] → s.fabric.instances = [] →
      ∃ t, exec (.fabricUnreachable pkg) s = .next t ∧ (l.alive = [pkg] → t.booth.lent = []))

/-! ## Coherence between packages -/

/-- R359 to R361 (RDS, RDOWN, WR, EVCT, BIRSPI, BIRSPS, BICONFLICT at the home; BISNPINV, BISNPSHR, BICONFLICTACK, CMP_S, CMP_E, CMP
at a borrower), for a package whose bring-up is complete: what each message does to the directory line in every state of Table 4 and to
the line of the remote line cache in every state of Table 3 of the lending chapter, and what is sent. The home's part is for a lease
whose requests meet no bandwidth cap; `hears` and `sees` say that no other line changes.
Of the model's own choices it uses those of log 58. -/
def Obligations.CoherenceMessagesAct : Prop :=
  ∀ (s : State) (src line load : Nat) (bytes : Line) (mask : DWord) (wants err : Bool), s.onFabric = true → s.mem.wf = true →
    Assoc.sorted s.booth.dir = true → Assoc.sorted s.booth.lent = true → Assoc.sorted s.booth.borrowed = true →
    (s.route? src).isSome = true →
    let gives := fun (i : Instr) (t : State) => exec i s = Host.Outcome.next (φ := Fault) (ρ := Refusal) t
    let msg := fun (b : Nat) (m : MsgBody) => ({ dst := .pkg b, body := m } : Msg)
    let d := s.dirLine line
    let others := (d.owner.toList ++ d.sharers).filter fun x => x != src
    let gone : DirLine := { d with
      sharers := d.sharers.filter (· != src), owner := if d.owner = some src then none else d.owner, wait := d.wait.filter fun w => w.1 != src }
    let level := s.loadLevel line
    let busy := fun (r : HomeReq) => (s.setDir line { d with queue := [r] }).loadLevel line
    let bad := (s.poisonIn (line * 64) 64).isSome
    let data : Line := BitVec.ofNat 512 (ofBytes (s.physRead (line * 64) 64))
    let sent := if bad then none else some data
    -- the home: its line and what it sends
    let hears := fun (i : Instr) (d' : DirLine) (msgs : List Msg) (mem : Memory → Prop) =>
      ∃ t, exec i s = .next t ∧ t.dirLine line = d' ∧ (∀ k, k ≠ line → t.dirLine k = s.dirLine k) ∧
        t.booth.sent = s.booth.sent ++ msgs ∧ mem t.mem
    let same := fun (m : Memory) => m = s.mem
    let written := fun (m : Memory) => ∀ a, m.read a = if line * 64 ≤ a ∧ a < line * 64 + 64 ∧ mask.getLsbD (a - line * 64) = true
      then (toBytes 64 bytes.toNat).getD (a - line * 64) 0 else s.mem.read a
    (s.booth.failed.contains src = true → gives (.rds src line) s ∧ gives (.rdown src line wants) s ∧ gives (.wr src line bytes mask) s ∧
      gives (.evct src line) s) ∧
    (s.booth.failed.contains src = false → (∀ entry l, s.lentAt? (line * 64) = some (entry, l) → src ∉ l.alive) → gives (.rds src line) (s.send src (.cmpS line none level)) ∧
      gives (.rdown src line wants) (s.send src (.cmpS line none level)) ∧ gives (.wr src line bytes mask) (s.send src (.cmp line level true))) ∧
    (∀ entry l, s.booth.failed.contains src = false → s.lentAt? (line * 64) = some (entry, l) → src ∈ l.alive → l.bwc = 0 → l.waiting = [] →
      let full := wants || !d.has src
      let ready := d.wait = [] ∧ d.queue = []
      -- I, S(V), and E(b) of the requester
      (ready → d.owner = none → hears (.rds src line) { d with sharers := (d.sharers.filter (· != src)) ++ [src] }
        [msg src (.cmpS line sent (busy (.rds src)))] same) ∧
      (ready → d.owner = some src → hears (.rds src line) d [msg src (.cmpS line sent (busy (.rds src)))] same) ∧
      (ready → others = [] → hears (.rdown src line wants) { d with sharers := [], owner := some src }
        [msg src (.cmpE line (if full then sent else none) (busy (.rdown src full)))] same) ∧
      -- E(o) of another, S(V) with others: snoops, and W
      (∀ o, ready → d.owner = some o → o ≠ src → (s.route? o).isSome = true →
        hears (.rds src line) { d with wait := [(o, s.clocks.nsc)], queue := [.rds src] } [msg o (.snpShr line (busy (.rds src)))] same) ∧
      (ready → others ≠ [] → (∀ x ∈ others, (s.route? x).isSome = true) →
        hears (.rdown src line wants) { d with wait := others.map fun x => (x, s.clocks.nsc), queue := [.rdown src full] }
          (others.map fun x => msg x (.snpInv line (busy (.rdown src full)))) same) ∧
      -- Wr: the owner's is performed, also in W; another's is discarded
      ((ready ∨ d.wait ≠ []) → d.owner = some src → hears (.wr src line bytes mask) d [msg src (.cmp line level false)] written) ∧
      (ready → d.owner ≠ some src → hears (.wr src line bytes mask) d [msg src (.cmp line level true)] same) ∧
      -- W
      (d.wait ≠ [] → hears (.rds src line) { d with queue := d.queue ++ [.rds src] } [] same ∧
        hears (.rdown src line wants) { d with queue := d.queue ++ [.rdown src full] } [] same ∧
        (d.owner ≠ some src → hears (.wr src line bytes mask) { d with queue := d.queue ++ [.wr src bytes mask] } [] same))) ∧
    (s.booth.failed.contains src = false → hears (.evct src line) { gone with wait := d.wait } [msg src (.cmp line level false)] same) ∧
    ((∀ w ∈ d.wait, w.1 ≠ src) → gives (.birspi src line) s ∧ gives (.birsps src line) s ∧ gives (.biconflict src line) s) ∧
    ((∃ w ∈ d.wait, w.1 = src) →
      gives (.biconflict src line) (s.send src (.conflictAck line)) ∧
      ((∃ w ∈ d.wait, w.1 ≠ src) → hears (.birspi src line) gone [] same ∧
        hears (.birsps src line) { gone with owner := none, sharers := gone.sharers ++ [src] } [] same) ∧
      -- the last answer: the request at the head completes
      (∀ b, (∀ w ∈ d.wait, w.1 = src) → b ≠ src → (s.route? b).isSome = true →
        (d.queue = [.rds b] → (d.owner = some src ∨ d.owner = none) →
          hears (.birsps src line) { sharers := ((gone.sharers ++ [src]).filter (· != b)) ++ [b] } [msg b (.cmpS line sent level)] same ∧
          hears (.birspi src line) { sharers := (gone.sharers.filter (· != b)) ++ [b] } [msg b (.cmpS line sent level)] same) ∧
        (d.queue = [.rdown b wants] → (∀ entry l, s.lentAt? (line * 64) = some (entry, l) → l.bwc = 0) → (∀ x ∈ d.owner.toList ++ d.sharers, x = src ∨ x = b) →
          hears (.birspi src line) { owner := some b } [msg b (.cmpE line (if wants || !gone.has b then sent else none) level)] same)) ∧
      (∀ id, (∀ w ∈ d.wait, w.1 = src) → d.queue = [.local id] → others = [] → hears (.birspi src line) { queue := [.local id] } [] same)) ∧
    -- the borrower: the line of its cache and what it sends
    (s.entryAt? src line = none → gives (.bisnpinv src line load) (s.send src (.rspI line)) ∧
      gives (.bisnpshr src line load) (s.send src (.rspI line)) ∧ gives (.biconflictack src line) (s.send src (.rspI line))) ∧
    (∀ e, s.entryAt? src line = some e → (s.borrowed e).leaving = none →
      let own := s.ownLine e line
      let sees := fun (i : Instr) (x : Option RlcLine) (msgs : List Msg) =>
        ∃ t, exec i s = .next t ∧ t.line? e own = x ∧ (∀ f k, (f, k) ≠ (e, own) → t.line? f k = s.line? f k) ∧
          t.booth.sent = s.booth.sent ++ msgs
      let kept := fun (l : RlcLine) => some { l with snoop := none, conflict := false }
      (s.line? e own = none → sees (.bisnpinv src line load) none [msg src (.rspI line)] ∧
        sees (.bisnpshr src line load) none [msg src (.rspI line)] ∧ sees (.biconflictack src line) none [msg src (.rspI line)]) ∧
      (∀ l, s.line? e own = some l →
        let idle := l.st = .s ∨ l.st = .e ∨ l.st = .mm
        let asking := l.st = .is ∨ l.st = .im ∨ l.st = .sm
        let shares := (s.borrowed e).st ≠ 3
        -- S, E, and Mm with no Wr under way; Mm with one; EI; IS, IM and SM
        (idle → l.wrs = [] → sees (.bisnpinv src line load) none [msg src (.rspI line)] ∧
          (shares → sees (.bisnpshr src line load) (kept { l with st := .s }) [msg src (.rspS line)])) ∧
        (idle → l.wrs ≠ [] → sees (.bisnpinv src line load) (some { l with snoop := some true }) [] ∧
          (shares → sees (.bisnpshr src line load) (some { l with snoop := some false }) [])) ∧
        (l.st = .ei → l.wrs = [] → sees (.bisnpinv src line load) (kept l) [msg src (.rspI line)] ∧
          sees (.bisnpshr src line load) (kept l) [msg src (.rspI line)]) ∧
        (asking → sees (.bisnpinv src line load) (some { l with snoop := some true, conflict := true }) [msg src (.conflict line)] ∧
          (shares → sees (.bisnpshr src line load) (some { l with snoop := some false, conflict := true }) [msg src (.conflict line)])) ∧
        (¬shares → exec (.bisnpshr src line load) s = exec (.bisnpinv src line load) s) ∧
        -- BIConflictAck before the completion, and after it
        (∀ inv, l.conflict = true → l.snoop = some inv →
          (asking → sees (.biconflictack src line) (kept { l with st := if l.st = .sm then .im else l.st }) [msg src (.rspI line)]) ∧
          (idle → l.wrs = [] → inv = true → sees (.biconflictack src line) none [msg src (.rspI line)]) ∧
          (idle → l.wrs = [] → inv = false → shares → sees (.biconflictack src line) (kept { l with st := .s }) [msg src (.rspS line)]) ∧
          (idle → l.wrs ≠ [] → sees (.biconflictack src line) (some { l with conflict := false }) [])) ∧
        -- completions; what waits for the line then goes on
        (let r := s.loaded e load
         (l.st = .is → gives (.cmpS src line (some bytes) load) ((r.setLine { l with st := .s, data := bytes, bad := false }).arrived e own)) ∧
         (l.st = .im → gives (.cmpE src line (some bytes) load) ((r.setLine { l with st := .e, data := bytes, bad := false }).arrived e own)) ∧
         (l.st = .sm → gives (.cmpE src line none load) ((r.setLine { l with st := .e }).arrived e own)) ∧
         (∀ w, l.wrs = [w] → l.snoop = none → l.conflict = false → l.evict = false →
           gives (.cmp src line load false) (((r.ack w.1 none).setLine { l with wrs := [] }).leave e))) ∧
        (s.ops = [] → s.cmds = [] → l.evict = false →
          (l.st = .is → sees (.cmpS src line (some bytes) load) (some { l with st := .s, data := bytes, bad := false }) []) ∧
          (l.st = .im → sees (.cmpE src line (some bytes) load) (some { l with st := .e, data := bytes, bad := false }) []) ∧
          (l.st = .sm → sees (.cmpE src line none load) (some { l with st := .e }) [])) ∧
        (l.st = .ei → l.wrs = [] → sees (.cmp src line load err) none [])))


/-! ## The fabric, the host's ports, and the hub -/

/-- R405 to R410, R421, R422, R440 (HELLO, HELLO_TIMER, CANDIDATE_TIMEOUT, RINGMASTER_TAKEOVER, CLAIM, QUERY, QREPLY, OFFER, WANT, WANTED,
AXYEN_RETRAIN, LINK_FALLBACK, LINK_DOWN, LINK_UP, FOREIGN_FPID_DROP, FM_API_COMMAND), for a package whose bring-up is complete. R407: a message leaves on PORT where the route is valid and its link is up; else on ALT where that is valid and up; else it is not
sent, and the package is not reached.
Of the model's own choices it uses those of log 67 to 70 and 94. -/
def Obligations.FabricEventsAct : Prop :=
  (∀ (s : State) (port src pkg hops prio size : Nat) (p : Option Nat), s.onFabric = true →
    let gives := fun (i : Instr) (t : State) => exec i s = Host.Outcome.next (φ := Fault) (ρ := Refusal) t
    let now := s.clocks.nsc
    let own := s.boot.pkgId
    (let t := if hops ≤ 1 then s else s.flood (some port) (.hello p pkg (hops - 1))
     gives (.hello port p pkg hops) (if pkg = own then t else State.rank { t with fabric := { t.fabric with
       candidates := Assoc.set t.fabric.candidates pkg { prio := p, heard := t.clocks.nsc } } })) ∧
    ((∀ t, s.fabric.helloAt = some t → t + 100000 ≤ now) →
      gives .helloTimer (State.flood { s with fabric := { s.fabric with helloAt := some now } } none (.hello s.ownPrio own 16))) ∧
    (∀ t, s.fabric.helloAt = some t → now < t + 100000 → exec .helloTimer s = .fault .notEnabled) ∧
    (∀ c, Assoc.get? s.fabric.candidates pkg = some c → c.heard + 1000000 < now →
      gives (.candidateTimeout pkg) (State.rank { s with fabric := { s.fabric with
        candidates := Assoc.erase s.fabric.candidates pkg } })) ∧
    (∀ t, s.fabric.highest = some t → s.fabric.ringmaster = false → s.hmode.getLsbD 2 = false → t + 2000000 ≤ now →
      ∃ r, exec .ringmasterTakeover s = .next r ∧ r.fabric.ringmaster = true ∧ r.fabric.directory = [(own, s.listing)] ∧ r.mem = s.mem) ∧
    gives (.claim prio pkg) (if pairLess (s.ownPrio, own) (some prio, pkg) = true
      then { s with fabric := { s.fabric with ringmaster := false } } else s) ∧
    gives (.query src) (s.send src (.qreply s.listing.leases s.listing.offered)) ∧
    (∀ leases offered, gives (.qreply src leases offered) (s.modListing src fun l => { l with
      leases := (l.leases.filter fun x => !leases.any fun y => y.lid = x.lid) ++ leases
      offered := (l.offered.filter fun x => !offered.contains x) ++ offered })) ∧
    (∀ classes bw, pkg ≠ own →
      gives (.offer pkg classes bw) (if s.fabric.ringmaster = true
        then ((s.modListing pkg fun l => { l with offered := classes, bandwidth := bw }).send pkg .query).send pkg (.fmApi .extentList)
        else s)) ∧
    (∀ classes bw, s.fabric.ringmaster = false →
      let t := { s with fabric := { s.fabric with offer := { s.fabric.offer with offered := classes, bandwidth := bw } } }
      gives (.offer own classes bw) (t.send t.master (.offer classes bw))) ∧
    (s.fabric.ringmaster = true →
      (s.lenderFor src size = none →
        gives (.want src size) (if src = own then s.leaseEvent 0x16 [] else s.send src (.wanted none))) ∧
      (∀ l, s.lenderFor src size = some l → let t := (s.routeFor src l).routeFor l src
        gives (.want src size) (if src = own then t.leaseEvent 0x16 [l] else t.send src (.wanted (some l))))) ∧
    (∀ a b, a ≠ own → s.routeFor a b = s.send a (.fmApi (.routes [(b, Config.routeEntry a b)]))) ∧
    (s.fabric.ringmaster = false → gives (.want own size) (s.send s.master (.want size))) ∧
    gives (.wanted p) (s.leaseEvent 0x16 p.toList) ∧
    (s.boot.peers.getLsbD port = false → exec (.axyenRetrain port true) s = .fault .notEnabled) ∧
    (port < 16 → s.fabric.up.getLsbD port = true → s.boot.peers.getLsbD port = true → s.fabric.axyen.getLsbD port = false →
      gives (.axyenRetrain port true) { s with fabric := { s.fabric with axyen := s.fabric.axyen ||| (1#16 <<< port) } } ∧
      gives (.axyenRetrain port false) s) ∧
    (s.fabric.axyen.getLsbD port = true →
      gives (.linkFallback port) { s with fabric := { s.fabric with axyen := s.fabric.axyen &&& ~~~(1#16 <<< port) } }) ∧
    (s.fabric.up.getLsbD port = true →
      gives (.linkDown port) { s with fabric := { s.fabric with
        up := s.fabric.up &&& ~~~(1#16 <<< port), axyen := s.fabric.axyen &&& ~~~(1#16 <<< port) } } ∧
      ∀ fpid, fpid ≠ s.boot.fpid → gives (.foreignFpidDrop port fpid) s.dropMessage) ∧
    (port < 16 → s.fabric.up.getLsbD port = false →
      gives (.linkUp port) { s with fabric := { s.fabric with up := s.fabric.up ||| (1#16 <<< port) } }) ∧
    -- the FM API: routes are written, an extent list is answered; in host-assisted mode the host gets the command
    (s.hmode.getLsbD 2 = false → src = s.master →
      (∀ entries, gives (.fmApiCommand src (.routes entries)) { s with fabric := { s.fabric with
        routes := entries.foldl (fun m e => if e.1 < 4096 then Assoc.put 0 m e.1 (e.2 &&& 0x3FF) else m) s.fabric.routes } }) ∧
      gives (.fmApiCommand src .extentList) (s.send src (.fmApi (.extents (s.extents.map fun x => (x.tag, x.base, x.size))))) ∧
      (∀ l, gives (.fmApiCommand src (.extents l)) s) ∧ ∀ add tag, gives (.fmApiCommand src (.capacity add tag)) s) ∧
    (∀ command, s.hmode.getLsbD 2 = true → src = s.master → gives (.fmApiCommand src command) (s.tellHostFmApi src command)) ∧
    (∀ command, src ≠ s.master → gives (.fmApiCommand src command) s)) ∧
  (∀ (s : State) (pkg : Nat), s.onFabric = true →
    let r := Assoc.getD s.fabric.routes pkg 0
    let port := bits r.toNat 0 4
    let alt := bits r.toNat 4 4
    (r.getLsbD 8 = true → s.fabric.up.getLsbD port = true → s.route? pkg = some port) ∧
    (r.getLsbD 8 = true → s.fabric.up.getLsbD port = false → r.getLsbD 9 = true → s.fabric.up.getLsbD alt = true →
      s.route? pkg = some alt) ∧
    ((r.getLsbD 8 = false ∨ (s.fabric.up.getLsbD port = false ∧ (r.getLsbD 9 = false ∨ s.fabric.up.getLsbD alt = false))) →
      s.route? pkg = none ∧ ∀ body, s.send pkg body = s))

/-- R29, R346, R414, R426, R429 to R434 (UNCORRECTABLE_WORD; DCMD_HALT, DCMD_RELEASE, DCMD_STEP, TRDP_WRITE, TRACE_RING_WRITE,
TDROP_CLEAR, MSEL_WRITE, REGISTER_WRITE; FOMAR_RECORD, FOMAR_REPLAY, FOMAR_CHECKPOINT): what each register holds after a write of it.
The path a DCMD names is the entry PATH of the resident group GID of context CTX.
Of the model's own choices it uses those of log 37 and 71. -/
def Obligations.HubEventsAct : Prop :=
  ∀ (s : State) (v : DWord) (n : Nat),
    let gives := fun (i : Instr) (t : State) => exec i s = Host.Outcome.next (φ := Fault) (ρ := Refusal) t
    let now := s.clocks.nsc
    let field := fun lo w => bits v.toNat lo w
    let dbg := fun (d : Debug) => ({ s with dbg := d } : State)
    ((paClass (8 * n) = .hbm ∨ paClass (8 * n) = .pool) → hubWordAt (8 * n) = none →
      gives (.uncorrectableWord n) { s with ecc := Assoc.set s.ecc n 0 }) ∧
    -- DCMD: refused while BUSY, no such path; HALT marks the entry, RELEASE and STEP clear its HOLD
    (let c := field 8 16 / 16
     let sl := field 8 16 % 16
     let named := fun (p : Path) => ∃ g, s.group? c sl = some g ∧ g.ctx = field 24 10 ∧ g.life = .resident ∧ Assoc.get? g.paths (field 4 4) = some p
     let becomes := fun (i : Instr) (st : DWord) (p : Path) =>
       ∃ t, exec i s = .next t ∧ t.dbg = { s.dbg with dstat := st } ∧ t.path? (.path c sl (field 4 4)) = some p ∧ t.mem = s.mem
     let released := fun (p : Path) =>
       { p with hold := false, aged := false, phase := if p.bite = true then .boundary else p.phase, readyAt := s.cyc c }
     (∀ i, (field 0 2 = 1 ∧ i = .dcmdHalt v) ∨ (field 0 2 = 2 ∧ i = .dcmdRelease v) ∨ (field 0 2 = 3 ∧ i = .dcmdStep v) →
       (s.dbgBusy = true → gives i (dbg { s.dbg with dstat := 6 })) ∧
       (s.dbgBusy = false → (∀ p, ¬named p) → gives i (dbg { s.dbg with dstat := 1 }))) ∧
     (∀ p, s.dbgBusy = false → named p →
       (field 0 2 = 1 → p.hold = true → gives (.dcmdHalt v) (dbg { s.dbg with dstat := 0 })) ∧
       (field 0 2 = 1 → p.hold = false → becomes (.dcmdHalt v) 4 { p with halt := true }) ∧
       (field 0 2 = 2 → p.hold = false → becomes (.dcmdRelease v) 0 p) ∧
       (field 0 2 = 3 → p.hold = false → becomes (.dcmdStep v) 4 { p with step := true }) ∧
       (p.hold = true → s.dbg.tsize = 0 → (∀ g, s.group? c sl = some g → g.uip = 0) →
         (field 0 2 = 2 → becomes (.dcmdRelease v) 0 (released p)) ∧
         (field 0 2 = 3 → becomes (.dcmdStep v) 4 { released p with step := true })) ∧
       (field 0 2 = 2 → ∃ t, exec (.dcmdRelease v) s = .next t ∧ t.dbg.dstat = 0) ∧
       (field 0 2 = 3 → ∃ t, exec (.dcmdStep v) s = .next t ∧ t.dbg.dstat = 4))) ∧
    -- the trace ring
    ((v.toNat % 32 = 0 → (v - s.dbg.tptr).toInt ≤ 0 → gives (.trdpWrite v) (dbg { s.dbg with trdp := v })) ∧
      (v.toNat % 32 ≠ 0 ∨ 0 < (v - s.dbg.tptr).toInt → gives (.trdpWrite v) s)) ∧
    (let ring := { s.dbg with tptr := 0, trdp := 0, tnext := 0, traces := [] }
     gives (.traceRingWrite false v) (dbg { ring with tbase := v &&& 0xFFFFFFFFFFFFF000 }) ∧
      gives (.traceRingWrite true v) (dbg { ring with tsize := v &&& 0xFFFFFFFFFFFFF000 })) ∧
    gives (.tdropClear v) (dbg { s.dbg with tdrop := s.dbg.tdrop &&& ~~~v }) ∧
    -- the monitors, SSTART and the debug block
    (n < 16384 → gives (.mselWrite n v) (s.modCore (n / 4) fun k =>
      { k with monitors := Assoc.set k.monitors (n % 4) { msel := v &&& 0xFFFFFFFF00001FFF } })) ∧
    (16384 ≤ n → n < 16400 → gives (.mselWrite n v) { s with
      monitors := Assoc.set s.monitors (n - 16384) { msel := v &&& 0xFFFFFFFF00001FFF } }) ∧
    gives (.registerWrite .sstart v) { s with sstart := v &&& 0x0FFFFFFFFFFFFFF8 } ∧
    (∀ i : Fin 8, gives (.registerWrite (.bpaddr i) v) (dbg { s.dbg with
        bpaddr := modifyAt s.dbg.bpaddr i.val fun _ => v &&& 0x0FFFFFFFFFFFFFF8 }) ∧
      gives (.registerWrite (.bpctl i) v) (dbg { s.dbg with bpctl := modifyAt s.dbg.bpctl i.val fun _ => v &&& 0x3FF0007 })) ∧
    gives (.registerWrite .dstat v) s ∧ gives (.registerWrite .tptr v) s ∧ gives (.registerWrite .fmstat v) s ∧
    -- Fomar: CTX, PER, RPL and REC; recording that begins empties its region and takes the base image
    gives (.registerWrite .fmbase v) { s with fomar := { s.fomar with base := v &&& 0xFFFFFFFFFFFFF000 } } ∧
    gives (.registerWrite .fmsize v) { s with fomar := { s.fomar with size := v &&& 0xFFFFFFFFFFFFF000 } } ∧
    (let f := { s.fomar with ctl := v &&& 0x3FFFFFF0003, active := s.fomar.active && v.getLsbD 1 }
     let begins := v.getLsbD 0 = true ∧ s.fomar.ctl.getLsbD 0 = false
     let begun : State := { s with fomar := { f with full := false, used := 0, lastAt := now, image := s.mem, log := [], dirty := [], cks := [] } }
     (begins → gives (.registerWrite .fmctl v) begun ∧ gives (.fomarRecord v) begun ∧ begun.hubRead .fmstat = 0) ∧
     (¬begins → gives (.registerWrite .fmctl v) { s with fomar := f } ∧
       (v.getLsbD 0 = true → gives (.fomarRecord v) { s with fomar := f }))) ∧
    (∀ c, n ≠ 0 → v.getLsbD 1 = true → s.fomar.active = false → (s.fmctlWrite v).fomar.cks[n - 1]? = some c →
      (s.fmctlWrite v).fomarGroups = [] → gives (.fomarReplay v n) ((s.fmctlWrite v).restoreCut n c)) ∧
    (s.fomar.cut = none → s.fomar.ctl.getLsbD 0 = true → s.fomarPeriod ≠ 0 → s.fomar.lastAt + s.fomarPeriod ≤ now → s.fomarGroups = [] →
      gives .fomarCheckpoint { s with fomar := { s.fomar with cut := some [], lastAt := now } }) ∧
    -- LSCFG: not while a group holds a slot, nor a division that the rule forbids
    (n < 4096 →
      let scru := field 8 8
      let l1 := field 0 4
      let allowed := (s.core n).slots = [] ∧ scru ≤ 128 ∧ 1 ≤ l1 ∧ l1 ≤ 10 ∧ scru + 16 * l1 + 24 ≤ 192
      (¬allowed → gives (.registerWrite (.lscfg n) v) s) ∧
      (allowed → gives (.registerWrite (.lscfg n) v) (s.modCore n fun k =>
        { k with lscfg := v &&& 0xFF0F, free := 192 - scru - 16 * l1, l1 := k.l1.take (1024 * l1) })))

/-- R414, R415, R421, R424, R437 to R440 (THERMAL_THROTTLE, THROTTLE_STEP_UP, OVERTEMP_RESET, PACKAGE_RESET, BRINGUP_STAGE;
CONFIG_REQUEST, VIRTIO_NOTIFY, HOST_BAR_ACCESS, SPDM_REQUEST): throttling, reset, what each stage of bring-up sets, and what a host
finds at the ports.
Of the model's own choices it uses those of log 5, 15, 30, 70 and 75. -/
def Obligations.BringupAndHostPortsAct : Prop :=
  ∀ (s : State) (n port : Nat),
    let gives := fun (i : Instr) (t : State) => exec i s = Host.Outcome.next (φ := Fault) (ρ := Refusal) t
    let now := s.clocks.nsc
    (n < 4 → gives (.thermalThrottle (.sensor n)) ((s.throttleDie n).hot [n])) ∧
    (∀ watts : List Nat, watts.length = 4 → n < 4 → (∀ k < 4, watts.getD k 0 ≤ watts.getD n 0) → (∀ k < n, watts.getD k 0 < watts.getD n 0) →
      gives (.thermalThrottle (.power watts)) ((s.throttleDie n).hot [0, 1, 2, 3])) ∧
    (n < 4 → s.clocks.throttle.getD n 0 ≠ 0 → s.clocks.lastHot.getD n 0 + 10000000 ≤ now →
      gives (.throttleStepUp n) { s with clocks := { s.clocks with
        throttle := modifyAt s.clocks.throttle n fun x => x - 1, lastHot := modifyAt s.clocks.lastHot n fun _ => now } }) ∧
    gives .packageReset { State.reset with agenda := s.agenda, free := s.free } ∧
    (∃ t, exec .overtempReset s = .next t ∧ t.bringup.held = true ∧ (∀ k < 32, (t.steward k).start = true) ∧ t.cores = []) ∧
    -- the stages
    (∀ boot, s.bringup.held = false → s.bringup.recovery = false → s.bringup.stage = n →
      (n < 8 → (n = 6 → ∀ k < 32, (s.steward k).start = false) →
        let done := fun (t : State) => { t with bringup := { s.bringup with stage := n + 1 } }
        (n = 1 → gives (.bringupStage true boot) (done { s with clocks := { s.clocks with nsc := 0, cyc := [0, 0, 0, 0, 0] } })) ∧
        (n = 3 → gives (.bringupStage true boot) (done { s with
          boot := { boot with pkgId := boot.pkgId % 4096, fpid := boot.fpid % 256, prio := boot.prio % 16 }, hmode := boot.hmode &&& 0xF })) ∧
        (n = 4 → ∃ t, exec (.bringupStage true boot) s = .next t ∧ t.bringup.stage = 5 ∧
          (∀ a, t.mem.read a = if 0x5FFF0000000 ≤ a ∧ a < 0x60000000000 then 0 else s.mem.read a) ∧
          t.booth.lent = [] ∧ t.booth.borrowed = [] ∧ (∀ r, t.hubRead r = State.reset.hubRead r)) ∧
        (n = 7 → gives (.bringupStage true boot) (done { s with fabric := { s.fabric with up := 0xFFFF, highest := some now } })) ∧
        (n = 0 ∨ n = 2 ∨ n = 5 ∨ n = 6 → gives (.bringupStage true boot) (done s))) ∧
      (n = 6 → (∃ k, k < 32 ∧ (s.steward k).start = true) → exec (.bringupStage true boot) s = .fault .notEnabled) ∧
      ((n = 2 ∨ n = 5) → gives (.bringupStage false boot) { s with bringup := { s.bringup with recovery := true } })) ∧
    -- the ports
    (port < 16 → s.onFabric = false → s.bringup.recovery = false → gives (.configRequest port) (s.tellPort port .retry)) ∧
    (port < 16 → s.onFabric = true → gives (.configRequest port) (s.tellPort port
      (.functions (((List.range 2).filter fun f => s.presents port f).map fun f => if f = 0 then 19 else 3)))) ∧
    (s.presents port n = true →
      let regs := fun (t : State) => (Assoc.getD t.virtio (2 * port + n) {}).regs
      let reads := fun (off : Nat) (b : Byte) => gives (.hostBarAccess port n off none) (s.tellPort port (.bar n off b))
      let rings := { s with doorbells := s.doorbells ++ [(port, n)] }
      gives (.virtioNotify port n) rings ∧
      (∀ off b, 0x3000 ≤ off → off < 0x3000 + 4 * virtioQueues n → gives (.hostBarAccess port n off (some b)) rings) ∧
      -- elsewhere a write is dropped and a read is zero
      (∀ off b, 0x40 ≤ off → (off < 0x3000 ∨ 0x3000 + 4 * virtioQueues n ≤ off) → gives (.hostBarAccess port n off (some b)) s) ∧
      (∀ off, 0x40 ≤ off → (off < 0x2000 ∨ 0x2040 ≤ off) → reads off 0) ∧
      -- device configuration: the guest_cid, and one port; the features offered
      (∀ k, k < 8 → n = 0 → reads (0x2000 + k) (BitVec.ofNat 8 ((0x1000 + s.boot.pkgId) / 2 ^ (8 * k)))) ∧
      (n = 1 → reads 0x2004 1) ∧
      virtioFeatures = 2 ^ 28 + 2 ^ 29 + 2 ^ 32 + 2 ^ 33 ∧
      -- a register that a host may write holds what it wrote; zero in device_status resets the function
      (∀ b, b ≠ 0 → ∃ t, exec (.hostBarAccess port n 0x14 (some b)) s = .next t ∧ regs t = Assoc.set (regs s) 0x14 b ∧ t.barByte port n 0x14 = b) ∧
      (Assoc.sorted s.virtio = true → ∃ t, exec (.hostBarAccess port n 0x14 (some 0)) s = .next t ∧ regs t = []) ∧
      (∀ off b, off < 4 → ∃ t, exec (.hostBarAccess port n off (some b)) s = .next t ∧ regs t = Assoc.set (regs s) off b ∧ t.barByte port n off = b)) ∧
    ((s.onFabric = true ∨ s.bringup.recovery = true) → 1 ≤ n → n ≤ 3 →
      let digest := (List.range 32).map fun k => Config.measurement s.boot n k
      gives (.spdmRequest n) { s with booth := { s.booth with sent := s.booth.sent ++ [{ dst := .host none, body := .spdm n digest }] } })

/-! ## Register results, the end of a clause, and taking an exception -/

/-- R68, R24, R25 and the frame of every instruction whose result is `State.result`, or a condition (`State.condResult`): on a path, a
helper or a steward, before the end of the clause, the result is in flight; the next instruction, at distance SC + 1, reads it where the
latency is at most that, and else what it would read without it: in the lanes written of a v register, and of the next one for a wide
result; in a g register; in a mask of a g register or a pair. Every other v and g register, fmt, memory, every other path, helper,
group, core, steward and table stay as they are; g63 reads as zero. On a steward it is for an instruction at whose end no write of a
special register takes effect. -/
def Obligations.ResultsAreInFlightUntilVisible : Prop :=
  ∀ (s : State) (u : Issuer) (uni : Bool) (lat : Nat) (sc : Fin 16),
    s.issuing? = some u → u.path.clause.idx + 1 < u.path.clause.words.length →
    (u.kind = .steward → ∀ w ∈ u.path.pend, w.visAt ≤ u.path.dist + sc.val + 1 → ∀ code, w.reg ≠ .sys code) →
    let later := { u with path := { u.path with dist := u.path.dist + sc.val + 1 } }
    let seen := lat ≤ sc.val + 1
    let frame := fun (t : State) (w : Issuer) =>
      t.issuer? u.agent = some w ∧ w.path.clause.idx = u.path.clause.idx + 1 ∧ w.path.exec = u.path.exec ∧ w.fmt = later.fmt ∧
      (∀ a, t.mem.read a = s.mem.read a) ∧ t.contexts = s.contexts ∧ t.ops = s.ops ∧ t.cmds = s.cmds ∧ t.engine = s.engine ∧
      t.booth = s.booth ∧ t.fabric = s.fabric ∧ t.dbg = s.dbg ∧ t.clocks = s.clocks ∧
      (∀ k, u.agent ≠ .steward k → t.steward k = s.steward k) ∧ (∀ c, c ≠ u.core → t.core c = s.core c) ∧
      (∀ k, u.agent = .steward k → ∃ x y, (t.steward k) = { s.steward k with path := x, seq := y }) ∧
      (∀ c n, u.agent = .helper c n → (∀ m, m ≠ n → t.helper? c m = s.helper? c m) ∧ (∀ sl, t.group? c sl = s.group? c sl) ∧
        ∀ h, s.helper? c n = some h → ∃ x y, t.helper? c n = some { h with path := x, seq := y }) ∧
      (∀ c sl i g, u.agent = .path c sl i → s.group? c sl = some g →
        (∀ x, x ≠ sl → t.group? c x = s.group? c x) ∧ (∀ m, t.helper? c m = s.helper? c m) ∧
        ∃ h, t.group? c sl = some h ∧ h.v = g.v ∧ h.g = g.g ∧ h.acc = g.acc ∧ h.rings = g.rings ∧ h.w = g.w ∧ h.live = g.live ∧
          ∀ k, k ≠ i → Assoc.get? h.paths k = Assoc.get? g.paths k)
    (∀ (n : Fin 192) (wide : Bool) (f : Nat → DWord), let t := s.result u uni (.v n) wide lat sc f
      ∃ w, frame t w ∧ t.readG w 63 = 0 ∧ (∀ r, t.readG w r = s.readG later r) ∧
        (∀ l, t.readV w n.val l = if seen ∧ l ∈ u.over uni then (f l).setWidth 32 else s.readV later n.val l) ∧
        (∀ l, t.readV w (n.val + 1) l =
          if wide = true ∧ seen ∧ l ∈ u.over uni then (f l).extractLsb' 32 32 else s.readV later (n.val + 1) l) ∧
        ∀ r l, r ≠ n.val → r ≠ n.val + 1 → t.readV w r l = s.readV later r l) ∧
    (∀ (n : Fin 64) (wide : Bool) (f : Nat → DWord), n.val ≠ 63 → u.over uni ≠ [] → let t := s.result u uni (.g n) wide lat sc f
      ∃ w, frame t w ∧ t.readG w 63 = 0 ∧ (∀ r l, t.readV w r l = s.readV later r l) ∧
        t.readG w n.val = (if seen then f ((u.over uni).headD 0) else s.readG later n.val) ∧
        ∀ r, r ≠ n.val → t.readG w r = s.readG later r) ∧
    (∀ (n : Fin 64) (p : Nat → Bool), n.val < 63 → (u.w32 = false → n.val < 62) → let t := s.condResult u uni (.g n) lat sc p
      ∃ w, frame t w ∧ t.readG w 63 = 0 ∧ (∀ r l, t.readV w r l = s.readV later r l) ∧
        (uni = true → t.readG w n.val = if seen then (if p 0 = true then 1 else 0) else s.readG later n.val) ∧
        (uni = false → t.readMask w (.g n) = if seen then (if u.w32 = true then ((maskWhere u.lanes p).setWidth 32).setWidth 128
          else maskWhere u.lanes p) else s.readMask later (.g n)) ∧
        ∀ r, r ≠ n.val → (uni = false → u.w32 = false → r ≠ n.val + 1) → t.readG w r = s.readG later r)

/-- R71, R68, R21, R54: at the end of a clause every write of it is in its register. On a path each v register holds, in each lane, the
latest write of the clause to it, or else what it held, and over that the bytes of the stores to frame registers that its threads hold
back until then (R34); each g register, a mask's among them, holds the latest write of the clause to it where no other path's write is
after them, and stays where another path's is after all of them; fmt holds the latest write to it. Where the Y bit of the header is set,
the same holds, and every path of the group is ready from the next cycle on. Nothing outside the agents' own state changes. A helper's
own registers and a steward's registers hold the latest writes likewise. -/
def Obligations.EndOfClauseMakesWritesVisible : Prop :=
  ∀ (s : State) (u : Issuer) (next : PC), s.issuing? = some u →
    let t := s.endClause u next
    let asOf := fun d => ({ u with path := { u.path with dist := d } } : Issuer)
    -- a place at which every write of the clause is visible
    let past := fun (d : Nat) => ∀ w ∈ u.path.pend, w.visAt ≤ d
    let proper := (∀ w ∈ u.path.pend, (w.vals.map (·.1)).Nodup ∧ ∀ x ∈ w.vals, x.1 < 128) ∧
      ∀ w ∈ u.path.pend, (∃ r, w.reg = .g r) ∨ w.reg = .fmt → ∃ x, w.vals = [(0, x)]
    let ended := fun (p : Path) =>
      p.pend = [] ∧ p.dist = 0 ∧ p.pc = next ∧ p.phase = .boundary ∧ p.exec = u.path.exec ∧ ∀ d, past d → p.fmt = (asOf d).fmt
    let outside := (∀ a, t.mem.read a = s.mem.read a) ∧ t.ops = s.ops ∧ t.cmds = s.cmds ∧ t.engine = s.engine ∧
      ∀ c, c ≠ u.core → t.core c = s.core c
    (∀ (g : Group) (c sl i : Nat), u.agent = .path c sl i → s.group? c sl = some g → Assoc.sorted g.v = true → Assoc.sorted g.g = true → proper →
      let held := g.heldStores.filter fun x => u.path.members.getLsbD x.thread
      let mine := fun r => u.path.pend.filter fun w => w.reg = .g r
      ∃ h p, t.group? c sl = some h ∧ Assoc.get? h.paths i = some p ∧ ended p ∧
        (∀ d, past d → ∀ r l, l < 128 →
          Assoc.getD h.v (128 * r + l) 0 = held.foldl (fun x y => if y.reg = r ∧ y.thread = l then patchWord x y.lo y.bytes else x)
            (s.readV (asOf d) r l)) ∧
        (∀ d, past d → u.path.seen = [] → ∀ r, r < 63 → (∀ w ∈ mine r, (Assoc.getD g.stamps r {}).before w.seq = true) →
          (mine r).Pairwise (fun w x => w.seq.before x.seq = true) → Assoc.getD h.g r 0 = s.readG (asOf d) r) ∧
        (∀ r, (∀ w ∈ mine r, (Assoc.getD g.stamps r {}).before w.seq = false) → Assoc.getD h.g r 0 = Assoc.getD g.g r 0) ∧
        (u.path.clause.header.getLsbD 36 = true → ∀ k q, Assoc.get? h.paths k = some q → q.readyAt = s.cyc c + 1 ∧ q.aged = false) ∧
        t.stewards = s.stewards ∧ outside) ∧
    (∀ (h : Helper) (c n : Nat), u.agent = .helper c n → s.helper? c n = some h → Assoc.sorted h.v = true → proper →
      (∀ w ∈ u.path.pend, ∀ x ∈ w.vals, x.1 = 0) →
      ∃ x, t.helper? c n = some x ∧ ended x.path ∧ (∀ d, past d → ∀ r, r < 16 → Assoc.getD x.v r 0 = s.readV (asOf d) r 0) ∧
        t.stewards = s.stewards ∧ outside) ∧
    (∀ k, u.agent = .steward k → Assoc.sorted (s.steward k).v = true → Assoc.sorted (s.steward k).g = true → proper →
      (∀ w ∈ u.path.pend, (∀ x ∈ w.vals, x.1 = 0) ∧ ∀ code, w.reg ≠ .sys code) →
      ended (t.steward k).path ∧ (∀ d, past d → ∀ r, Assoc.getD (t.steward k).v r 0 = s.readV (asOf d) r 0) ∧
        (∀ d, past d → ∀ r, r < 63 → Assoc.getD (t.steward k).g r 0 = s.readG (asOf d) r) ∧ t.cores = s.cores ∧
        (∀ j, j ≠ k → t.steward j = s.steward j) ∧ outside)

/-- R391, R392, R394, R396, R270: where a fault that is not restartable reaches every thread of a user-level path with an empty
reconvergence stack, whose context has a ring slot free and a trap area that can be written, with tracing off: the lowest free slot is
taken and the record of Table 3 is written there; the path is then a handler path at trap level at the context's handler entry with the
faulting threads and the fmt last set, tfr and tstk of that slot, and everything that `eret` restores saved.
Of the model's own choices it uses those of log 17, 18, 20. -/
def Obligations.FaultsEnterTheHandler : Prop :=
  ∀ (s t : State) (c sl i slot : Nat) (u : Issuer) (g : Group) (f : FaultInfo),
    s.issuer? (.path c sl i) = some u → s.group? c sl = some g → g.killed = false → u.path.lvl = false → u.path.recon = [] →
    u.lanes ≠ [] → (f.settle u.path.rgc).restartable = false → f.chunk = none → s.inTrapArea u.ctx f.faddr.toNat = false →
    s.freeSlot u.ctx = some slot → s.dbg.tsize = 0 →
    let mask := maskOf u.lanes
    let left := (((s.commitLanes u.agent u.path u.lanes).applyHeld c sl mask).leaveClause u.agent).modGroup c sl fun g =>
      { g with paths := Assoc.erase g.paths i }
    let x := f.settle u.path.rgc
    let record := recordBytes x
      { flags := recordFlags x false false (!u.path.rgc && 0x20 ≤ x.cause.toNat && x.cause.toNat ≤ 0x24), path := x.origin.getD i
        thread := if x.engine then x.thread else u.lanes.headD 0, gid := 16 * c + sl, rgpc := u.path.rgpc, launch := s.lidOf u.launch
        mask := mask }
    left.writeRecord u.ctx slot record = some t →
    ∃ p, (s.raise u f).path? (.path c sl i) = some p ∧ p.lvl = true ∧ p.pc = (s.context u.ctx).handler.setWidth 60 ∧ p.exec = mask ∧
      p.fmt = u.path.lastFmt ∧ p.loops = [] ∧ p.recon = [] ∧ p.rgpc = p.pc ∧ p.rgc = false ∧
      p.handler = some { slot := slot, tfr := (s.context u.ctx).tarea + BitVec.ofNat 64 (0x1000 + 64 * slot)
                         tstk := (s.context u.ctx).tarea + BitVec.ofNat 64 (0x30000 + 0x10000 * slot), saved := u.path.saved } ∧
      ((s.raise u f).context u.ctx).busy = (s.context u.ctx).busy ||| (1#64 <<< slot) ∧
      ((s.raise u f).context u.ctx).seq = (s.context u.ctx).seq + 1 ∧ (s.raise u f).mem = t.mem ∧
      record.length = 64 ∧ valueAt record 0 1 = x.cause.toNat ∧ valueAt record 8 8 = f.pc.toNat ∧
      valueAt record 16 8 = f.faddr.toNat ∧ valueAt record 24 8 = u.path.rgpc.toNat ∧ valueAt record 48 16 = mask.toNat

/-! ## Three rules, each stated whole -/

/-- R139: `fabs` clears the sign bit of each element and `fneg` inverts it; every other bit passes unchanged, NaNs and subnormals
included, whatever fmt holds. -/
def Obligations.FabsAndFnegTouchOnlyTheSign : Prop :=
  ∀ (s : State) (f : F3) (u : Issuer),
    ∀ p ∈ [(DType.f32, (0xFFFFFFFF#64, 0x80000000#64)), (.f64, (0xFFFFFFFFFFFFFFFF#64, 0x8000000000000000#64)),
        (.f16, (0xFFFF#64, 0x8000#64)), (.bf16, (0xFFFF#64, 0x8000#64)), (.f16x2, (0xFFFFFFFF#64, 0x80008000#64))],
      f.ty = p.1 →
      let w := isWide f.ty
      (s.ready? (.fabs f) (fun _ => fp1 f w) = some u →
        exec (.fabs f) s = .next (s.result u f.u f.d w (fpLat w) f.sc fun t => s.src u w f.a t &&& (p.2.1 &&& ~~~p.2.2))) ∧
      (s.ready? (.fneg f) (fun _ => fp1 f w) = some u →
        exec (.fneg f) s = .next (s.result u f.u f.d w (fpLat w) f.sc fun t => (s.src u w f.a t &&& p.2.1) ^^^ p.2.2))

/-- R274, R57: `sret` with a target that is a multiple of 8 sets the level to SSTAT.PL and IE to PIE, as it reads SSTAT at its place (R68), and the PC
to gA; another target
raises misaligned at the instruction, with the target as the fault address. Nothing else of SSTAT changes,
and another steward changes only as the writes still to come out of the clause change it. -/
def Obligations.SretRestoresTheSavedLevel : Prop :=
  ∀ (s : State) (f : F3) (u : Issuer) (k : Nat), u.agent = .steward k →
    s.ready? (.sret f) (fun u => { ctrlReq true [gUse f.a false] with may := u.kind == .steward && u.sup, sys := [0x34] }) = some u →
    let target := s.read64 u f.a 0
    let before := (s.commit (.steward k)).steward k
    (target.toNat % 8 = 0 → ∃ t, exec (.sret f) s = .next t ∧
      (t.steward k).sup = (s.readSys u 0x34 0).getLsbD 1 ∧ (t.steward k).sstat.getLsbD 0 = (s.readSys u 0x34 0).getLsbD 3 ∧
      (t.steward k).path.pc = target.setWidth 60 ∧ (∀ n, n ≠ 0 → (t.steward k).sstat.getLsbD n = before.sstat.getLsbD n) ∧
      (t.steward k).g = before.g ∧ (t.steward k).v = before.v ∧ (t.steward k).sepc = before.sepc ∧ t.mem = s.mem ∧
      ∀ j, j ≠ k → t.steward j = (s.commit (.steward k)).steward j) ∧
    (target.toNat % 8 ≠ 0 →
      exec (.sret f) s = .next (s.raise u { cause := 0x06, faddr := target, pc := u.path.wordAddr }))

/-- R171, R54: `yield` ends the clause as the end of a clause whose Y bit is set does; `nop` only goes on to the next instruction. -/
def Obligations.YieldActsAsTheYBitAndNopDoesNothing : Prop :=
  ∀ (s : State) (f : F3) (u : Issuer),
    let withY := { u with path := { u.path with clause := { u.path.clause with header := u.path.clause.header ||| (1#64 <<< 36) } } }
    (s.ready? (.yield f) (fun _ => ctrlReq true []) = some u → exec (.yield f) s = .next (s.endClause withY u.path.nextClause)) ∧
    (s.ready? (.nop f) (fun _ => ctrlReq false []) = some u → exec (.nop f) s = .next (s.retire u f.sc))

/-! ## An invariant of every instruction and event -/

/-- R3, and the model's own form of its tables (log 1, log 3; no rule of the spec): every instruction and every event that answers a next state
keeps memory and every allocation in canonical form and every table of `State.formed` in the order of its keys, from any state that has these
forms. -/
def Obligations.EveryInstructionKeepsTheForms : Prop :=
  ∀ (s t : State) (i : Instr), s.formed = true → exec i s = .next t → t.formed = true
end

