-- ==== Sys2Proof/Laws/Assoc.lean ====
section
/-! SUPPORT. Laws of the sparse tables: reading after writing, and that the keys stay in rising order. -/
namespace Sys2Proof.Machine

variable {α : Type}

theorem Assoc.get?_set_self (m : Assoc α) (n : Nat) (b : α) : Assoc.get? (Assoc.set m n b) n = some b := by
  induction m with
  | nil => simp [Assoc.set, Assoc.get?]
  | cons p m ih =>
    obtain ⟨k, a⟩ := p
    simp only [Assoc.set]
    split
    · simp [Assoc.get?]
    · split
      · simp [Assoc.get?]
      · have : k ≠ n := by omega
        simp [Assoc.get?, this, ih]

theorem Assoc.get?_set_ne (m : Assoc α) {n k : Nat} (b : α) (h : k ≠ n) :
    Assoc.get? (Assoc.set m n b) k = Assoc.get? m k := by
  induction m with
  | nil => simp [Assoc.set, Assoc.get?, h.symm]
  | cons p m ih =>
    obtain ⟨j, a⟩ := p
    simp only [Assoc.set]
    split
    · simp [Assoc.get?, h.symm]
    · split
      · subst_vars
        simp [Assoc.get?, h.symm]
      · simp [Assoc.get?, ih]

theorem Assoc.get?_erase_ne (m : Assoc α) {n k : Nat} (h : k ≠ n) : Assoc.get? (Assoc.erase m n) k = Assoc.get? m k := by
  induction m with
  | nil => rfl
  | cons p m ih =>
    obtain ⟨j, a⟩ := p
    simp only [Assoc.erase]
    split
    · rfl
    · split
      · subst_vars
        simp [Assoc.get?, h.symm]
      · simp [Assoc.get?, ih]

/-- Every key of the table is above `n`. -/
def Assoc.above (n : Nat) (m : Assoc α) : Prop := ∀ p ∈ m, n < p.1

theorem Assoc.above_mono {m : Assoc α} {i j : Nat} (h : Assoc.above j m) (hij : i < j) : Assoc.above i m :=
  fun p hp => Nat.lt_trans hij (h p hp)

theorem Assoc.sorted_cons {k : Nat} {a : α} {m : Assoc α} :
    Assoc.sorted ((k, a) :: m) = true ↔ Assoc.above k m ∧ Assoc.sorted m = true := by
  induction m generalizing k a with
  | nil => simp [Assoc.sorted, Assoc.above]
  | cons p m ih =>
    obtain ⟨n, b⟩ := p
    simp only [Assoc.sorted, Bool.and_eq_true, decide_eq_true_eq]
    constructor
    · rintro ⟨h, hs⟩
      refine ⟨fun q hq => ?_, hs⟩
      rcases List.mem_cons.mp hq with rfl | hq
      · exact h
      · exact Nat.lt_trans h ((ih.mp hs).1 q hq)
    · rintro ⟨h, hs⟩
      exact ⟨h (n, b) (List.mem_cons_self ..), hs⟩

theorem Assoc.get?_of_above {n : Nat} {m : Assoc α} (h : Assoc.above n m) : Assoc.get? m n = none := by
  induction m with
  | nil => rfl
  | cons p m ih =>
    obtain ⟨k, a⟩ := p
    have hk : n < k := h (k, a) (List.mem_cons_self ..)
    have : k ≠ n := by omega
    simp [Assoc.get?, this, ih fun q hq => h q (List.mem_cons_of_mem _ hq)]

theorem Assoc.mem_set {m : Assoc α} {n : Nat} {b : α} {p : Nat × α} (h : p ∈ Assoc.set m n b) : p = (n, b) ∨ p ∈ m := by
  induction m with
  | nil => exact .inl (by simpa [Assoc.set] using h)
  | cons q m ih =>
    obtain ⟨k, a⟩ := q
    simp only [Assoc.set] at h
    split at h
    · simpa using h
    · split at h
      · rcases List.mem_cons.mp h with rfl | h
        · exact .inl rfl
        · exact .inr (List.mem_cons_of_mem _ h)
      · rcases List.mem_cons.mp h with rfl | h
        · exact .inr (List.mem_cons_self ..)
        · exact (ih h).imp_right (List.mem_cons_of_mem _)

theorem Assoc.mem_erase {m : Assoc α} {n : Nat} {p : Nat × α} (h : p ∈ Assoc.erase m n) : p ∈ m := by
  induction m with
  | nil => exact h
  | cons q m ih =>
    obtain ⟨k, a⟩ := q
    simp only [Assoc.erase] at h
    split at h
    · exact h
    · split at h
      · exact List.mem_cons_of_mem _ h
      · rcases List.mem_cons.mp h with rfl | h
        · exact List.mem_cons_self ..
        · exact List.mem_cons_of_mem _ (ih h)

theorem Assoc.sorted_set {m : Assoc α} (n : Nat) (b : α) (h : Assoc.sorted m = true) : Assoc.sorted (Assoc.set m n b) = true := by
  induction m with
  | nil => rfl
  | cons p m ih =>
    obtain ⟨k, a⟩ := p
    obtain ⟨hk, hm⟩ := Assoc.sorted_cons.mp h
    simp only [Assoc.set]
    split
    · rename_i hn
      refine Assoc.sorted_cons.mpr ⟨fun q hq => ?_, h⟩
      rcases List.mem_cons.mp hq with rfl | hq
      · exact hn
      · exact Nat.lt_trans hn (hk q hq)
    · split
      · subst_vars
        exact Assoc.sorted_cons.mpr ⟨hk, hm⟩
      · refine Assoc.sorted_cons.mpr ⟨fun q hq => ?_, ih hm⟩
        rcases Assoc.mem_set hq with rfl | hq
        · simp only; omega
        · exact hk q hq

theorem Assoc.sorted_erase {m : Assoc α} (n : Nat) (h : Assoc.sorted m = true) : Assoc.sorted (Assoc.erase m n) = true := by
  induction m with
  | nil => rfl
  | cons p m ih =>
    obtain ⟨k, a⟩ := p
    obtain ⟨hk, hm⟩ := Assoc.sorted_cons.mp h
    simp only [Assoc.erase]
    split
    · exact h
    · split
      · exact hm
      · exact Assoc.sorted_cons.mpr ⟨fun q hq => hk q (Assoc.mem_erase hq), ih hm⟩

theorem Assoc.get?_erase_self {m : Assoc α} (n : Nat) (h : Assoc.sorted m = true) : Assoc.get? (Assoc.erase m n) n = none := by
  induction m with
  | nil => rfl
  | cons p m ih =>
    obtain ⟨k, a⟩ := p
    obtain ⟨hk, hm⟩ := Assoc.sorted_cons.mp h
    simp only [Assoc.erase]
    split
    · rename_i hn
      refine Assoc.get?_of_above fun q hq => ?_
      rcases List.mem_cons.mp hq with rfl | hq
      · exact hn
      · exact Nat.lt_trans hn (hk q hq)
    · split
      · subst_vars
        exact Assoc.get?_of_above hk
      · have : k ≠ n := by omega
        simp [Assoc.get?, this, ih hm]

/-- Reading a table in which an absent key reads as `d`, after writing at the same key. -/
theorem Assoc.getD_put_self [DecidableEq α] {m : Assoc α} (d : α) (n : Nat) (b : α) (h : Assoc.sorted m = true) :
    Assoc.getD (Assoc.put d m n b) n d = b := by
  unfold Assoc.getD Assoc.put
  split
  · simp [Assoc.get?_erase_self n h, *]
  · simp [Assoc.get?_set_self]

/-- Reading a table in which an absent key reads as `d`, after writing at another key. -/
theorem Assoc.getD_put_ne [DecidableEq α] (m : Assoc α) (d e : α) {n k : Nat} (b : α) (h : k ≠ n) :
    Assoc.getD (Assoc.put d m n b) k e = Assoc.getD m k e := by
  unfold Assoc.getD Assoc.put
  split
  · rw [Assoc.get?_erase_ne m h]
  · rw [Assoc.get?_set_ne m b h]

theorem Assoc.sorted_put [DecidableEq α] {m : Assoc α} (d : α) (n : Nat) (b : α) (h : Assoc.sorted m = true) :
    Assoc.sorted (Assoc.put d m n b) = true := by
  unfold Assoc.put
  split
  · exact Assoc.sorted_erase n h
  · exact Assoc.sorted_set n b h

theorem Assoc.sorted_filter {m : Assoc α} (p : Nat × α → Bool) (h : Assoc.sorted m = true) : Assoc.sorted (m.filter p) = true := by
  induction m with
  | nil => rfl
  | cons q m ih =>
    obtain ⟨k, a⟩ := q
    obtain ⟨hk, hm⟩ := Assoc.sorted_cons.mp h
    rw [List.filter_cons]
    split
    · exact Assoc.sorted_cons.mpr ⟨fun r hr => hk r ((List.mem_filter.mp hr).1), ih hm⟩
    · exact ih hm

end Sys2Proof.Machine
end

