-- ==== Sys2Proof/Laws/Memory.lean ====
section
/-! SUPPORT. Laws of memory: a byte read after a write, and that every operation keeps the canonical form. -/
namespace Sys2Proof.Machine

theorem Memory.wf_iff (m : Memory) : m.wf = true ↔ Assoc.sorted m = true ∧ ∀ p ∈ m, p.2 ≠ 0 := by
  simp [Memory.wf]

/-- A byte read where it was written. -/
theorem Memory.read_write_self {m : Memory} (a : Nat) (b : Byte) (h : m.wf = true) : (m.write a b).read a = b :=
  Assoc.getD_put_self 0 a b ((Memory.wf_iff m).mp h).1

/-- A byte read where another was written. -/
theorem Memory.read_write_ne (m : Memory) {a c : Nat} (b : Byte) (h : c ≠ a) : (m.write a b).read c = m.read c :=
  Assoc.getD_put_ne m 0 0 b h

/-- Writing a byte keeps the canonical form. -/
theorem Memory.wf_write {m : Memory} (a : Nat) (b : Byte) (h : m.wf = true) : (m.write a b).wf = true := by
  rw [Memory.wf_iff] at h ⊢
  refine ⟨Assoc.sorted_put 0 a b h.1, fun p hp => ?_⟩
  unfold Memory.write Assoc.put at hp
  split at hp
  · exact h.2 p (Assoc.mem_erase hp)
  · rcases Assoc.mem_set hp with rfl | hp
    · assumption
    · exact h.2 p hp

/-- Writing bytes keeps the canonical form. -/
theorem Memory.wf_writeN {m : Memory} (a : Nat) (bs : List Byte) (h : m.wf = true) : (m.writeN a bs).wf = true := by
  induction bs generalizing m a with
  | nil => exact h
  | cons b bs ih => exact ih (a + 1) (Memory.wf_write a b h)

/-- Storing a value keeps the canonical form. -/
theorem Memory.wf_store {m : Memory} (a n v : Nat) (h : m.wf = true) : (m.store a n v).wf = true :=
  Memory.wf_writeN a _ h

/-- Clearing bytes keeps the canonical form. -/
theorem Memory.wf_clear {m : Memory} (a n : Nat) (h : m.wf = true) : (m.clear a n).wf = true := by
  rw [Memory.wf_iff] at h ⊢
  exact ⟨Assoc.sorted_filter _ h.1, fun p hp => h.2 p ((List.mem_filter.mp hp).1)⟩

/-- A byte outside a written range is unchanged. -/
theorem Memory.read_writeN_out (m : Memory) (a : Nat) (bs : List Byte) {c : Nat} (h : c < a ∨ a + bs.length ≤ c) :
    (m.writeN a bs).read c = m.read c := by
  induction bs generalizing m a with
  | nil => rfl
  | cons b bs ih =>
    simp only [List.length_cons] at h
    rw [Memory.writeN, ih _ _ (by omega), Memory.read_write_ne _ _ (by omega)]

/-- A byte inside a written range holds what was written. -/
theorem Memory.read_writeN_in {m : Memory} (a : Nat) (bs : List Byte) {k : Nat} (hk : k < bs.length) (h : m.wf = true) :
    (m.writeN a bs).read (a + k) = bs[k] := by
  induction bs generalizing m a k with
  | nil => exact absurd hk (Nat.not_lt_zero _)
  | cons b bs ih =>
    cases k with
    | zero => rw [Memory.writeN, Memory.read_writeN_out _ _ _ (by omega), Nat.add_zero, Memory.read_write_self a b h]; rfl
    | succ k =>
      rw [Memory.writeN, show a + (k + 1) = a + 1 + k by omega, ih _ (by simpa using hk) (Memory.wf_write a b h)]
      rfl

/-- The memory after reset has the canonical form. -/
theorem reset_mem_wf : State.reset.mem.wf = true := rfl

end Sys2Proof.Machine
end

