-- ==== Sys2Proof/Laws/Home.lean ====
section
/-! SUPPORT. The operations of the machine that write memory keep its canonical form: bytes and ranges written at home
(R345), the pages a replay puts back (R433), and the hub area cleared at bring-up (R439). -/
namespace Sys2Proof.Machine

@[simp] theorem State.pokeByte_mem (s : State) (pa : Nat) (b : Byte) : (s.pokeByte pa b).mem = s.mem.write pa b := rfl

theorem State.pokeBytes_mem (s : State) (pa : Nat) (bs : List Byte) : (s.pokeBytes pa bs).mem = s.mem.writeN pa bs := by
  induction bs generalizing s pa with
  | nil => rfl
  | cons b bs ih => rw [State.pokeBytes, ih, State.pokeByte_mem, Memory.writeN]

@[simp] theorem State.dropTracked_mem (s : State) (line : Nat) (o : Option Nat) : (s.dropTracked line o).mem = s.mem := rfl

@[simp] theorem State.trackStewards_mem (s : State) (line : Nat) (o : Option Nat) : (s.trackStewards line o).mem = s.mem := by
  unfold State.trackStewards
  split <;> rfl

/-- The copies that follow a write of some lines leave memory alone. -/
theorem State.track_fold_mem (l : List Nat) (o : Option Nat) (s : State) :
    (l.foldl (fun s line => (s.dropTracked line o).trackStewards line o) s).mem = s.mem := by
  induction l generalizing s with
  | nil => rfl
  | cons a l ih => rw [List.foldl_cons, ih, State.trackStewards_mem, State.dropTracked_mem]

/-- A write at home changes memory by exactly its bytes. -/
theorem State.homeWrite_mem (s : State) (o : Option Nat) (pa : Nat) (bs : List Byte) :
    (s.homeWrite o pa bs).mem = s.mem.writeN pa bs := by
  unfold State.homeWrite
  exact (State.track_fold_mem _ _ _).trans (State.pokeBytes_mem s pa bs)

/-- A write at home keeps the canonical form of memory. -/
theorem State.homeWrite_wf {s : State} (o : Option Nat) (pa : Nat) (bs : List Byte) (h : s.mem.wf = true) :
    (s.homeWrite o pa bs).mem.wf = true := by
  rw [State.homeWrite_mem]
  exact Memory.wf_writeN pa bs h

@[simp] theorem State.markDirty_mem (s : State) (ctx pa : Nat) : (s.markDirty ctx pa).mem = s.mem := by
  unfold State.markDirty
  split <;> rfl

/-- Restoring the pages of a checkpoint keeps the canonical form. -/
theorem Memory.wf_overlay {m : Memory} (pages : List Nat) (by' : Memory) (h : m.wf = true) :
    (m.overlay pages by').wf = true := by
  have base : Memory.wf (m.filter fun c => !pages.contains (c.1 / 4096)) = true := by
    rw [Memory.wf_iff] at h ⊢
    exact ⟨Assoc.sorted_filter _ h.1, fun p hp => h.2 p (List.mem_filter.mp hp).1⟩
  have step : ∀ (l : List (Nat × Byte)) (m : Memory), m.wf = true → Memory.wf (l.foldl (fun m c => m.write c.1 c.2) m) = true := by
    intro l
    induction l with
    | nil => exact fun _ h => h
    | cons c l ih => exact fun m h => ih _ (Memory.wf_write _ _ h)
  exact step _ _ base

end Sys2Proof.Machine
end

