-- ==== Sys2Proof/Laws/State.lean ====
section
/-! SUPPORT. What each update of the state changes, field by field, and what the accessors of agents read after it. -/
namespace Sys2Proof.Machine

/-! ## `State.setCore` -/

@[simp] theorem State.setCore_turn (s : State) (c : Nat) (k : Core) : (s.setCore c k).turn = s.turn := rfl
@[simp] theorem State.setCore_agenda (s : State) (c : Nat) (k : Core) : (s.setCore c k).agenda = s.agenda := rfl
@[simp] theorem State.setCore_nextId (s : State) (c : Nat) (k : Core) : (s.setCore c k).nextId = s.nextId := rfl
@[simp] theorem State.setCore_free (s : State) (c : Nat) (k : Core) : (s.setCore c k).free = s.free := rfl
@[simp] theorem State.setCore_clocks (s : State) (c : Nat) (k : Core) : (s.setCore c k).clocks = s.clocks := rfl
@[simp] theorem State.setCore_mem (s : State) (c : Nat) (k : Core) : (s.setCore c k).mem = s.mem := rfl
@[simp] theorem State.setCore_ecc (s : State) (c : Nat) (k : Core) : (s.setCore c k).ecc = s.ecc := rfl
@[simp] theorem State.setCore_stewards (s : State) (c : Nat) (k : Core) : (s.setCore c k).stewards = s.stewards := rfl
@[simp] theorem State.setCore_contexts (s : State) (c : Nat) (k : Core) : (s.setCore c k).contexts = s.contexts := rfl
@[simp] theorem State.setCore_objects (s : State) (c : Nat) (k : Core) : (s.setCore c k).objects = s.objects := rfl
@[simp] theorem State.setCore_ops (s : State) (c : Nat) (k : Core) : (s.setCore c k).ops = s.ops := rfl
@[simp] theorem State.setCore_clusters (s : State) (c : Nat) (k : Core) : (s.setCore c k).clusters = s.clusters := rfl
@[simp] theorem State.setCore_cmds (s : State) (c : Nat) (k : Core) : (s.setCore c k).cmds = s.cmds := rfl
@[simp] theorem State.setCore_booth (s : State) (c : Nat) (k : Core) : (s.setCore c k).booth = s.booth := rfl
@[simp] theorem State.setCore_fabric (s : State) (c : Nat) (k : Core) : (s.setCore c k).fabric = s.fabric := rfl
@[simp] theorem State.setCore_bringup (s : State) (c : Nat) (k : Core) : (s.setCore c k).bringup = s.bringup := rfl
@[simp] theorem State.setCore_virtio (s : State) (c : Nat) (k : Core) : (s.setCore c k).virtio = s.virtio := rfl
@[simp] theorem State.setCore_fomar (s : State) (c : Nat) (k : Core) : (s.setCore c k).fomar = s.fomar := rfl
@[simp] theorem State.setCore_hubTlb (s : State) (c : Nat) (k : Core) : (s.setCore c k).hubTlb = s.hubTlb := rfl
@[simp] theorem State.setCore_stewardLines (s : State) (c : Nat) (k : Core) : (s.setCore c k).stewardLines = s.stewardLines := rfl
@[simp] theorem State.setCore_engine (s : State) (c : Nat) (k : Core) : (s.setCore c k).engine = s.engine := rfl
@[simp] theorem State.setCore_boot (s : State) (c : Nat) (k : Core) : (s.setCore c k).boot = s.boot := rfl
@[simp] theorem State.setCore_sstart (s : State) (c : Nat) (k : Core) : (s.setCore c k).sstart = s.sstart := rfl
@[simp] theorem State.setCore_hmode (s : State) (c : Nat) (k : Core) : (s.setCore c k).hmode = s.hmode := rfl
@[simp] theorem State.setCore_doorbells (s : State) (c : Nat) (k : Core) : (s.setCore c k).doorbells = s.doorbells := rfl
@[simp] theorem State.setCore_notices (s : State) (c : Nat) (k : Core) : (s.setCore c k).notices = s.notices := rfl
@[simp] theorem State.setCore_dbg (s : State) (c : Nat) (k : Core) : (s.setCore c k).dbg = s.dbg := rfl
@[simp] theorem State.setCore_monitors (s : State) (c : Nat) (k : Core) : (s.setCore c k).monitors = s.monitors := rfl

/-! ## `State.modSteward` -/

@[simp] theorem State.modSteward_turn (s : State) (k : Nat) (f : Steward → Steward) : (s.modSteward k f).turn = s.turn := rfl
@[simp] theorem State.modSteward_agenda (s : State) (k : Nat) (f : Steward → Steward) : (s.modSteward k f).agenda = s.agenda := rfl
@[simp] theorem State.modSteward_nextId (s : State) (k : Nat) (f : Steward → Steward) : (s.modSteward k f).nextId = s.nextId := rfl
@[simp] theorem State.modSteward_free (s : State) (k : Nat) (f : Steward → Steward) : (s.modSteward k f).free = s.free := rfl
@[simp] theorem State.modSteward_clocks (s : State) (k : Nat) (f : Steward → Steward) : (s.modSteward k f).clocks = s.clocks := rfl
@[simp] theorem State.modSteward_mem (s : State) (k : Nat) (f : Steward → Steward) : (s.modSteward k f).mem = s.mem := rfl
@[simp] theorem State.modSteward_ecc (s : State) (k : Nat) (f : Steward → Steward) : (s.modSteward k f).ecc = s.ecc := rfl
@[simp] theorem State.modSteward_cores (s : State) (k : Nat) (f : Steward → Steward) : (s.modSteward k f).cores = s.cores := rfl
@[simp] theorem State.modSteward_contexts (s : State) (k : Nat) (f : Steward → Steward) : (s.modSteward k f).contexts = s.contexts := rfl
@[simp] theorem State.modSteward_objects (s : State) (k : Nat) (f : Steward → Steward) : (s.modSteward k f).objects = s.objects := rfl
@[simp] theorem State.modSteward_ops (s : State) (k : Nat) (f : Steward → Steward) : (s.modSteward k f).ops = s.ops := rfl
@[simp] theorem State.modSteward_clusters (s : State) (k : Nat) (f : Steward → Steward) : (s.modSteward k f).clusters = s.clusters := rfl
@[simp] theorem State.modSteward_cmds (s : State) (k : Nat) (f : Steward → Steward) : (s.modSteward k f).cmds = s.cmds := rfl
@[simp] theorem State.modSteward_booth (s : State) (k : Nat) (f : Steward → Steward) : (s.modSteward k f).booth = s.booth := rfl
@[simp] theorem State.modSteward_fabric (s : State) (k : Nat) (f : Steward → Steward) : (s.modSteward k f).fabric = s.fabric := rfl
@[simp] theorem State.modSteward_bringup (s : State) (k : Nat) (f : Steward → Steward) : (s.modSteward k f).bringup = s.bringup := rfl
@[simp] theorem State.modSteward_virtio (s : State) (k : Nat) (f : Steward → Steward) : (s.modSteward k f).virtio = s.virtio := rfl
@[simp] theorem State.modSteward_fomar (s : State) (k : Nat) (f : Steward → Steward) : (s.modSteward k f).fomar = s.fomar := rfl
@[simp] theorem State.modSteward_hubTlb (s : State) (k : Nat) (f : Steward → Steward) : (s.modSteward k f).hubTlb = s.hubTlb := rfl
@[simp] theorem State.modSteward_stewardLines (s : State) (k : Nat) (f : Steward → Steward) : (s.modSteward k f).stewardLines = s.stewardLines := rfl
@[simp] theorem State.modSteward_engine (s : State) (k : Nat) (f : Steward → Steward) : (s.modSteward k f).engine = s.engine := rfl
@[simp] theorem State.modSteward_boot (s : State) (k : Nat) (f : Steward → Steward) : (s.modSteward k f).boot = s.boot := rfl
@[simp] theorem State.modSteward_sstart (s : State) (k : Nat) (f : Steward → Steward) : (s.modSteward k f).sstart = s.sstart := rfl
@[simp] theorem State.modSteward_hmode (s : State) (k : Nat) (f : Steward → Steward) : (s.modSteward k f).hmode = s.hmode := rfl
@[simp] theorem State.modSteward_doorbells (s : State) (k : Nat) (f : Steward → Steward) : (s.modSteward k f).doorbells = s.doorbells := rfl
@[simp] theorem State.modSteward_notices (s : State) (k : Nat) (f : Steward → Steward) : (s.modSteward k f).notices = s.notices := rfl
@[simp] theorem State.modSteward_dbg (s : State) (k : Nat) (f : Steward → Steward) : (s.modSteward k f).dbg = s.dbg := rfl
@[simp] theorem State.modSteward_monitors (s : State) (k : Nat) (f : Steward → Steward) : (s.modSteward k f).monitors = s.monitors := rfl

/-! ## `State.modContext` -/

@[simp] theorem State.modContext_turn (s : State) (n : Nat) (f : Context → Context) : (s.modContext n f).turn = s.turn := rfl
@[simp] theorem State.modContext_agenda (s : State) (n : Nat) (f : Context → Context) : (s.modContext n f).agenda = s.agenda := rfl
@[simp] theorem State.modContext_nextId (s : State) (n : Nat) (f : Context → Context) : (s.modContext n f).nextId = s.nextId := rfl
@[simp] theorem State.modContext_free (s : State) (n : Nat) (f : Context → Context) : (s.modContext n f).free = s.free := rfl
@[simp] theorem State.modContext_clocks (s : State) (n : Nat) (f : Context → Context) : (s.modContext n f).clocks = s.clocks := rfl
@[simp] theorem State.modContext_mem (s : State) (n : Nat) (f : Context → Context) : (s.modContext n f).mem = s.mem := rfl
@[simp] theorem State.modContext_ecc (s : State) (n : Nat) (f : Context → Context) : (s.modContext n f).ecc = s.ecc := rfl
@[simp] theorem State.modContext_cores (s : State) (n : Nat) (f : Context → Context) : (s.modContext n f).cores = s.cores := rfl
@[simp] theorem State.modContext_stewards (s : State) (n : Nat) (f : Context → Context) : (s.modContext n f).stewards = s.stewards := rfl
@[simp] theorem State.modContext_objects (s : State) (n : Nat) (f : Context → Context) : (s.modContext n f).objects = s.objects := rfl
@[simp] theorem State.modContext_ops (s : State) (n : Nat) (f : Context → Context) : (s.modContext n f).ops = s.ops := rfl
@[simp] theorem State.modContext_clusters (s : State) (n : Nat) (f : Context → Context) : (s.modContext n f).clusters = s.clusters := rfl
@[simp] theorem State.modContext_cmds (s : State) (n : Nat) (f : Context → Context) : (s.modContext n f).cmds = s.cmds := rfl
@[simp] theorem State.modContext_booth (s : State) (n : Nat) (f : Context → Context) : (s.modContext n f).booth = s.booth := rfl
@[simp] theorem State.modContext_fabric (s : State) (n : Nat) (f : Context → Context) : (s.modContext n f).fabric = s.fabric := rfl
@[simp] theorem State.modContext_bringup (s : State) (n : Nat) (f : Context → Context) : (s.modContext n f).bringup = s.bringup := rfl
@[simp] theorem State.modContext_virtio (s : State) (n : Nat) (f : Context → Context) : (s.modContext n f).virtio = s.virtio := rfl
@[simp] theorem State.modContext_fomar (s : State) (n : Nat) (f : Context → Context) : (s.modContext n f).fomar = s.fomar := rfl
@[simp] theorem State.modContext_hubTlb (s : State) (n : Nat) (f : Context → Context) : (s.modContext n f).hubTlb = s.hubTlb := rfl
@[simp] theorem State.modContext_stewardLines (s : State) (n : Nat) (f : Context → Context) : (s.modContext n f).stewardLines = s.stewardLines := rfl
@[simp] theorem State.modContext_engine (s : State) (n : Nat) (f : Context → Context) : (s.modContext n f).engine = s.engine := rfl
@[simp] theorem State.modContext_boot (s : State) (n : Nat) (f : Context → Context) : (s.modContext n f).boot = s.boot := rfl
@[simp] theorem State.modContext_sstart (s : State) (n : Nat) (f : Context → Context) : (s.modContext n f).sstart = s.sstart := rfl
@[simp] theorem State.modContext_hmode (s : State) (n : Nat) (f : Context → Context) : (s.modContext n f).hmode = s.hmode := rfl
@[simp] theorem State.modContext_doorbells (s : State) (n : Nat) (f : Context → Context) : (s.modContext n f).doorbells = s.doorbells := rfl
@[simp] theorem State.modContext_notices (s : State) (n : Nat) (f : Context → Context) : (s.modContext n f).notices = s.notices := rfl
@[simp] theorem State.modContext_dbg (s : State) (n : Nat) (f : Context → Context) : (s.modContext n f).dbg = s.dbg := rfl
@[simp] theorem State.modContext_monitors (s : State) (n : Nat) (f : Context → Context) : (s.modContext n f).monitors = s.monitors := rfl

/-! ## `State.freshId` -/

@[simp] theorem State.freshId_turn (s : State) : s.freshId.2.turn = s.turn := rfl
@[simp] theorem State.freshId_agenda (s : State) : s.freshId.2.agenda = s.agenda := rfl
@[simp] theorem State.freshId_free (s : State) : s.freshId.2.free = s.free := rfl
@[simp] theorem State.freshId_clocks (s : State) : s.freshId.2.clocks = s.clocks := rfl
@[simp] theorem State.freshId_mem (s : State) : s.freshId.2.mem = s.mem := rfl
@[simp] theorem State.freshId_ecc (s : State) : s.freshId.2.ecc = s.ecc := rfl
@[simp] theorem State.freshId_cores (s : State) : s.freshId.2.cores = s.cores := rfl
@[simp] theorem State.freshId_stewards (s : State) : s.freshId.2.stewards = s.stewards := rfl
@[simp] theorem State.freshId_contexts (s : State) : s.freshId.2.contexts = s.contexts := rfl
@[simp] theorem State.freshId_objects (s : State) : s.freshId.2.objects = s.objects := rfl
@[simp] theorem State.freshId_ops (s : State) : s.freshId.2.ops = s.ops := rfl
@[simp] theorem State.freshId_clusters (s : State) : s.freshId.2.clusters = s.clusters := rfl
@[simp] theorem State.freshId_cmds (s : State) : s.freshId.2.cmds = s.cmds := rfl
@[simp] theorem State.freshId_booth (s : State) : s.freshId.2.booth = s.booth := rfl
@[simp] theorem State.freshId_fabric (s : State) : s.freshId.2.fabric = s.fabric := rfl
@[simp] theorem State.freshId_bringup (s : State) : s.freshId.2.bringup = s.bringup := rfl
@[simp] theorem State.freshId_virtio (s : State) : s.freshId.2.virtio = s.virtio := rfl
@[simp] theorem State.freshId_fomar (s : State) : s.freshId.2.fomar = s.fomar := rfl
@[simp] theorem State.freshId_hubTlb (s : State) : s.freshId.2.hubTlb = s.hubTlb := rfl
@[simp] theorem State.freshId_stewardLines (s : State) : s.freshId.2.stewardLines = s.stewardLines := rfl
@[simp] theorem State.freshId_engine (s : State) : s.freshId.2.engine = s.engine := rfl
@[simp] theorem State.freshId_boot (s : State) : s.freshId.2.boot = s.boot := rfl
@[simp] theorem State.freshId_sstart (s : State) : s.freshId.2.sstart = s.sstart := rfl
@[simp] theorem State.freshId_hmode (s : State) : s.freshId.2.hmode = s.hmode := rfl
@[simp] theorem State.freshId_doorbells (s : State) : s.freshId.2.doorbells = s.doorbells := rfl
@[simp] theorem State.freshId_notices (s : State) : s.freshId.2.notices = s.notices := rfl
@[simp] theorem State.freshId_dbg (s : State) : s.freshId.2.dbg = s.dbg := rfl
@[simp] theorem State.freshId_monitors (s : State) : s.freshId.2.monitors = s.monitors := rfl

/-! ## `State.outside`: what no agent's own state holds -/

/-- The state without its cores and stewards: what an instruction that works on registers only leaves unchanged. -/
def State.outside (s : State) : State := { s with cores := [], stewards := [] }

@[simp] theorem State.outside_setCore (s : State) (c : Nat) (k : Core) : (s.setCore c k).outside = s.outside := rfl
@[simp] theorem State.outside_modCore (s : State) (c : Nat) (f : Core → Core) : (s.modCore c f).outside = s.outside := rfl
@[simp] theorem State.outside_modSteward (s : State) (k : Nat) (f : Steward → Steward) : (s.modSteward k f).outside = s.outside := rfl
@[simp] theorem State.outside_setGroup (s : State) (c sl : Nat) (g : Group) : (s.setGroup c sl g).outside = s.outside := rfl

@[simp] theorem State.outside_modGroup (s : State) (c sl : Nat) (f : Group → Group) : (s.modGroup c sl f).outside = s.outside := by
  unfold State.modGroup
  split <;> simp

@[simp] theorem State.outside_modHelper (s : State) (c n : Nat) (f : Helper → Helper) : (s.modHelper c n f).outside = s.outside := by
  unfold State.modHelper
  split <;> simp

@[simp] theorem State.outside_setPath (s : State) (a : Agent) (p : Path) : (s.setPath a p).outside = s.outside := by
  cases a <;> simp [State.setPath]

@[simp] theorem State.outside_modPath (s : State) (a : Agent) (f : Path → Path) : (s.modPath a f).outside = s.outside := by
  unfold State.modPath
  split <;> simp

@[simp] theorem State.outside_modRings (s : State) (a : Agent) (f : Rings → Rings) : (s.modRings a f).outside = s.outside := by
  cases a <;> simp [State.modRings]

@[simp] theorem State.outside_bumpSeq (s : State) (a : Agent) : (s.bumpSeq a).outside = s.outside := by
  cases a <;> simp [State.bumpSeq]

@[simp] theorem State.outside_putV (s : State) (a : Agent) (r lane : Nat) (x : Word) : (s.putV a r lane x).outside = s.outside := by
  cases a with
  | helper c n => simp only [State.putV]; split <;> simp
  | _ => simp [State.putV]

@[simp] theorem State.outside_putG (s : State) (a : Agent) (r : Nat) (x : DWord) (n : Stamp) : (s.putG a r x n).outside = s.outside := by
  unfold State.putG
  split
  · rfl
  · cases a <;> simp

/-- Memory is outside. -/
theorem State.mem_of_outside {s t : State} (h : t.outside = s.outside) : t.mem = s.mem := by
  have := congrArg State.mem h
  exact this

/-! ## Accessors after an update -/

@[simp] theorem State.core_setCore_self (s : State) (c : Nat) (k : Core) : (s.setCore c k).core c = k := by
  simp [State.core, State.setCore, Assoc.getD, Assoc.get?_set_self]

theorem State.core_setCore_ne (s : State) {c d : Nat} (k : Core) (h : d ≠ c) : (s.setCore c k).core d = s.core d := by
  simp [State.core, State.setCore, Assoc.getD, Assoc.get?_set_ne _ _ h]

@[simp] theorem State.core_modCore_self (s : State) (c : Nat) (f : Core → Core) : (s.modCore c f).core c = f (s.core c) := by
  simp [State.modCore]

theorem State.core_modCore_ne (s : State) {c d : Nat} (f : Core → Core) (h : d ≠ c) : (s.modCore c f).core d = s.core d :=
  State.core_setCore_ne s _ h

@[simp] theorem State.core_modSteward (s : State) (k d : Nat) (f : Steward → Steward) : (s.modSteward k f).core d = s.core d := rfl

@[simp] theorem State.steward_modSteward_self (s : State) (k : Nat) (f : Steward → Steward) :
    (s.modSteward k f).steward k = f (s.steward k) := by
  simp [State.steward, State.modSteward, Assoc.getD, Assoc.get?_set_self]

theorem State.steward_modSteward_ne (s : State) {k j : Nat} (f : Steward → Steward) (h : j ≠ k) :
    (s.modSteward k f).steward j = s.steward j := by
  simp [State.steward, State.modSteward, Assoc.getD, Assoc.get?_set_ne _ _ h]

@[simp] theorem State.context_modContext_self (s : State) (n : Nat) (f : Context → Context) :
    (s.modContext n f).context n = f (s.context n) := by
  simp [State.context, State.modContext, Assoc.getD, Assoc.get?_set_self]

theorem State.context_modContext_ne (s : State) {n m : Nat} (f : Context → Context) (h : m ≠ n) :
    (s.modContext n f).context m = s.context m := by
  simp [State.context, State.modContext, Assoc.getD, Assoc.get?_set_ne _ _ h]

/-- A group after a change of it. -/
theorem State.group?_modGroup_self {s : State} {c sl : Nat} {g : Group} (f : Group → Group) (h : s.group? c sl = some g) :
    (s.modGroup c sl f).group? c sl = some (f g) := by
  unfold State.modGroup
  rw [h]
  simp [State.setGroup, State.group?, Assoc.get?_set_self]

/-- A group after a change of another. -/
theorem State.group?_modGroup_ne (s : State) {c sl d tl : Nat} (f : Group → Group) (h : d ≠ c ∨ tl ≠ sl) :
    (s.modGroup c sl f).group? d tl = s.group? d tl := by
  unfold State.modGroup
  split
  · by_cases hd : d = c
    · subst hd
      have ht : tl ≠ sl := h.resolve_left (fun h => h rfl)
      simp [State.setGroup, State.group?, Assoc.get?_set_ne _ _ ht]
    · simp [State.setGroup, State.group?, State.core_modCore_ne _ _ hd]
  · rfl

/-- The path of an agent after it is set, where the agent has one. -/
theorem State.path?_setPath {s : State} {a : Agent} {p : Path} (q : Path) (h : s.path? a = some p) :
    (s.setPath a q).path? a = some q := by
  cases a with
  | path c sl i =>
    simp only [State.path?] at h
    obtain ⟨g, hg, -⟩ := Option.bind_eq_some_iff.mp h
    simp [State.setPath, State.path?, State.group?_modGroup_self _ hg, Assoc.get?_set_self]
  | helper c n =>
    simp only [State.path?, Option.map_eq_some_iff] at h
    obtain ⟨x, hx, -⟩ := h
    simp only [State.setPath, State.path?, State.modHelper, hx]
    simp [State.helper?, Assoc.get?_set_self]
  | steward k =>
    simp only [State.path?] at h ⊢
    split at h
    · simp [State.setPath, *]
    · cases h

/-- The path of an agent after a change of it. -/
theorem State.path?_modPath {s : State} {a : Agent} {p : Path} (f : Path → Path) (h : s.path? a = some p) :
    (s.modPath a f).path? a = some (f p) := by
  rw [State.modPath, h]
  exact State.path?_setPath _ h

end Sys2Proof.Machine
end

