-- ==== Sys2Proof/Laws/Ops.lean ====
section
/-! SUPPORT. What the shared operations of an instruction can do: issuing, retiring, and giving results to registers. -/
namespace Sys2Proof.Machine

/-! ## Issuing -/

/-- An instruction all of whose checks pass has its effect. -/
theorem issue_of_ready {s : State} {i : Instr} {req : Issuer → Req} {body : Issuer → State} {u : Issuer}
    (h : s.ready? i req = some u) : issue s i req body = .next (body u) := by
  unfold State.ready? at h
  split at h
  · cases h
  · rename_i v hv
    split at h
    · rename_i hg
      cases h
      simp [issue, hv, hg]
    · cases h

/-- Everything issuing can do: stop for want of an issuer; trap; wait; raise poisoned lanes; or the effect. -/
theorem issue_cases (s : State) (i : Instr) (req : Issuer → Req) (body : Issuer → State) :
    (s.issuing? = none ∧ issue s i req body = .fault .noIssuer) ∨
    ∃ u, s.issuing? = some u ∧
      ((∃ c, s.gate u i (req u) = .trap c ∧ issue s i req body = .next (s.raiseHere u c)) ∨
       (s.gate u i (req u) = .wait ∧ issue s i req body = .next (s.stall u (.interlock ((req u).regs u)))) ∨
       (∃ l, s.gate u i (req u) = .poison l ∧ issue s i req body = .next (s.raisePoison u l)) ∨
       (s.gate u i (req u) = .go ∧ issue s i req body = .next (body u))) := by
  unfold issue
  split
  · exact .inl ⟨‹_›, rfl⟩
  · rename_i u hu
    refine .inr ⟨u, hu, ?_⟩
    cases hg : s.gate u i (req u) <;> simp

/-- The issuer of an instruction that is ready is the one whose turn it is. -/
theorem issuing_of_ready {s : State} {i : Instr} {req : Issuer → Req} {u : Issuer} (h : s.ready? i req = some u) :
    s.issuing? = some u ∧ s.gate u i (req u) = .go := by
  unfold State.ready? at h
  split at h
  · cases h
  · split at h
    · cases h
      exact ⟨‹_›, ‹_›⟩
    · cases h

/-- The issuer's path is the one the state holds. -/
theorem path_of_issuing {s : State} {u : Issuer} (h : s.issuing? = some u) : s.path? u.agent = some u.path ∧ u.agent = s.turn := by
  unfold State.issuing? at h
  split at h
  · rename_i v hv
    split at h
    · cases h
      unfold State.issuer? at hv
      split at hv
      · rename_i c sl i ht
        obtain ⟨g, hg, hv⟩ := Option.bind_eq_some_iff.mp hv
        obtain ⟨p, hp, rfl⟩ := Option.map_eq_some_iff.mp hv
        simp [State.path?, hg, hp, ht]
      · rename_i c n ht
        obtain ⟨x, hx, hv⟩ := Option.bind_eq_some_iff.mp hv
        obtain ⟨g, hg, rfl⟩ := Option.map_eq_some_iff.mp hv
        simp [State.path?, hx, ht]
      · rename_i k ht
        split at hv
        · cases hv
          simp [State.path?, *]
        · cases hv
    · cases h
  · cases h

/-! ## What stays outside -/

@[simp] theorem State.outside_pushWrites (s : State) (u : Issuer) (ws : List (Reg × List (Nat × DWord))) (lat : Nat) :
    (s.pushWrites u ws lat).outside = s.outside := by
  simp [State.pushWrites]

/-- The paths of a group that wait in `wait` look again. -/
@[simp] theorem State.outside_recheckWaits (s : State) (a : Agent) : (s.recheckWaits a).outside = s.outside := by
  cases a <;> simp [State.recheckWaits]

@[simp] theorem State.outside_applySys (s : State) (a : Agent) (code : Nat) (x : DWord) :
    (s.applySys a code x).outside = s.outside := by
  cases a with
  | path c sl i =>
    simp only [State.applySys]
    split
    · simp
    · split <;> simp
  | helper c n => rfl
  | steward k => simp only [State.applySys]; split <;> exact State.outside_modSteward _ _ _

theorem State.outside_foldl {β : Type} (f : State → β → State) (h : ∀ s b, (f s b).outside = s.outside) (l : List β) (s : State) :
    (l.foldl f s).outside = s.outside := by
  induction l generalizing s with
  | nil => rfl
  | cons b l ih => rw [List.foldl_cons, ih, h]

@[simp] theorem State.outside_commitWrite (s : State) (a : Agent) (w : PendWrite) : (s.commitWrite a w).outside = s.outside := by
  unfold State.commitWrite
  split
  · exact State.outside_foldl _ (fun _ _ => by simp) _ _
  · exact State.outside_foldl _ (fun _ _ => by simp) _ _
  · split <;> simp
  · split <;> simp

/-- The stores held back until a clause ends write frame registers of their group. -/
@[simp] theorem State.outside_applyHeld (s : State) (c sl : Nat) (m : Mask) : (s.applyHeld c sl m).outside = s.outside := by
  unfold State.applyHeld
  split <;> simp

/-- The end of a clause writes registers of the agent, and nothing else. -/
@[simp] theorem State.outside_commit (s : State) (a : Agent) : (s.commit a).outside = s.outside := by
  unfold State.commit
  split
  · rfl
  · rw [State.outside_modPath]
    exact State.outside_foldl _ (fun _ _ => by simp) _ _

@[simp] theorem State.outside_leaveClause (s : State) (a : Agent) : (s.leaveClause a).outside = s.outside := by
  unfold State.leaveClause
  split <;> simp

/-- An instruction reached applies a steward's special-register writes that are visible to it. -/
@[simp] theorem State.outside_reach (s : State) (a : Agent) : (s.reach a).outside = s.outside := by
  unfold State.reach
  split
  · rw [State.outside_modPath]
    exact State.outside_foldl _ (fun _ _ => by simp) _ _
  · rfl

@[simp] theorem State.outside_yieldSlot (s : State) (c sl : Nat) : (s.yieldSlot c sl).outside = s.outside := by
  simp [State.yieldSlot]

@[simp] theorem State.outside_yieldGroup (s : State) (a : Agent) : (s.yieldGroup a).outside = s.outside := by
  unfold State.yieldGroup
  split
  · exact State.outside_yieldSlot s _ _
  · split <;> simp
  · rfl

@[simp] theorem State.outside_endClause (s : State) (u : Issuer) (next : PC) : (s.endClause u next).outside = s.outside := by
  unfold State.endClause
  dsimp only
  split <;> simp

@[simp] theorem State.outside_retire (s : State) (u : Issuer) (sc : Fin 16) : (s.retire u sc).outside = s.outside := by
  unfold State.retire
  split <;> simp

/-- An instruction that gives register results changes nothing outside the agents. -/
@[simp] theorem State.outside_result (s : State) (u : Issuer) (uni : Bool) (d : Opnd) (wide : Bool) (lat : Nat) (sc : Fin 16)
    (f : Nat → DWord) : (s.result u uni d wide lat sc f).outside = s.outside := by
  simp [State.result]

@[simp] theorem State.outside_condResult (s : State) (u : Issuer) (uni : Bool) (d : Opnd) (lat : Nat) (sc : Fin 16)
    (p : Nat → Bool) : (s.condResult u uni d lat sc p).outside = s.outside := by
  simp [State.condResult]

end Sys2Proof.Machine
end

