-- ==== Sys2Proof/Tests/Slice0.lean ====
section
/-! SUPPORT. The author's own tests: terms that each check of `WellFormed` refuses, words written out from the spec's encodings,
a state and operands that meet the hypotheses of each statement (`witness_…`), and single steps against the spec's worked
examples (`test_…`). -/
namespace Sys2Proof.Tests

open Sys2Proof.Machine

set_option Elab.async false

/-! ## Terms and small states -/

/-- A word of format F3 with every field that may be left out left out. -/
def f3 (ty : DType) (d : Opnd := .none) (a : Opnd := .none) (b : Opnd := .none) (c : Opnd := .none) (x : Byte := 0) : F3 :=
  { u := false, sc := 0, d := d, a := a, b := b, c := c, ty := ty, rm := .fmt, s := false, x := x }
def fi (d a : Opnd) (imm : Word) : FI := { u := false, sc := 0, d := d, a := a, imm := imm }
def fb (d : Opnd := .none) (a : Opnd := .none) (offs : Word := 0) : FB := { u := false, sc := 0, d := d, a := a, offs := offs }
def fm (sz : Size) (d : Opnd := .none) (a : Opnd := .none) (b : Opnd := .none) (ord : Order := .rlx) (scp : Scope := .thr) : FM :=
  { u := false, sc := 0, d := d, a := a, b := b, ord := ord, scp := scp, sz := sz, off := 0 }

/-- A path of two lanes at the first of `n` words of a clause. -/
def path (n : Nat) : Path :=
  { pc := 0x1008, exec := 3, phase := .issuing, clause := { addr := 0x1000, header := anyHeader, words := List.replicate n 0, idx := 0 } }

/-- A group with that path. -/
def group (n : Nat) (v : Assoc Word) (g : Assoc DWord) : Group :=
  { uid := 40, ctx := 0, launch := 1, kernel := { hlp := true, gregs := 56, tiles := 16, bars := 4 }, alloc := 1, w := 64, live := 3
    paths := [(0, path n)], v := v, g := g }

/-- Readable, writable and executable page 2 of memory at page 2 of the address space. -/
def page : TlbEntry := { ctx := 0, root := 0, page := 2, leaf := 0x2039, level := 0 }

/-- Page 3 in the pool, and page 4 at the start of the extent of slot 0's lease. -/
def poolPage : TlbEntry := { page with page := 3, leaf := 0x40000000039 }
def lentPage : TlbEntry := { page with page := 4, leaf := 0x8000000000039 }

/-- One core with one group and an allocation of 64 KiB. -/
def core (n : Nat) (v : Assoc Word) (g : Assoc DWord) : Core :=
  { slots := [(0, group n v g)], allocs := [(1, { launch := 1, units := 16, size := 65536, bars := 4 })], tlb := [page, poolPage, lentPage] }

/-- A state in which path 0 of the group in slot 0 of core 0 issues, at the first of `n` words. -/
def simt (n : Nat) (v : Assoc Word) (g : Assoc DWord) : State :=
  { State.reset with turn := .path 0 0 0, cores := [(0, core n v g)], nextId := 50
                     contexts := [(0, { installed := true, tarea := 0x100000000 })] }

/-- A state in which steward 0 issues at supervisor level. -/
def steward (n : Nat) (g : Assoc DWord) : State :=
  { State.reset with stewards := Assoc.set State.reset.stewards 0 { Steward.reset 0 with path := { path n with exec := 1 }, g := g }
                     hubTlb := [page] }

/-- A state in which helper 0 of core 0 issues, for thread 0 of the group in slot 0. -/
def helping (n : Nat) : State :=
  { State.reset with
    turn := .helper 0 0
    cores := [(0, { core 1 [] [] with helpers := [(0, { uid := 41, slot := 0, thread := 0, lentSlot := 1, lentThread := 0
                                                        path := { path n with exec := 1 } })] })] }

/-- What holds of the issuer of a state in which an instruction is ready. -/
def goes (o : Option Issuer) (p : Issuer → Bool := fun _ => true) : Bool :=
  match o with
  | some u => p u
  | none => false

/-- A check of some result that is not an error. -/
def okAnd {ε α : Type} (r : Except ε α) (p : α → Bool := fun _ => true) : Bool :=
  match r with
  | .ok x => p x
  | .error _ => false

/-- A check of the next state of a step. -/
def nextIs (o : Host.Outcome State Fault Refusal) (p : State → Bool) : Bool :=
  match o with
  | .next t => p t
  | _ => false

/-! ## Well-formedness: one refused term for each check -/

theorem smoke_uniform : (Instr.voteAny { f3 .b32 (.g 1) (.v 1) (x := 1) with u := true }).illFormed = some .uniform := by decide
theorem smoke_uniform_held : (Instr.ldx (fm .b128 (.g 1) (.g 2))).illFormed = some .uniform := by decide
theorem smoke_type : (Instr.mad (f3 .b32 (.v 1) (.v 2) (.v 3) (.v 4))).illFormed = some .type := by decide
theorem smoke_rounding : (Instr.fsin { f3 .f32 (.v 1) (.v 2) with rm := .rne }).illFormed = some .rounding := by decide
theorem smoke_saturate : (Instr.min { f3 .s32 (.v 1) (.v 2) (.v 3) with s := true }).illFormed = some .saturate := by decide
theorem smoke_unused : (Instr.add (f3 .s32 (.v 1) (.v 2) (.v 3) (.v 4))).illFormed = some .unused := by decide
theorem smoke_extra : (Instr.lea (f3 .s32 (.v 2) (.v 4) (.v 6) (x := 8))).illFormed = some .extra := by decide
theorem smoke_order : (Instr.ldG (fm .b32 (.v 1) (.v 2) (ord := .rel))).illFormed = some .order := by decide
theorem smoke_scope : (Instr.stL (fm .b32 (.v 1) (.v 2) (ord := .rel) (scp := .fab))).illFormed = some .scope := by decide
theorem smoke_size : (Instr.atomAdd (fm .b16 (.v 1) (.v 2) (.v 3))).illFormed = some .size := by decide
theorem smoke_wellFormed : (Instr.add (f3 .s32 (.v 1) (.v 2) (.v 3))).illFormed = none := by decide

/-! ## Decoding: words written out from the encodings -/

/-- The instruction a word decodes to is the given one, and encodes to that word. -/
def reads (w : DWord) (i : Instr) : Bool := (decodeWord w).toOption == some i && encode i == some w

theorem smoke_header_word : decodeWord 0xF8000000FFFFFFFF = .error .clauseHeader := rfl
theorem smoke_opcode : decodeWord 0x0700000000000000 = .error .opcode := rfl
theorem smoke_minor : (decodeWord 0x001F000000000000).toOption = none := by decide +kernel

/-- Words of the integer chapter's table of examples. -/
theorem decode_integer :
    reads 0x0102480404480000 (.mad (f3 .s32 (.v 72) (.v 4) (.v 4) (.v 72))) = true ∧
    reads 0x00060AFF0ACA3000 (.sel (f3 .n64 (.v 10) (.g 63) (.v 10) (.g 10))) = true ∧
    reads 0x0400CA0ACEFF9000 (.cmpEq (f3 .b64 (.g 10) (.v 10) (.g 14))) = true ∧
    reads 0x0982C8FF000000FF (.or64Imm { fi (.g 8) (.g 63) 0xFF with u := true }) = true := by decide +kernel

/-- Words of the floating-point chapter's table of examples. -/
theorem decode_float :
    reads 0x30000A0CC4FFB400 (.fadd { f3 .f64 (.v 10) (.v 12) (.g 4) with rm := .rtz }) = true ∧
    reads 0x31020504FFFFD20A (.fcvt { f3 .bf16 (.v 5) (.v 4) (x := 0x0A) with rm := .rne }) = true ∧
    reads 0x31030604FFFF040A (.f2i { f3 .s32 (.v 6) (.v 4) (x := 0x0A) with rm := .rtz }) = true ∧
    reads 0x3202C40102FFA000 (.fcmpLt (f3 .f32 (.g 4) (.v 1) (.v 2))) = true ∧
    reads 0x40050302FFFFA000 (.fsin (f3 .f32 (.v 3) (.v 2))) = true ∧
    reads 0x34000908FFFFF202 (.bfpk { f3 .blk (.v 9) (.v 8) (x := 2) with rm := .rne }) = true ∧
    reads 0x380001023F800000 (.faddF32Imm (fi (.v 1) (.v 2) 0x3F800000)) = true ∧
    reads 0x3403FFC1FFFF9000 (.fmtset (f3 .b64 .none (.g 1))) = true := by decide +kernel

/-- Words of the memory chapter's table of examples. -/
theorem decode_memory :
    reads 0x600004140A020040 (.ldG { fm .b32 (.v 4) (.v 20) (.v 10) with off := 64 }) = true ∧
    reads 0x610009140A020040 (.stG { fm .b32 (.v 9) (.v 20) (.v 10) with off := 64 }) = true ∧
    reads 0x6181CDCBFF020020 (.stL { fm .b32 (.g 13) (.g 11) with off := 32, u := true }) = true ∧
    reads 0x6082C3C0FF040000 (.ldx { fm .b128 (.g 3) (.g 0) with u := true }) = true ∧
    reads 0x620004C206720010 (.atomAdd { fm .b32 (.v 4) (.g 2) (.v 6) .acq .clu with off := 16 }) = true ∧
    reads 0x67020914FF8A0000 (.redAddF (fm .b32 (.v 9) (.v 20) (ord := .rel) (scp := .die))) = true ∧
    reads 0x6800FFFFFF980000 (.fence (fm .b8 (ord := .rel) (scp := .pkg))) = true ∧
    reads 0x6902FFFFC8600003 (.barWait { fm .b8 (b := .g 8) (ord := .acq) (scp := .core) with off := 3 }) = true ∧
    reads 0x6A03FFC5FFFF0000 (.waitCp (f3 .s32 .none (.g 5))) = true ∧
    reads 0x6A06FFFFFFFF0007 (.rclaim (f3 .s32 (x := 7))) = true := by decide +kernel

/-- Words of the chapters on control flow, commands, lanes and the system. -/
theorem decode_control_and_system :
    reads 0xA000FFFF00000008 (.bra (fb (offs := 8))) = true ∧ reads 0xA001C400FFFFFFFD (.brc (fb (.g 4) (.v 0) 0xFFFFFFFD)) = true ∧
    reads 0xA003FFC600000006 (.loop (fb .none (.g 6) 6)) = true ∧ reads 0xA004FF0000000000 (.endl (fb .none (.v 0))) = true ∧
    reads 0xA103FFFFFFFF0000 (.exit (f3 .s32)) = true ∧ reads 0xA300FF02FFFF9000 (.hpost (f3 .b64 .none (.v 2))) = true ∧
    reads 0xA30104FFFFFF9001 (.hjoin (f3 .b64 (.v 4) (x := 1))) = true ∧
    reads 0x8005FFC4FFFF0000 (.cpkick (f3 .s32 .none (.g 4))) = true ∧ reads 0x8001FFFFFFFF003D (.twait (f3 .s32 (x := 61))) = true ∧
    reads 0x800208FFC7FFA000 (.ardr (f3 .f32 (.v 8) .none (.g 7))) = true ∧
    reads 0x9004CD48FFFF0000 (.rdx (f3 .s32 (.g 13) (.v 72))) = true ∧ reads 0x9100FFC3FFFF0008 (.vdtab (f3 .s32 .none (.g 3) (x := 8))) = true ∧
    reads 0x91010C0A09FF0010 (.vdec (f3 .s32 (.v 12) (.v 10) (.v 9) (x := 16))) = true ∧
    reads 0xC00802FFFFFF0021 (.gsr { f3 .s32 (.v 2) (x := 0x21) with sc := 1 }) = true ∧ reads 0xC005FFC6FFFF0000 (.eret (f3 .s32 .none (.g 6))) = true ∧
    reads 0xC003FFFFFFFF0009 (.trap (f3 .s32 (x := 9))) = true ∧
    reads 0xC006FFD6D7FF0004 (.tlbiPage (f3 .s32 .none (.g 22) (.g 23) (x := 4))) = true := by decide +kernel

/-! ## A state and operands for the hypotheses of each statement -/

theorem witness_StepRunsTheDecodedInstruction :
    (State.reset.withFetchWord 64 0x0000040102FF0100).agenda = [] ∧
    goes (State.reset.withFetchWord 64 0x0000040102FF0100).issuing? (fun u => (decodeWord u.word).toOption.isSome) = true ∧
    goes (State.reset.withFetchWord 64 0xA0000000FFFFFFFF).issuing? (fun u => (decodeWord u.word).toOption.isNone) = true ∧
    encode (.helloTimer) = none := by decide +kernel

/-- A register that a load in flight will write. -/
def loading : Op :=
  { kind := .load, agent := .path 0 0 0, uid := 40, owner := 40, core := 0, mask := 3, ctx := 0, view := {}, size := 4, order := .rlx
    scope := .thr, dst := some (.v 1), lanes := [{ lane := 0, va := 0x2000, len := 4, tgt := .phys 0x2000 }]
    todo := [{ lane := 0, va := 0x2000, len := 4, tgt := .phys 0x2000 }] }

theorem witness_checks :
    goes ((simt 2 [] []).ready? (.add (f3 .s32 (.v 1) (.v 2) (.v 3))) fun _ => alu2 (f3 .s32 (.v 1) (.v 2) (.v 3))) = true ∧
    -- FirstFailedCheckDecidesTheCause: a bad field, a bad operand, a register read too early
    goes (simt 2 [] []).issuing? (fun u => (Instr.add (f3 .b32)).illFormed.isSome && u.path.clause.idx == 0) = true ∧
    goes (simt 2 [] []).issuing? (fun u => !(Use.ok u false { o := .v 64, role := .w32 })) = true ∧
    goes { (simt 2 [] []) with cores := [(0, { core 2 [] [] with slots := [(0, { group 2 [] [] with
        paths := [(0, { path 2 with view := { cmode := 1 }, pend := [{ reg := .v 1, vals := [(0, 7)], visAt := 4, seq := { seq := 1 } }] })] })] })] }.issuing?
      (fun u => u.path.view.cmode.getLsbD 0 && u.path.early (.v 1)) = true ∧
    -- InterlockedInstructionStalls
    goes { (simt 2 [] []) with ops := [(50, loading)] }.issuing? (fun u =>
      { (simt 2 [] []) with ops := [(50, loading)] }.gate u (.add (f3 .s32 (.v 1) (.v 2) (.v 3))) (alu2 (f3 .s32 (.v 1) (.v 2) (.v 3))) == .wait) = true ∧
    (group 2 [] []).killed = false ∧ (path 2).bite = false := by decide +kernel

/-- Whether each of some instructions with one request is ready in a state. -/
def allReady (s : State) (req : Issuer → Req) (is : List Instr) : Bool := is.all fun i => goes (s.ready? i req)

theorem witness_IntegerArithmetic :
    let f := f3 .s32 (.v 1) (.v 2) (.v 3)
    let g := f3 .s32 (.v 1) (.v 2)
    let h := f3 .s32 (.v 1) (.v 2) (.v 3) (.v 63)
    allReady (simt 2 [] []) (fun _ => alu2 f) [.add f, .sub f, .min f, .max f, .mul f, .mulhi f] = true ∧
    allReady (simt 2 [] []) (fun _ => req1 Cls.alu g (isWide g.ty) (isWide g.ty)) [.abs g, .neg g] = true ∧
    allReady (simt 2 [] []) (fun _ => req3 Cls.alu h (isWide h.ty) (isWide h.ty) (isWide h.ty) (isWide h.ty)) [.mad h] = true ∧
    allReady (simt 2 [] []) (fun _ => alu2 { f3 .s64 (.g 54) (.g 63) (.g 1) with u := true })
      [.add { f3 .s64 (.g 54) (.g 63) (.g 1) with u := true }] = true := by decide +kernel

theorem witness_SelectsConversionsAndCompares :
    let sel := f3 .s32 (.v 1) (.v 2) (.v 3) (.g 2)
    let dp := f3 .n8 (.v 1) (.v 2) (.v 3) (.v 4)
    let lea := f3 .s32 (.v 2) (.v 4) (.v 63) (x := 7)
    let a64 := f3 .b64 (.v 62) (.v 4) (.v 6)
    let cvt := f3 .s64 (.v 2) (.v 4) (x := 0)
    let cmp := f3 .s32 (.g 54) (.v 2) (.v 3)
    let fcmp := f3 .f64 (.g 2) (.v 2) (.v 62)
    let s := simt 2 [] []
    allReady s (fun _ => { cls := Cls.alu, uni := sel.u
                           uses := [dstUse sel.u (isWide sel.ty) sel.d, srcUse (isWide sel.ty) sel.a, srcUse (isWide sel.ty) sel.b,
                             { o := sel.c, role := if sel.u then .greg else .mask }] }) [.sel sel] = true ∧
    allReady s (fun _ => req3 Cls.alu dp false false false false) [.dp4 dp] = true ∧
    allReady s (fun _ => req2 Cls.alu lea true true (isWide lea.ty)) [.lea lea] = true ∧
    allReady s (fun _ => req2 Cls.alu a64 true true (a64.ty == .b64)) [.add64 a64, .sub64 a64] = true ∧
    allReady s (fun _ => req1 Cls.alu cvt (isWide cvt.ty) (isWide (DType.ofCode cvt.x.toNat))) [.cvt cvt] = true ∧
    allReady s (fun _ => cmpReq Cls.alu cmp) [.cmpEq cmp, .cmpNe cmp, .cmpLt cmp, .cmpLe cmp, .cmpGt cmp, .cmpGe cmp] = true ∧
    allReady s (fun _ => fcmpReq fcmp) [.fcmpEq fcmp, .fcmpNe fcmp, .fcmpLt fcmp, .fcmpLe fcmp, .fcmpGt fcmp, .fcmpGe fcmp, .fcmpUn fcmp,
      .fcmpOrd fcmp] = true := by decide +kernel

theorem witness_BitInstructions :
    let f := f3 .b32 (.v 1) (.v 2) (.v 3)
    let g := f3 .b64 (.v 2) (.v 4)
    let p := f3 .b64 (.v 63) (.v 4)
    let k := f3 .b32 (.v 1) (.v 2) (.v 3)
    let i := f3 .b32 (.v 1) (.v 2) (.v 3) (.v 4)
    let s := simt 2 [] []
    let w := fun x : F3 => isWide x.ty
    allReady s (fun _ => alu2 f) [.and f, .or f, .xor f, .andn f] = true ∧ allReady s (fun _ => req1 Cls.alu g (w g) (w g)) [.not g] = true ∧
    allReady s (fun _ => req1 Cls.alu p false (w p)) [.popc p, .clz p, .ctz p] = true ∧
    allReady s (fun _ => shiftReq k) [.shl k, .shr k, .sar k, .rot k, .bfx k] = true ∧
    allReady s (fun _ => req3 Cls.alu i (w i) (w i) (w i) false) [.bfi i] = true ∧
    allReady s (fun _ => req1 Cls.alu { g with ty := .b64 } true true) [.brev { g with ty := .b64 }] = true := by decide +kernel

theorem witness_ImmediateForms :
    let f := fi (.v 1) (.v 2) 0xFFFFFFFF
    let g := fi (.v 62) (.v 2) 0x80000000
    allReady (simt 2 [] []) (fun _ => immReq Cls.alu f false)
      [.addImm f, .andImm f, .orImm f, .xorImm f, .shlImm f, .shrImm f, .sarImm f, .mulImm f] = true ∧
    allReady (simt 2 [] []) (fun _ => immReq Cls.alu g true) [.add64Imm g, .and64Imm g, .or64Imm g, .xor64Imm g] = true := by decide +kernel

theorem witness_FloatArithmetic :
    let f := f3 .f32 (.v 1) (.v 2) (.v 3)
    let m := f3 .f64 (.v 2) (.v 4) (.v 6) (.v 62)
    let g := f3 .f16x2 (.v 1) (.v 2)
    let i := fi (.v 1) (.v 2) 0x3F800000
    let j := fi (.v 2) (.v 4) 0x3FF00000
    let s := simt 2 [] []
    allReady s (fun _ => fp2 f) [.fadd f, .fsub f, .fmul f, .fmin f, .fmax f] = true ∧ allReady s (fun _ => fp3 m) [.fma m] = true ∧
    allReady s (fun _ => fp1 g (isWide g.ty)) [.fabs g, .fneg g] = true ∧
    allReady s (fun _ => fpImm i false) [.faddF32Imm i, .fmulF32Imm i] = true ∧
    allReady s (fun _ => fpImm j true) [.faddF64Imm j, .fmulF64Imm j] = true := by decide +kernel

/-- The five types that `FabsAndFnegTouchOnlyTheSign` names. -/
theorem witness_FabsAndFneg :
    ([f3 .f32 (.v 1) (.v 2), f3 .f64 (.v 2) (.v 4), f3 .f16 (.v 1) (.v 2), f3 .bf16 (.v 1) (.v 2), f3 .f16x2 (.v 1) (.v 2)].all fun f =>
      allReady (simt 2 [] []) (fun _ => fp1 f (isWide f.ty)) [.fabs f, .fneg f]) = true := by decide +kernel

theorem witness_TranscendentalsAndConversions :
    let f := f3 .f64 (.v 2) (.v 4)
    let c := f3 .f64 (.v 63) (.v 4)
    let t := f3 .f32 (.v 1) (.v 4) (x := 0x0B)
    let i := f3 .f32 (.v 1) (.v 4) (x := 0)
    let k := f3 .s32 (.v 1) (.v 4) (x := 0x0A)
    let l := f3 .f64 (.v 2) (.v 4) (.v 63)
    let e := f3 .f64 (.v 63) (.v 4) (x := 1)
    let s := simt 2 [] []
    let conv := fun (x : F3) => fun (_ : Issuer) => { req1 Cls.fp x (isWide x.ty) (isWide (typeOfCode x.x.toNat)) with fmt := true }
    allReady s (fun _ => sfuReq f) [.frcp f, .frsq f, .fsqrt f, .fexp2 f, .flog2 f, .fsin f, .fcos f] = true ∧
    allReady s (fun _ => fp1 c false) [.fclass c] = true ∧ allReady s (fun _ => fp1 f true) [.frnd f, .ffrexp f] = true ∧
    allReady s (conv t) [.fcvt t] = true ∧ allReady s (conv k) [.f2i k] = true ∧ allReady s (conv i) [.i2f i] = true ∧
    allReady s (fun _ => { req2 Cls.fp l true true false with fmt := true }) [.fldexp l] = true ∧
    allReady s (fun _ => fp1 e false) [.ffrexpExp e] = true := by decide +kernel

theorem witness_BlockAndFmt :
    let f := f3 .blk (.v 1) (.v 2) (x := 0x02)
    let p := f3 .blk (.v 1) (.v 2) (x := 0x0A)
    let q := f3 .b64 .none (.g 1)
    let r := f3 .b64 (.g 55)
    let s := simt 2 [] [(1, 0x360)]
    allReady s (fun _ => blockReq f) [.bfpk f, .bfup f, .bfq f] = true ∧ allReady s (fun _ => blockReq p) [.bfpkPk p] = true ∧
    goes (s.ready? (.bfup f) fun _ => blockReq f) (fun u => u.lanes.all fun t => bits (s.read32 u f.a t).toNat 8 8 != 255) = true ∧
    goes (s.ready? (.fmtset q) fun _ => { cls := Cls.fp, uni := q.u, fmt := true
                                          uses := [{ o := q.a, role := .greg }, { o := q.b, role := .greg }] })
      (fun u => !fmtBad (fmtNew u.fmt (s.read64 u q.a 0) (s.read64 u q.b 0) (q.b != Opnd.none))) = true ∧
    goes (s.ready? (.fmtget r) fun _ => { cls := Cls.fp, uni := r.u, uses := [{ o := r.d, role := .greg, write := true }], fmt := true })
      = true ∧
    -- FmtgetReadsFmtIntoAGRegister, a v destination
    goes s.issuing? (fun u => (Instr.fmtget (f3 .b64 (.v 0))).illFormed.isNone && u.path.clause.header.getLsbD Cls.fp) = true := by
  decide +kernel

/-- v20 of lanes 0 and 1: the first and the last word of a page of memory; and the first words of it as data in v4. -/
def addresses : Assoc Word := [(128 * 20, 0x2000), (128 * 20 + 1, 0x2FF8)]

/-- A lane's address is aligned, mapped, permitted and leased. -/
def placed (s : State) (u : Issuer) (f : FM) (ask : Ask) (index : Bool) : Bool :=
  (if f.u then [0] else u.lanes).all fun l => okAnd (s.target u ask (s.globalAddr u f index l) 0)

/-- Nothing that a release waits for: enough for `NothingToRelease` at every order. -/
def free (s : State) (u : Issuer) : Bool := s.deferredOf u.agent == [] && s.releaseIds u == []

theorem free_nothingToRelease {s : State} {u : Issuer} {o : Order} (h : free s u = true) : NothingToRelease s u o := by
  intro _
  simpa [free] using h

theorem witness_GlobalAccesses :
    let s := simt 2 addresses []
    let ld := fm .b64 (.v 4) (.v 20) (ord := .acq) (scp := .fab)
    let st := fm .b32 (.v 63) (.v 20) (ord := .rel) (scp := .grp)
    let at' := fm .b64 (.v 4) (.v 20) (ord := .ar) (scp := .pkg)
    let nr := { fm .b32 .none (.v 20) with ord := .rlx }
    let red := fm .b64 (.v 4) (.v 20) (ord := .rel) (scp := .die)
    goes (s.ready? (.ldG ld) fun _ => { memReq ld.u (globalUses ld ++ [{ o := ld.d, role := dataRole ld.sz, write := true }]) with
        valid := ld.u || Opnd.isV ld.d })
      (fun u => decide ((s.rings u.agent).count .ld < 1023) && free s u && placed s u ld (askOf ld false) true) = true ∧
    goes (s.ready? (.stG st) fun _ => { memReq st.u (globalUses st ++ [{ o := st.d, role := dataRole st.sz }]) with defers := orderDefers st.ord })
      (fun u => decide ((s.rings u.agent).count .st < 1023) && free s u && placed s u st (askOf st true) true) = true ∧
    ([(Instr.atomAdd at', AtomOp.add), (.atomMinN at', .minN), (.atomMaxN at', .maxN), (.atomMinS at', .minS), (.atomMaxS at', .maxS),
        (.atomAnd at', .and), (.atomOr at', .or), (.atomXor at', .xor), (.atomExch at', .exch), (.atomCas at', .cas),
        (.atomAddF at', .addF), (.atomMinF at', .minF), (.atomMaxF at', .maxF)].all fun p =>
      goes (s.ready? p.1 fun _ => at'.atomReq p.2 .w64) fun u => free s u && placed s u at' (atomAsk at' p.2) (!at'.noReturn)) = true ∧
    goes (s.ready? (.atomAdd { nr with b := .v 3 }) fun _ => FM.atomReq { nr with b := .v 3 } .add .w64)
      (fun u => free s u && placed s u { nr with b := .v 3 } (atomAsk nr .add) false) = true ∧
    ([(Instr.redAdd red, AtomOp.add), (.redMinN red, .minN), (.redMaxN red, .maxN), (.redMinS red, .minS), (.redMaxS red, .maxS),
        (.redAnd red, .and), (.redOr red, .or), (.redXor red, .xor), (.redAddF red, .addF), (.redMinF red, .minF),
        (.redMaxF red, .maxF)].all fun p =>
      goes (s.ready? p.1 fun _ => redReq red) fun u => free s u && placed s u red (redAsk red p.2) true) = true := by decide +kernel

/-- Lane 0 at the scratchpad's first byte after the barrier objects, lane 1 at its last word; or both in the frame of slot 0. -/
def locals : Assoc Word := [(128 * 20, 64), (128 * 20 + 1, 0xFFFC)]
def frames : Assoc Word := [(128 * 20, 0x100000), (128 * 20 + 1, 0x100000 + 512 * 63)]

theorem witness_LocalAccesses :
    let ok := fun (s : State) (u : Issuer) (f : FM) (need : Need) (index : Bool) =>
      u.lanes.all fun l => okAnd (s.localPlace u (s.localAddr u f index l) f.sz.bytes need) fun p =>
        (u.poisoned (some (p.ownRegs u f.sz.bytes))).isEmpty && match p with
          | .frame slot reg thread lo => (s.frameWaits u slot reg thread lo f.sz.bytes).isEmpty
          | _ => true
    let f := fm .b32 (.v 4) (.v 20)
    let ldReq : Issuer → Req := fun u => { memReq f.u (localUses f ++ [{ o := f.d, role := dataRole f.sz, write := true }]) with
        may := u.kind != .steward, valid := f.u || Opnd.isV f.d }
    let stReq : Issuer → Req := fun u => { memReq f.u (localUses f ++ [{ o := f.d, role := dataRole f.sz }]) with
        may := u.kind != .steward, defers := orderDefers f.ord }
    ([simt 2 locals [], simt 2 frames []].all fun s =>
      goes (s.ready? (.ldL f) ldReq) (fun u => free s u && ok s u f .read true) &&
      goes (s.ready? (.stL f) stReq) (fun u => free s u && ok s u f .write true)) = true ∧
    (let s := simt 2 locals []
     [(Instr.atomLAdd f, AtomOp.add), (.atomLMinN f, .minN), (.atomLMaxN f, .maxN), (.atomLMinS f, .minS), (.atomLMaxS f, .maxS),
        (.atomLAnd f, .and), (.atomLOr f, .or), (.atomLXor f, .xor), (.atomLExch f, .exch), (.atomLCas f, .cas), (.atomLAddF f, .addF),
        (.atomLMinF f, .minF), (.atomLMaxF f, .maxF)].all fun p =>
      goes (s.ready? p.1 fun u => { f.atomReq p.2 .w32 with may := u.kind != .steward }) fun u => free s u && ok s u f .modify (!f.noReturn))
      = true := by decide +kernel

/-- Extents of 16 and of 65,536 bytes of the allocation; the counter waits at limit 0; a prefetch; a fence. -/
theorem witness_ExtentsPrefetchesWaitsAndFences :
    let s := simt 2 [] [(0, 0x2000), (3, 0x10 * 2 ^ 32 + 0xFFF0), (4, 0x1000 * 2 ^ 32)]
    let f := { fm .b128 (.g 3) (.g 0) with u := true }
    let req : Defers → Issuer → Req := fun d u => { memReq true (gUse f.d false :: globalUses f) with may := u.kind != .steward, defers := d }
    let within := fun (u : Issuer) =>
      let d := (s.read64 u f.d 0).toNat
      let va := s.globalAddr u f true 0
      bits d 0 32 % 16 = 0 && bits d 32 32 % 16 = 0 && 16 ≤ bits d 32 32 && bits d 32 32 ≤ 524288 && bits d 0 32 + bits d 32 32 ≤ 65536 &&
        va % 16 = 0 && va < 2 ^ 60
    (s.group? 0 0).map (·.alloc) = some 1 ∧ (s.alloc? 0 1).map (·.size) = some 65536 ∧
    ([(Instr.ldx f, (OpKind.ldx 1, (Need.read, Defers.none))), (.stx f, (.stx 1, (.write, orderDefers f.ord)))].all fun p =>
      goes (s.ready? p.1 (req p.2.2.2)) fun u => free s u && within u && decide ((s.rings u.agent).count p.2.1.ctr < 1023) &&
        okAnd (s.extentAccesses u p.2.2.1 (s.globalAddr u f true 0) 0xFFF0 16)) = true ∧
    goes (s.ready? (.pf (fm .b8 .none (.g 0))) fun _ => memReq false (globalUses (fm .b8 .none (.g 0)))) = true ∧
    (let w := f3 .s32 .none (.g 63)
     [(Instr.waitLd w, (Ctr.ld, Defers.none)), (.waitSt w, (.st, .stores)), (.waitAt w, (.am, .none)), (.waitCp w, (.cp, .copies)),
        (.waitTt w, (.tt, .tasks)), (.waitSv w, (.sv, .none))].all fun p =>
      goes (s.ready? p.1 (waitReq w p.2.2)) fun u => free s u &&
        decide ((s.rings u.agent).count p.2.1 ≤ Nat.min (s.read64 u (.g 63) 0).toNat 1023)) = true ∧
    goes (s.ready? (.fence (fm .b8 (ord := .ar) (scp := .fab))) fun _ => { memReq false [] with defers := orderDefers .ar }) (fun u => free s u) = true := by decide +kernel

/-- Memory or an allocation with values stored in it: address, number of bytes, value. -/
def storing (l : List (Nat × Nat × Nat)) : Memory := l.foldl (fun m x => m.store x.1 x.2.1 x.2.2) []

/-- A state whose allocation holds those values. -/
def holding (n : Nat) (l : List (Nat × Nat × Nat)) (g : Assoc DWord) : State :=
  { simt n [] g with cores := [(0, { core n [] g with
      allocs := [(1, { launch := 1, units := 16, size := 65536, bars := 4, bytes := storing l })] })] }

/-- A state whose path has been woken, or that holds a barrier whose phase is over. -/
theorem witness_BarrierInstructions :
    let s := holding 2 [(0, 4, 2), (4, 4, 2), (48, 4, 1), (52, 4, 1), (60, 4, 1)] [(2, 2), (3, 3), (8, 0)]
    let ini := { fm .b8 (b := .g 2) with off := 3 }
    let arr := { fm .b8 (b := .g 2) with ord := .rel, scp := .core }
    let drop := { fm .b16 (b := .g 2) with ord := .rel, scp := .core }
    let wait := { fm .b8 (b := .g 8) with ord := .acq, scp := .core, off := 3 }
    let test := { fm .b8 .none .none with d := .g 4, off := 3 }
    let at' := fun (u : Issuer) (f : FM) => free s u && decide (s.barIndex u f < 4) &&
      (s.olderAt u (.scratch u.core 1 (16 * s.barIndex u f)) 16).isEmpty
    goes (s.ready? (.barInit ini) fun u => barReq ini u false) (fun u => at' u ini && bits (s.read64 u (.g 2) 0).toNat 32 15 == 0 &&
      bits (s.read64 u (.g 2) 0).toNat 0 32 != 0) = true ∧
    goes (s.ready? (.barArr arr) fun u => barReq arr u true) (fun u => at' u arr) = true ∧
    goes (s.ready? (.barArrDrop drop) fun u => barReq drop u true) (fun u => at' u drop) = true ∧
    goes (s.ready? (.barWait wait) fun u => barReq wait u false) (fun u => at' u wait && u.path.woken.isNone &&
      ((s.alloc? 0 1).map fun al => !(al.barrier 3).brk && (al.barrier 3).phase != (s.read64 u wait.b 0).setWidth 32) == some true) = true ∧
    goes (s.ready? (.barTest test) fun u => { barReq test u false with uses := [gUse test.d true, gUse test.a false, gUse test.b false] })
      (fun u => at' u test) = true := by decide +kernel

/-- Arrivals one below, at and above what is left; a broken object. -/
theorem witness_BarrierObjects :
    (storing []).wf = true ∧ (2 ^ 32 - 1 < 2 ^ 32 ∧ 2 ^ 16 - 1 < 2 ^ 16) ∧
    ({ pend := 2, init := 3, pmask := 0, kind := false, brk := false, phase := 0xFFFFFFFF } : Barrier).arrive 1
      = { pend := 1, init := 3, pmask := 0, kind := false, brk := false, phase := 0xFFFFFFFF } ∧
    ({ pend := 2, init := 3, pmask := 0, kind := false, brk := false, phase := 0xFFFFFFFF } : Barrier).arrive 2
      = { pend := 3, init := 3, pmask := 0, kind := false, brk := false, phase := 0 } ∧
    ({ pend := 2, init := 3, pmask := 0, kind := false, brk := true, phase := 0 } : Barrier).arrive 2
      = { pend := 2, init := 3, pmask := 0, kind := false, brk := true, phase := 0 } := by decide +kernel

/-- Core 0 with a claim that waits, for `n` units of `free`. -/
def claiming (n free : Nat) : State :=
  { simt 1 [] [] with cores := [(0, { core 1 [] [] with
      free := free, claims := [{ slot := 0, path := 0, n := n }]
      slots := [(0, { group 1 [] [] with paths := [(0, { path 1 with phase := .stalled .claim })] })]
      gives := [{ slot := 0, reg := 56, n := 1, ops := [7] }] })] }

theorem witness_PoolInstructionsAndEvents :
    goes ((simt 2 [] []).ready? (.rclaim (f3 .s32 (x := 16))) poolReq) (fun u => u.path.woken.isNone && (simt 2 [] []).alone u &&
      decide (u.window + 8 * 16 ≤ 192) && ((simt 2 [] []).core u.core).claims.isEmpty && decide (16 ≤ ((simt 2 [] []).core u.core).free)) = true ∧
    goes ((simt 2 [] []).ready? (.rgive (f3 .s32 (x := 7))) poolReq) (fun u => (simt 2 [] []).alone u && decide (8 * 7 + 8 ≤ u.window) &&
      ((simt 2 [] []).writesFrom u.uid (u.window - 8 * 7)).isEmpty) = true ∧
    ((claiming 4 4).core 0).claims.head?.map (·.n) = some 4 ∧ ((claiming 4 4).core 0).free = 4 ∧
    ((claiming 4 4).core 0).gives[0]?.map (·.ops) = some [7] ∧ Assoc.get? (claiming 4 4).ops 7 = none ∧
    (let s := claiming 100 2
     (s.core 0).slots.all (fun p => s.deadlocked 0 p.2) = true ∧ (s.core 0).free + (s.core 0).heldByOthers 1 < 100) := by decide +kernel

/-- A record of a coherence object, of its removal and of a window, at the start of a page of memory; read through `withRecord`. -/
def recording (l : List (Nat × Nat × Nat)) : State := { simt 2 [] [(0, 0x2000)] with mem := storing l }
def object (op : Nat) : List (Nat × Nat × Nat) := [(0x2000, 8, 0x10000), (0x2008, 4, 64), (0x200C, 4, 1), (0x2010, 8, 64), (0x2018, 1, op), (0x2019, 1, 6)]
/-- That state, with an entry at address 0 that puts the next table into borrowed memory, of which no line is at hand, and one L1 copy. -/
def awaiting (l : List (Nat × Nat × Nat)) : State :=
  { recording l with
    mem := storing (l ++ [(0, 8, 0x8000000000001)])
    booth := { borrowed := [(4096, { lid := 9, lend := 2, sz := 16, st := 2, dur := 100, deadline := 100 })] }
    cores := [(0, { core 2 [] [(0, 0x2000)] with l1 := [{ tag := .phys 5, data := 0 }] })] }
def window (size : Nat) : List (Nat × Nat × Nat) :=
  [(0x2000, 8, 0x7F0000), (0x2008, 8, size), (0x2010, 8, 0x3000), (0x2018, 8, 8 + 1 * 32 + 7 * 2 ^ 61)]


theorem witness_CoherenceInstructions :
    let f := fm .b8 .none (.g 0)
    let req : Issuer → Req := fun u => { memReq false [gUse f.a false, gUse f.b false] with may := u.kind != .steward }
    let readsAs := fun (s : State) (u : Issuer) (p : List Byte → Bool) =>
      okAnd (s.target u { need := .read, len := 32, align := 32 } (s.globalAddr u f true 0) 0) fun x =>
        (s.olderAt u x.1 32).isEmpty && (match x.1 with
          | .phys _ => true
          | _ => false) &&
        match s.loadAt u.core x.2 x.1 32 with
        | some (_, .ok bs) => p bs
        | _ => false
    let idle := fun (r : Rings) => r.count .ld == 0 && r.count .st == 0 && r.count .am == 0
    ([1, 2].all fun op => goes ((recording (object op)).ready? (.cobj f) req) fun u => readsAs (recording (object op)) u fun bs =>
      (shapeOf u.ctx bs).map (·.1) == some (op == 1)) = true ∧
    (let s := recording (window 0x10000)
     goes (s.ready? (.cwin f) req) fun u => idle (s.rings u.agent) && readsAs s u fun bs => bits (valueAt bs 24 8) 61 3 == 7 &&
      okAnd (windowOf bs 0 7) fun w => w.isSome && (s.context u.ctx).windows.isEmpty) = true ∧
    (let s := recording (window 0)
     goes (s.ready? (.cwin f) req) fun u => readsAs s u fun bs => okAnd (windowOf bs 0 7) fun w => w.isNone) = true ∧
    -- a range that needs no line, and one whose walk waits for a line of a table
    (let s := recording (window 0x10000)
     s.rangeWaits 0 0x7F0000 0x10000 = none) ∧
    (let s := awaiting (window 0x10000)
     goes (s.ready? (.cwin f) req) (fun u => idle (s.rings u.agent) && readsAs s u fun bs => okAnd (windowOf bs 0 7) fun w => w.isSome) = true ∧
     (s.rangeWaits 0 0x7F0000 0x10000).isSome) := by decide +kernel

/-- `cctl` on an address of the page, of an unmapped page and of one whose walk waits; the operation of an acquire of the path. -/
theorem witness_CacheControl :
    let at' := fun (s : State) (va : Nat) (p : Except Miss Xlate → Bool) =>
      let s := { s with cores := Assoc.set s.cores 0 { s.core 0 with slots := [(0, group 2 [] [(0, BitVec.ofNat 64 va)])] } }
      let invReq : Issuer → Req := fun _ => memReq false [gUse (.g 0) false]
      [goes (s.ready? (.cctlL1inv (fm .b8 .none (.g 0))) invReq), goes (s.ready? (.cctlRlcev (fm .b32 .none (.g 0))) invReq)].all
        (· == true) && goes (s.ready? (.cctlL1inv (fm .b8 .none (.g 0))) invReq) fun u => (s.olderAcquires u).isEmpty &&
          s.globalAddr u (fm .b8 .none (.g 0)) false 0 == va && (windowAt u.path.view.windows va).isNone &&
          p (s.located u.core u.ctx u.path.view.root va)
    let missed := fun (w : Bool) (r : Except Miss Xlate) => match r with
      | .error m => m.waits.isSome == w
      | .ok _ => false
    at' (recording []) 0x2000 (okAnd ·) = true ∧ at' (recording []) 0x3000 (okAnd ·) = true ∧
    at' (recording []) 0x100000 (missed false) = true ∧ at' (awaiting []) 0x100000 (missed true) = true ∧
    allReady (recording []) (fun _ => memReq false []) [.cctlL1all (fm .b16)] = true ∧
    (let s := { recording [] with ops := [(7, { loading with order := .acq })] }
     goes (s.ready? (.cctlL1all (fm .b16)) fun _ => memReq false []) (fun u => s.olderAcquires u == [7]) = true) := by decide +kernel

/-- A tile task of one tile, 64 by 64 by 1 in FP32, and a copy of 16 bytes, as records of the allocation. -/
def tileTask : List (Nat × Nat × Nat) :=
  [(0x400, 8, 0x1000), (0x408, 8, 0x2000), (0x410, 4, 4), (0x414, 4, 256), (0x418, 4, 1), (0x41C, 2, 64), (0x41E, 2, 64), (0x420, 1, 0x4A),
   (0x421, 1, 0x4A), (0x422, 1, 15)]
def copy16 : List (Nat × Nat × Nat) :=
  [(0x440, 1, 1), (0x441, 1, 1), (0x44C, 4, 16), (0x450, 8, 0x1000), (0x458, 8, 0x2000), (0x470, 4, 1)]

theorem witness_CommandsAreEntered :
    let s := holding 2 (tileTask ++ copy16) [(5, 0x400), (6, 0x440)]
    let req : F3 → Issuer → Req := fun f u => { asyncReq u f.u [gUse f.a false] with fmt := true }
    goes (s.ready? (.tenq (f3 .s32 .none (.g 5))) (req (f3 .s32 .none (.g 5)))) (fun u =>
      let c := s.newCmd u .tile (s.scratchRead u.core 1 0x400 64)
      c.tileOk 16 && c.axisOk && (c.tileBeyond 65536).isNone && c.tiles == [15] && s.ops.isEmpty && (s.rings u.agent).count .tt == 0 &&
        c.outTag.all fun t => decide (s.tagCount u.uid t < 255)) = true ∧
    goes (s.ready? (.cpkick (f3 .s32 .none (.g 6))) (req (f3 .s32 .none (.g 6)))) (fun u =>
      let c := s.newCmd u .copy (s.scratchRead u.core 1 0x440 64)
      c.copyOk 16 4 (fun _ => false) s.collOk && (c.copyBeyond 65536).isNone && s.ops.isEmpty && (s.rings u.agent).count .cp == 0 &&
        c.outTag.all fun t => decide (s.tagCount u.uid t < 255)) = true := by decide +kernel

/-- A kernel header at 0x2000 and a launch record of one group of it in the allocation. -/
def kernelHeader : List (Nat × Nat × Nat) := [(0x2000, 4, 0x4C594B48), (0x2004, 2, 1), (0x2008, 1, 8), (0x2009, 1, 8), (0x2010, 1, 1), (0x2018, 4, 256)]
def launchRecord (base : Nat) : List (Nat × Nat × Nat) :=
  [(base, 8, 0x2000), (base + 8, 8, 0x360), (base + 0x15, 1, 1), (base + 0x16, 1, 1), (base + 0x18, 2, 0x4001), (base + 0x34, 4, 1), (base + 0x70, 4, 1)]

theorem witness_TileAccessAndLaunch :
    let s := { holding 2 (launchRecord 0x500) [(7, 3968), (8, 0x500)] with mem := storing kernelHeader }
    let finished := { s with contexts := [(0, { s.context 0 with ended := true })] }
    let ardr := f3 .f32 (.v 8) .none (.g 7) (x := 15)
    let awr := f3 .f64 .none (.v 62) (.g 63) (x := 15)
    goes (s.ready? (.twait (f3 .s32 (x := 255))) fun u => { asyncReq u false [gUse .none false] with
        defers := .tag (s.tagOf u (f3 .s32 (x := 255))) }) (fun u => (s.deferredOf u.agent).isEmpty &&
      (s.producers u.uid [255] []).isEmpty && (s.producers u.uid [] [15]).isEmpty) = true ∧
    goes (s.ready? (.ardr ardr) fun u => { asyncReq u false [dstUse false false ardr.d, gUse (.g 7) false] with
      valid := s.tileDeclared u ardr.x, defers := .tile ardr.x.toNat }) (fun u => (s.firstElement u ardr).isSome) = true ∧
    goes (s.ready? (.awr awr) fun u => { asyncReq u false [srcUse true awr.a, gUse awr.b false] with valid := s.tileDeclared u awr.x, defers := .tile awr.x.toNat })
      (fun u => (s.firstElement u awr).isSome) = true ∧
    goes (s.ready? (.azero (f3 .s32 (x := 15))) fun u => { asyncReq u false [] with valid := s.tileDeclared u 15, defers := .tile 15 }) = true ∧
    (let r := s.scratchRead 0 1 0x500 256
     goes (s.ready? (.launch (f3 .s32 .none (.g 8))) fun u => asyncReq u false [gUse (.g 8) false]) (fun u =>
       recordOk r && recCtx r == u.ctx && !(s.context u.ctx).ended && (finished.context u.ctx).ended && (s.olderOn u u.reader (recKhdr r) 256).isEmpty && (s.queue (recQueue r)).isEmpty &&
       match s.readHeader u.reader r with
       | .ok t _ => !(t.context u.ctx).ended
       | _ => false) = true) := by decide +kernel

theorem witness_CrossLaneInstructions :
    let s := simt 2 [] []
    let shfl := f3 .b32 (.v 1) (.v 63) (.g 1) (x := 31)
    let bcast := f3 .b64 (.g 1) (.v 62) (x := 1)
    let ballot := f3 .b32 (.g 54) (.v 63)
    let vote := fun x => f3 .b32 (.g 55) (.v 63) (x := x)
    let mpop := f3 .s32 (.v 63) (.g 54) (x := 1)
    let scan := fun ty x => f3 ty (.v 62) (.v 60) (x := x)
    let rdx := fun ty x => f3 ty (.g 55) (.v 62) (x := x)
    allReady s (fun u => { laneReq u [vDst false shfl.d, vSrc false shfl.a, srcUse false shfl.b] with
        may := u.kind != .steward && !(u.w32 && 6 ≤ bits shfl.x.toNat 2 3) }) [.shfl shfl] = true ∧
    allReady s (fun u => laneReq u [vgDst true bcast.d, vSrc true bcast.a, gUse bcast.b false]) [.bcast bcast] = true ∧
    allReady s (fun u => laneReq u [{ o := ballot.d, role := .mask, write := true }, vSrc false ballot.a]) [.voteBallot ballot] = true ∧
    allReady s (voteReq (vote 1)) [.voteAny (vote 1)] = true ∧ allReady s (voteReq (vote 2)) [.voteAll (vote 2)] = true ∧
    allReady s (voteReq (vote 3)) [.voteEq (vote 3)] = true ∧
    allReady s (fun u => laneReq u [vDst false mpop.d, { o := mpop.a, role := .mask }]) [.mpop mpop] = true ∧
    ([(DType.s32, 0), (.n64, 3), (.f32, 1), (.f64, 4), (.b64, 10), (.b32, 7)].all fun p =>
      allReady s (fun u => laneRedReq (scan p.1 p.2) u false) [.scan (scan p.1 p.2)]) = true ∧
    ([(DType.s64, 2), (.f32, 0), (.b32, 6)].all fun p => goes (s.ready? (.rdx (rdx p.1 p.2)) fun u => laneRedReq (rdx p.1 p.2) u true)
      fun u => u.lanes != []) = true := by decide +kernel

/-- A core that holds pattern table 7 and decode table 3 of the launch of its group. -/
def tables : State :=
  { simt 2 [] [(2, 0x400)] with cores := [(0, { core 2 [] [(2, 0x400)] with
      patterns := [(7, { launch := 1, entries := List.replicate 512 0 })], decoders := [(3, { launch := 1, entries := [0, 0, 0, 0] })] })] }

/-- The pattern record is 1,024 bytes of zeros, so that each of its entries is 0. -/
theorem witness_TableInstructions :
    let s := tables
    let xpat := f3 .s32 .none (.g 2) (x := 7)
    let vdtab := f3 .s32 .none (.g 2) (x := 7)
    let xbar := f3 .b32 (.v 1) (.v 63) (x := 7)
    let vdec := f3 .s32 (.v 60) (.v 62) (.v 63) (x := 7)
    let entries := fun size => (List.range (size / 2)).map fun i => BitVec.ofNat 16 (valueAt (s.scratchRead 0 1 0x400 size) (2 * i) 2)
    let own := fun (t : Option Table) => s.tableOwner? 0 t == none || s.tableOwner? 0 t == some 1
    goes (s.ready? (.xpat xpat) fun u => { laneReq u [gUse xpat.a false] with may := u.kind == .simt }) (fun u =>
      (s.localStores (s.ownerOf u)).isEmpty && own (Assoc.get? (s.core 0).patterns 7) &&
      s.scratchRead 0 1 0x400 1024 == List.replicate 1024 0 && (List.range 512).all fun i => selectorOk i 0) = true ∧
    goes (s.ready? (.vdtab vdtab) fun u => { laneReq u [gUse vdtab.a false] with may := u.kind == .simt }) (fun u =>
      (s.localStores (s.ownerOf u)).isEmpty && own (Assoc.get? (s.core 0).decoders 3) &&
      (entries 4).all fun e => decide (bits e.toNat 12 4 ≤ 1)) = true ∧
    goes (s.ready? (.xbar xbar) fun u => laneReq u [vDst false xbar.d, vSrc false xbar.a]) (fun u =>
      s.tableOwner? 0 (Assoc.get? (s.core 0).patterns 7) == some u.launch) = true ∧
    goes (s.ready? (.vdec vdec) fun u => laneReq u [{ o := vdec.d, role := .vquad, write := true }, vSrc true vdec.a, vSrc false vdec.b]) (fun u =>
      s.tableOwner? 0 (Assoc.get? (s.core 0).decoders 3) == some u.launch) = true := by decide +kernel

/-! ### Control flow and helpers -/

/-- A state in which the given path is path 0 of the group in slot 0 of core 0. -/
def onPath (p : Path) (v : Assoc Word) (g : Assoc DWord) : State :=
  { simt 1 [] [] with cores := [(0, { core 1 [] [] with slots := [(0, { group 1 v g with paths := [(0, p)] })] })] }

theorem witness_Branches :
    let s := simt 1 [(128 * 4, 0x3000), (128 * 4 + 1, 0x4008)] [(4, 1), (6, 0x3000)]
    let brc := fb (.g 4) (.v 0) 5
    let call := fb (.g 2) .none 0x7FFFFFFF
    let brx := f3 .s32 .none (.v 4)
    let ret := f3 .s32 .none (.g 6)
    let callx := f3 .s32 (.g 2) (.v 4)
    let sides := fun (o : Opnd) (u : Issuer) => sidesOf (u.lanes.map fun l => (l, (s.read64 u o l).setWidth 60))
    let parts := fun (o : Opnd) (u : Issuer) => u.lanes != [] && (u.lanes.all fun l => (s.read64 u o l).toNat % 8 == 0) &&
      (s.diverge u (sides o u)).isSome
    allReady s (fun _ => ctrlReq true []) [.bra (fb (offs := 0x80000000))] = true ∧
    goes (s.ready? (.brc brc) fun _ => ctrlReq true [{ o := brc.d, role := .mask }]) (fun u => (s.diverge u (sidesOf (u.lanes.map fun l =>
      (l, if (s.readMask u brc.d).getLsbD l = (brc.a == .v 0) then 0x2000 else u.path.nextClause)))).isSome) = true ∧
    allReady s (fun _ => ctrlReq true [gUse call.d true]) [.call call] = true ∧
    goes (s.ready? (.brx brx) fun _ => ctrlReq true [{ o := brx.a, role := .w64 }]) (parts (.v 4)) = true ∧
    goes (s.ready? (.ret ret) fun _ => ctrlReq true [gUse ret.a false]) (parts (.g 6)) = true ∧
    goes (s.ready? (.callx callx) fun _ => ctrlReq true [gUse callx.d true, { o := callx.a, role := .w64 }]) (fun u => parts (.v 4) u &&
      goes ((s.pushWrites u (resultWrites callx.d false [(0, 0x1010)]) 1).issuer? u.agent) fun v =>
        ((s.pushWrites u (resultWrites callx.d false [(0, 0x1010)]) 1).diverge v (sides (.v 4) u)).isSome) = true := by decide +kernel

/-- Two sides at a path with no, and with every other, path entry taken; sides that wait at a full on-chip stack, with the frame tail's
last place free and with none. -/
theorem witness_Sides :
    let alone := onPath (path 1) [] []
    let full := { alone with cores := [(0, { core 1 [] [] with slots := [(0, { group 1 [] [] with
      paths := (List.range 16).map fun i => (i, { path 1 with exec := if i = 0 then 3 else 0 }) })] })] }
    let stack : List Recon := List.replicate 8 { pc := 8, mask := 4 }
    ([alone, full].all fun s => goes (s.issuer? (.path 0 0 0)) fun u => u.agent == .path 0 0 0 &&
      ((s.endClause u 0x1000).path? u.agent).isSome && ((s.group? 0 0).map fun g =>
        let free := (List.range 16).filter fun k => (Assoc.get? g.paths k).isNone
        (deferSides (tailsInUse (Assoc.erase g.paths 0)) u.path.recon ([((0x2000 : PC), (2 : Mask))].drop free.length).reverse).isSome)
          == some true) = true ∧
    stack.length = 8 ∧ (stack.filterMap (·.tail)) = [] ∧ (127 ∉ List.range 127 ∧ ∀ j < 127, j ∈ List.range 127) ∧
    (∀ j < 128, j ∈ List.range 128) := by decide +kernel

theorem witness_LoopsRegionsAndExits :
    let s := simt 1 [] [(4, 0), (5, 0xFFFFFFFF)]
    let deep := onPath { path 1 with loops := [{ count := 1, start := 0x1000, stop := 0x1040 }, { count := 2, start := 0, stop := 8 }] } [] []
    ([fb .none (.g 4) 6, fb .none (.g 5) 6].all fun f => goes (s.ready? (.loop f) fun _ => ctrlReq true [gUse f.a false]) fun u =>
      decide (u.path.loops.length < 4)) = true ∧
    goes (deep.ready? (.endl (fb .none (.v 0))) fun _ => ctrlReq true []) (fun u => u.path.loops.length == 2) = true ∧
    goes (deep.ready? (.endlX (fb .none (.v 1))) fun _ => ctrlReq true []) (fun u => u.path.loops.length == 2) = true ∧
    allReady s (fun _ => ctrlReq false []) [.rgn (fb (offs := 1)), .nop (f3 .s32)] = true ∧
    goes (s.ready? (.exit (f3 .s32)) fun u => { ctrlReq true [] with may := u.kind != .steward }) (fun u => (s.recruiting u).isEmpty) = true ∧
    allReady (helping 1) (fun u => { ctrlReq true [] with may := u.kind != .steward }) [.exit (f3 .s32)] = true ∧
    allReady s (fun _ => ctrlReq true []) [.yield (f3 .s32)] = true := by decide +kernel

/-- A group of which thread 1 has a recruitment whose two chunks are done; a helper whose chunk has ended. -/
def joining : State :=
  { simt 1 [] [] with cores := [(0, { core 1 [] [] with
      slots := [(0, { group 1 [] [] with
        paths := [(0, { path 1 with exec := 2 })]
        recruits := [(1, { granted := 1, entry := 0x1000, fmt := 0, shared := [], gregs := [], chunks := [.done none, .done (some 3)] })] })] })] }

/-- A helper that has ended its chunk. -/
def ended : State :=
  { (helping 1) with cores := [(0, { core 1 [] [] with helpers := [(0, { slot := 0, thread := 0, lentSlot := 1, lentThread := 0
                                                                         path := { path 1 with phase := .stalled .chunk } })] })] }

/-- That helper, in a clause whose Y bit is set. -/
def yielding : State :=
  { (helping 1) with cores := [(0, { core 1 [] [] with
      helpers := [(0, { slot := 0, thread := 0, lentSlot := 1, lentThread := 0, path := { path 1 with
        phase := .stalled .chunk, clause := { addr := 0x1000, header := anyHeader ||| 0x1000000000, words := [0], idx := 0 } } })] })] }

theorem witness_Helpers :
    let one := onPath { path 2 with exec := 1, view := { cmode := 0x2004 } } [] [(4, 0x10001)]
    let f := fb (.g 5) (.g 4) 7
    goes (one.ready? (.recruit f) fun u => { ctrlReq false [gUse f.d true, gUse f.a false] with
        may := u.kind != .steward, fmt := true, more := one.recruited u f.a })
      (fun u => u.lanes == [0] && (recruitReq (one.read64 u f.a 0) u.window).isSome &&
        ((one.group? 0 0).map fun g => g.kernel.hlp && (Assoc.get? g.recruits 0).isNone) == some true) = true ∧
    goes ((helping 2).ready? (.hpost (f3 .b64 .none (.v 46))) fun u => { ctrlReq false [{ o := .v 46, role := .vpair }] with
      may := u.kind = .helper }) (fun u => u.agent == .helper 0 0) = true ∧
    goes (joining.ready? (.hjoin (f3 .b64 (.v 2) (x := 1))) fun u =>
      { ctrlReq true [{ o := .v 2, role := .vpair, write := true }] with may := u.kind = .simt, fmt := true })
      (fun u => u.agent == .path 0 0 0 && u.lanes == [1] && ((joining.group? 0 0).bind fun g => (Assoc.get? g.recruits 1).map fun r =>
        match joining.joinState 0 0 1 r with
        | .done q => q == r
        | _ => false) == some true) = true ∧
    allReady (simt 2 [] []) (fun u => { ctrlReq false [] with may := u.kind = .simt }) [.dismiss (f3 .s32)] = true ∧
    (yielding.helper? 0 0).map (fun h => h.path.clause.header.getLsbD 36 && h.path.phase == .stalled .chunk) = some true ∧
    (ended.helper? 0 0).map (fun h => !h.path.clause.header.getLsbD 36 && h.path.phase == .stalled .chunk && h.rings.count .ld == 0 && h.rings.count .st == 0 &&
      h.rings.count .am == 0) = some true ∧
    goes (ended.issuer? (.helper 0 0)) (fun v => (v.poisoned none).isEmpty) = true := by
  decide +kernel

/-! ### The system -/

theorem witness_SpecialRegistersAndTlb :
    let s := simt 2 [] [(4, 0x2000)]
    let k := steward 2 [(4, 0x2000), (5, 3)]
    let gsr := f3 .s32 (.v 2) (x := 0x17)
    let ssr := f3 .s32 .none (.g 4) (x := 0x18)
    let ssr' := f3 .s32 .none (.g 4) (x := 0x30)
    let req : F3 → Issuer → Req := fun f u => { ctrlReq false [gUse f.a false] with may := sysWritable u f.x.toNat, sys := [f.x.toNat] }
    let free := fun (s : State) (u : Issuer) (c va : Option Nat) => (s.deferredOf u.agent).isEmpty && (s.releaseIds u).isEmpty &&
      (s.translatedIds (fun _ => true) c va).isEmpty
    let page := f3 .s32 .none (.g 4) (.g 5) (x := 4)
    goes (s.ready? (.gsr gsr) fun u => { ctrlReq false [gsrUse gsr] with may := sysReadable u 0x17, uni := gsr.u, sys := [0x17] }) = true ∧
    allReady s (req ssr) [.ssr ssr] = true ∧ allReady k (req ssr') [.ssr ssr'] = true ∧
    allReady k (fun u => { ctrlReq false [gUse (.g 4) false] with may := sysWritable u 0x37, sys := [0x37] }) [.stcmpWrite (f3 .s32 .none (.g 4) (x := 0x37))] = true ∧
    allReady k (fun u => { ctrlReq false [gUse (.g 4) false] with may := sysWritable u 0x38, sys := [0x38] }) [.sipiWrite (f3 .s32 .none (.g 4) (x := 0x38))] = true ∧
    goes (k.ready? (.tlbiPage page) fun u => { ctrlReq false [gUse page.a false, gUse page.b false] with may := tlbiMay u page, defers := .all })
      (fun u => free k u (some 3) (some 0x2000) && decide ((k.read64 u page.b 0).toNat < 1024)) = true ∧
    goes (k.ready? (.tlbiCtx { page with a := .none, x := 5 }) fun u => { ctrlReq false [gUse (.g 5) false] with
      may := tlbiMay u { page with a := .none, x := 5 }, defers := .all }) (fun u => free k u (some 3) none) = true ∧
    goes (k.ready? (.tlbiAll { page with a := .none, b := .none, x := 2 }) fun u => { ctrlReq false [] with
      may := tlbiMay u { page with a := .none, b := .none, x := 2 }, defers := .all }) (fun u => free k u none none) = true ∧
    allReady s (fun _ => ctrlReq false [gUse (.g 4) false]) [.ipf (f3 .s32 .none (.g 4) (x := 255))] = true ∧
    -- SpecialRegistersReadAsTable2Says
    goes s.issuing? (fun u => u.kind == .simt && u.path.pend.isEmpty && u.path.loops.isEmpty && (s.group? u.core u.slot).isSome) = true ∧
    goes k.issuing? (fun u => u.kind != .simt && u.path.pend.isEmpty) = true := by decide +kernel

/-- A steward at user level. -/
def user (n : Nat) (g : Assoc DWord) : State := (steward n g).modSteward 0 fun w => { w with sup := false }

theorem witness_ServiceAndTrapInstructions :
    let s := holding 1 [(0x400, 4, 7), (0x408, 8, 9)] [(4, 0x400)]
    let svc := f3 .s32 .none (.g 4)
    let svcReq : Issuer → Req := fun u => { ctrlReq true [gUse svc.a false] with may := u.kind == .simt || (u.kind == .steward && !u.sup) }
    let trap := f3 .s32 (x := 255)
    let both := fun s => allReady s (fun _ => ctrlReq true []) [.trap trap, .brk trap]
    allReady (user 1 [(4, 1)]) svcReq [.svc svc] = true ∧ both (user 1 []) = true ∧ both (steward 1 []) = true ∧
    goes (s.ready? (.svc svc) svcReq) (fun u => u.agent == .path 0 0 0 && (s.rings u.agent).count .sv == 0 && s.ops.isEmpty) = true ∧
    -- a call that repeats one, and one that does not
    (let call : CachedCall := { svc := 7, token := 9, status := 1, args := [5] }
     let cached := fun (s : State) => (s.context 0).calls.find? fun k => k.svc.toNat = 7 && k.token.toNat = 9
     cached (s.modContext 0 fun k => { k with calls := [call] }) = some call ∧ cached s = none ∧ s.replayed 0 = false) ∧
    both (simt 1 [] []) = true ∧ both (onPath { path 1 with lvl := true } [] []) = true ∧
    goes (simt 1 [] []).issuing? (fun u => !u.path.view.claimed u.ctx) = true ∧ both (helping 1) = true := by decide +kernel

theorem witness_ReturnsAndInterrupts :
    let handler : Handler := { slot := 0, tfr := 0x1000, tstk := 0x30000, saved := { fmt := 0x360, loops := [], rgpc := 0, rgc := false, snap := {} } }
    let s := onPath { path 1 with lvl := true, handler := some handler } [] [(4, 0x3008)]
    let r := f3 .s32 .none (.g 4)
    let k := (steward 1 [(4, 0x3008)]).modSteward 0 fun w => { w with sie := 0x20, ipi := true }
    let odd := steward 1 [(4, 0x3004)]
    let sret : Issuer → Req := fun u => { ctrlReq true [gUse r.a false] with may := u.kind == .steward && u.sup, sys := [0x34] }
    let rest := k.modSteward 0 fun w => { w with sup := false, path := { w.path with phase := .boundary } }
    goes (s.ready? (.eret r) fun u => { ctrlReq true [gUse r.a false] with may := u.kind == .simt && u.path.lvl }) (fun u =>
      u.path.recon.isEmpty && (s.read64 u r.a 0).toNat % 8 == 0 && u.path.handler.isSome) = true ∧
    goes (k.ready? (.sret r) sret) (fun u => (k.read64 u r.a 0).toNat % 8 == 0) = true ∧
    goes (odd.ready? (.sret r) sret) (fun u => (odd.read64 u r.a 0).toNat % 8 != 0) = true ∧
    goes (k.ready? (.wfi (f3 .s32)) fun u => { ctrlReq true [] with may := u.kind == .steward && u.sup, sys := [0x35, 0x36] }) (fun u =>
      (k.readSys u 0x35 0 &&& k.readSys u 0x36 0) != 0) = true ∧
    (rest.steward 0).path.phase.atBoundary = true ∧ (rest.steward 0).start = false ∧
    ((List.range 6).any fun b => (rest.pendingEnabled 0).testBit b && (List.range b).all fun c => !(rest.pendingEnabled 0).testBit c) = true ∧
    (({ State.reset with clocks := { cyc := [0, 0, 0, 0, 5] } }.modSteward 31 fun w => { w with stcmp := 5 }).steward 31).stcmp.toNat
      ≤ { State.reset with clocks := { cyc := [0, 0, 0, 0, 5] } }.cyc (4096 + 31) := by decide +kernel

theorem witness_LeaseTableAndContextInstructions :
    let image : List (Nat × Nat × Nat) := [(0x2000, 8, 0x8000), (0x2008, 8, 0x3000), (0x2010, 8, 0x10000)]
    let k : State := { steward 2 [(3, 0x2000), (4, 0x3FFF), (5, 0), (6, 1023)] with mem := storing image }
    let boothR : List Use → Issuer → Req := fun l => fun (u : Issuer) => boothReq u l
    goes (k.ready? (.lsread (f3 .s32 (.g 7) (.g 4) (x := 3))) (boothR [gUse (.g 7) true, gUse (.g 4) false])) (fun u : Issuer =>
      decide ((k.read64 u (.g 4) 0).toNat < 2 ^ 14)) = true ∧
    goes (k.ready? (.lswrite (f3 .s32 .none (.g 4) (.g 5) (x := 3))) (boothR [gUse (.g 4) false, gUse (.g 5) false])) (fun u =>
      bits (k.read64 u (.g 4) 0).toNat 13 1 == 1) = true ∧
    goes (k.ready? (.lsgrant (f3 .s32 .none (.g 3))) (boothR [gUse (.g 3) false])) (fun u => okAnd (k.placesOf u.core u.ctx u.path.view.root 0x2000 32 .read) (fun as => (k.olderThan (stewardOp u .load as)).isEmpty) &&
      okAnd (k.readRange u.core u.ctx u.path.view.root 0x2000 32 .read)) = true ∧
    allReady k (boothR [gUse (.g 5) false]) [.lsrecall (f3 .s32 .none (.g 5))] = true ∧
    goes (k.ready? (.ctxload (f3 .s32 .none (.g 3) (.g 6))) fun u => ctxReq u [gUse (.g 3) false] (.g 6)) (fun u =>
      !k.hasResident 1023 && !k.hasWaiting 1023 &&
      okAnd (k.placesOf u.core u.ctx u.path.view.root 0x2000 640 .read) (fun (as : List Access) => (k.olderThan (stewardOp u .load as)).isEmpty) &&
      okAnd (k.readRange u.core u.ctx u.path.view.root 0x2000 640 .read) fun bs =>
        ((k.context 1023).ofImage bs).isSome) = true ∧
    goes (k.ready? (.ctxsave (f3 .s32 .none (.g 3) (.g 6))) fun u => ctxReq u [gUse (.g 3) false] (.g 6)) (fun u =>
      u.path.woken.isNone && !k.recorded u.ctx && !k.replayed u.ctx && okAnd (k.placesOf u.core u.ctx u.path.view.root 0x2000 640 .write) fun as =>
        as.all (k.turnOf u.uid) && (k.olderThan (stewardOp u .store as)).isEmpty) = true ∧
    -- an older store of the steward to the image is under way: the write waits behind it, and ends once it has come back
    (let o : Op := { loading with kind := .store, agent := .steward 0, uid := 0, owner := 0, who := (0, 0), core := 4096, dst := none }
     let s : State := { k with ops := [(50, o)] }
     goes (s.ready? (.ctxsave (f3 .s32 .none (.g 3) (.g 6))) fun u => ctxReq u [gUse (.g 3) false] (.g 6)) (fun u : Issuer =>
       okAnd (s.placesOf u.core u.ctx u.path.view.root 0x2000 640 .write) (fun (as : List Access) => !(s.olderThan (stewardOp u .store as)).isEmpty) &&
       decide ((s.rings u.agent).count .st < 1023)) = true ∧
     goes (State.ready? (k.modPath (.steward 0) fun p => { p with woken := some false }) (.ctxsave (f3 .s32 .none (.g 3) (.g 6)))
       fun u => ctxReq u [gUse (.g 3) false] (.g 6)) (fun u => u.path.woken == some false) = true) ∧
    goes (k.ready? (.ctxkill (f3 .s32 .none .none (.g 6))) fun u => ctxReq u [] (.g 6)) (fun _ =>
      ((k.endLaunches 1023 0xFF).engine.running.all fun r => r.2.ctx != 1023)) = true ∧
    allReady k (fun u => ctxReq u [gUse (.g 3) false] (.g 6)) [.ctxmode (f3 .s32 .none (.g 3) (.g 6))] = true := by decide +kernel

/-! ### Clauses -/

/-- A header of one word at the start of the page of memory. -/
def header : DWord := 0xF87E000000000000
def inPage (p : Path) : State := { onPath { p with pc := 0x2000 } [] [] with mem := storing [(0x2000, 8, header.toNat)] }

theorem witness_ClauseEvents :
    let boundary := onPath { path 1 with phase := .boundary } [] []
    let atHeader := inPage { path 1 with phase := .header }
    let waiting := inPage { path 1 with phase := .waiting, clause := { header := header } }
    let selected := inPage { path 1 with phase := .selected, clause := { header := header } }
    let armed := { inPage { path 1 with phase := .armed, clause := { header := header } } with clocks := { cyc := [1024, 0, 0, 0, 0] } }
    let stalled := onPath { path 1 with phase := .stalled (.tag 48) } [] []
    let broken := { selected.setPath (.path 0 0 0) { path 1 with pc := 0x2000, phase := .selected, clause := { header := header ||| 0x400000000 } } with
      mem := storing [(0x2000, 8, header.toNat + 0x400000000)]
      dbg := { selected.dbg with bpaddr := 0x2000 :: List.replicate 7 0, bpctl := 1 :: List.replicate 7 0 } }
    let quiet := fun (s : State) (u : Issuer) => !u.path.hold && !s.mustEnter u.agent && (u.poisoned none).isEmpty
    let bad := { atHeader with mem := storing [(0x2000, 8, header.toNat + 1)] }
    let noPage := onPath { path 1 with phase := .header, pc := 0x8000 } [] []
    goes (boundary.issuer? (.path 0 0 0)) (fun u => u.path.phase == .boundary && !boundary.heldLeaver u.agent && !boundary.stopped u.agent &&
      !boundary.mustEnter u.agent && !boundary.awaitsHelpers u && !u.path.lvl) = true ∧
    (let s := { steward 1 [] with bringup := { stage := 2 } }
     (s.steward 0).start = false ∧ 2 ≤ s.bringup.stage) ∧
    goes (atHeader.issuer? (.path 0 0 0)) (fun u => quiet atHeader u && okAnd (atHeader.fetchWords (u.refresh atHeader) u.path.pc.toNat 1) fun hs => hs.length == 1 &&
      hs.all fun h => headerOk h && ((atHeader.deferredOf u.agent).find? (FaultInfo.atHeader h)).isNone) = true ∧
    goes (waiting.issuer? (.path 0 0 0)) (fun u => quiet waiting u && waiting.waitsHold u.agent u.path.clause.header && (waiting.deferredOf u.agent).isEmpty) = true ∧
    goes (selected.issuer? (.path 0 0 0)) (fun u => quiet selected u && selected.waitsHold u.agent u.path.clause.header &&
      okAnd (selected.fetchClause (u.refresh selected)) && !u.path.clause.header.getLsbD 34 && !u.path.present && decide (u.core < 4096) &&
      ((selected.group? 0 0).map fun g => (selected.interruptible? 0 0 g).isNone) == some true) = true ∧
    goes (broken.issuer? (.path 0 0 0)) (fun u => quiet broken u && broken.waitsHold u.agent u.path.clause.header && !u.path.passed &&
      okAnd (broken.fetchClause (u.refresh broken)) && u.path.clause.header.getLsbD 34 &&
      ((u.refresh broken).path.view.breakpoints u.ctx u.path.pc).length == 1) = true ∧
    ((onPath { path 1 with phase := .missed } [] []).path? (.path 0 0 0)).map (·.phase) = some .missed ∧
    goes (armed.issuer? (.path 0 0 0)) (fun u => armed.isReady u.agent u.path && !u.path.aged && decide (Nat.max u.path.readyAt u.path.since + 1024 ≤ armed.cyc u.core)) = true ∧
    goes (stalled.issuer? (.path 0 0 0)) (fun u => stalled.stallCleared u (.tag 48) && !stalled.awaitsHelpers u && !u.path.bite && !stalled.stopped u.agent && u.path.clause.words != []) = true ∧
    (pickPaths (((armed.candidates 0).filter fun c => armed.isReady c.1.agent c.2).map (·.1)) [] 4).length = 1 ∧
    goes (bad.issuer? (.path 0 0 0)) (fun u => quiet bad u && okAnd (bad.fetchWords (u.refresh bad) u.path.pc.toNat 1) fun hs => hs.length == 1 && hs.all fun h =>
      bits h.toNat 0 24 != 0) = true ∧
    goes (noPage.issuer? (.path 0 0 0)) (fun u => quiet noPage u && match noPage.fetchWords (u.refresh noPage) u.path.pc.toNat 1 with
      | .error (m, va) => m.waits.isNone && noPage.raise (u.refresh noPage)
          { cause := m.cause, faddr := BitVec.ofNat 64 va, pc := u.path.pc, lease := m.lease, global := true } != noPage
      | .ok _ => false) = true ∧
    -- SelectedPathsHoldDisjointSlices has no hypothesis; a selection with two candidates takes both
    (pickPaths ((armed.candidates 0).map (·.1)) [3] 4).length = 1 := by decide +kernel

/-! ### Operations in flight -/

/-- An operation of two lanes at the first and the last word of a page. -/
def opOf (kind : OpKind) (x : Nat) : Op :=
  { loading with
    kind := kind, dst := none
    lanes := [{ lane := 0, va := 0x2000, len := 4, tgt := .phys 0x2000, x := x }, { lane := 1, va := 0x2FFC, len := 4, tgt := .phys 0x2FFC, x := x }]
    todo := [{ lane := 0, va := 0x2000, len := 4, tgt := .phys 0x2000, x := x }, { lane := 1, va := 0x2FFC, len := 4, tgt := .phys 0x2FFC, x := x }] }
def inFlight (l : Assoc Op) : State := { simt 2 [] [] with ops := l, mem := storing [(0x2000, 4, 5)] }

/-- An integer reduction held by a core for combining, and a cluster's. -/
def held : Combined :=
  { ctx := 0, acc := { lane := 0, va := 0x2000, len := 4, tgt := .phys 0x2000, x := 3 }, op := .add, size := 4, ops := [50], born := 0 }
def combining : State :=
  { simt 2 [] [] with clocks := { cyc := [64, 0, 0, 0, 0] }, clusters := [(0, [held])], cores := [(0, { core 2 [] [] with combine := [held] })] }

theorem witness_Operations :
    ([opOf .load 0, opOf .store 7, opOf (.atom .add true) 7].all fun o =>
      let s := inFlight [(50, o)]
      s.mayPerform 50 o && (match Assoc.get? (s.attempt 50).ops 50 with
        | some o' => o'.todo.isEmpty && o'.awaits == 0
        | none => false)) = true ∧
    ((opOf .load 0).kind.ctr = .ld ∧ (opOf .store 7).kind.ctr = .st ∧ (opOf (.atom .add true) 7).kind.ctr = .am) ∧
    (let s := inFlight [(50, { opOf .load 0 with order := .acq }), (51, opOf .store 7)]
     s.mayPerform 51 (opOf .store 7) = false) ∧
    (combining.core 0).combine[0]? = some held ∧ held.born + 64 ≤ combining.cyc 0 ∧
    (combineInto 256 (Assoc.getD combining.clusters 0 []) held).isSome = true ∧ Assoc.sorted combining.clusters = true ∧
    (Assoc.getD combining.clusters 0 [])[0]? = some held := by decide +kernel

theorem witness_Accesses :
    let a : Access := { lane := 1, va := 0x2FFC, len := 4, tgt := .phys 0x2FFC, x := 7 }
    let s := inFlight [(50, opOf .load 0)]
    s.fomar.ctl.getLsbD 0 = false ∧ s.fomar.active = false ∧
    (match s.freshLoad 0 a.mode a.tgt a.len with
     | some (r, .ok bs) => bs.length == 4 && r.fomar == s.fomar
     | _ => false) = true ∧
    (match s.storeAt 50 0 a.tgt (toBytes a.len a.x) with
     | some (r, n, none) => n == 0 && r.fomar == s.fomar
     | _ => false) = true ∧
    (match s.storeAt 50 0 a.tgt (s.scratchRead 0 1 a.x a.len) with
     | some (r, _, none) => r.fomar == s.fomar
     | _ => false) = true ∧
    (match s.updateAt 50 0 a.mode true a.tgt a.len (fun m => AtomOp.apply .add a.len m a.x a.y) with
     | some (r, 0, .ok m) => m == 0 && r.fomar == s.fomar
     | _ => false) = true ∧
    Op.combines { opOf (.red .addF) 7 with scope := .die } a = false ∧ Op.combines (opOf (.red .add) 7) a = false ∧
    Op.combines { opOf (.red .add) 7 with scope := .die } a = true ∧
    (combineInto 32 (s.core 0).combine { ctx := 0, acc := a, op := .add, size := 4, ops := [50], born := s.cyc 0 }).isSome = true ∧
    Op.behind (opOf (.red .add) 7) a = false ∧ Op.behind (opOf .store 7) a = false := by decide +kernel

/-- Stores at both ends of HBM4E and right below the hub's registers; a scratchpad store right after the barrier objects. -/
theorem witness_Stores :
    (storing [(0x2000, 4, 5)]).wf = true ∧ Assoc.get? State.reset.booth.dir (0x13FFFFFFFC0 / 64) = none ∧
    (hubArea - 64 + 64 ≤ hubArea ∧ hubArea + 0x10000000 ≤ hubArea + 0x10000000) ∧
    (let s := holding 2 [(64, 4, 1)] []
     (s.alloc? 0 1).map (fun x => decide (16 * x.bars ≤ 64) && x.bytes.wf) = some true) ∧
    State.reset.poisonIn 0x2000 8 = none ∧ State.reset.copy? 0 .undeclared (.phys 0x80) = none := by decide +kernel

theorem witness_Atomics :
    (2 ^ 32 - 1 < 2 ^ (8 * 4) ∧ 2 ^ 64 - 1 < 2 ^ (8 * 8)) ∧ held.matches { held with ops := [51] } = true ∧
    AtomOp.apply .minS 4 0x80000000 0x7FFFFFFF 0 = 0x80000000 ∧ AtomOp.apply .minN 4 0x80000000 0x7FFFFFFF 0 = 0x7FFFFFFF := by decide +kernel

/-! ### The codec -/

/-- A window of one block at k = 1 at 0x7F0000, its encodings at 0x2000 of memory, and an operation on its first element. -/
def win : Window := { base := 0x10000, size := 0x10000, cbase := 0x2000, cnt := 0x2800, k := 1 }
def onBlock (kind : OpKind) : Op :=
  let a : Access := { lane := 0, va := 0x10000, len := 8, tgt := .block win 0x10000 [(0x2000, 8)], x := 0x3FF0000000000000 }
  { loading with kind := kind, size := 8, dst := none, lanes := [a], todo := [a] }

theorem witness_CodecEvents :
    let s := fun kind => { simt 2 [] [] with ops := [(50, onBlock kind)] }
    (((onBlock .load).inBlock 0x400).head?.map Access.tgt = some (.block win 0x10000 [(0x2000, 8)])) ∧
    (s .load).mayPerform 50 (onBlock .load) = true ∧
    (match (s .load).blockLoad 0 0 win 0x10000 [(0x2000, 8)] with
     | (r, .ok bs) => bs.length == 64 && r.fomar == (s .load).fomar && r.ops == (s .load).ops
     | _ => false) = true ∧
    ([OpKind.store, .atom .exch true].all fun kind =>
      let by' := (onBlock kind).writer 50 0
      ((s kind).counterKept? by' win).isNone && (match (s kind).writeBlock by' win 0x10000 [(0x2000, 8)] false false [0]
          (fun bs => toBytes 8 0x3FF0000000000000 ++ bs.drop 8) with
        | (r, .written) => r.fomar == (s kind).fomar && (r.counterDone by' win).fomar == (s kind).fomar
        | _ => false)) = true ∧
    -- the counter block lies in a line of the pool that another package holds
    (let k := { s .store with booth := { dir := [(0x1000000020, { sharers := [3] })] } }
     let by' := (onBlock .store).writer 50 0
     match k.counterKept? by' { win with cnt := 0x3800 } with
     | some t => t != k
     | none => false) = true := by decide +kernel

theorem witness_CodecEncodings :
    ([0, 1, 2, 3, 4, 5, 6, 7] : List Nat).length = 8 ∧
    (([0x7FEFFFFFFFFFFFFF, 0xFFEFFFFFFFFFFFFF, 1, 0, 0x8000000000000000, 0x3FF0000000000000, 0, 0] : List Nat).all fun x =>
      decide (x < 2 ^ 64) && isFinite64 x) = true := by decide +kernel

/-! ### Engine commands -/

/-- Command 60 of the group, with the record's fields at offsets from 0. -/
def commanding (kind : CmdKind) (l : List (Nat × Nat × Nat)) (f : Cmd → Cmd := fun c => c) : State :=
  let s := holding 2 [(0x1000, 4, 0x40000000)] []
  { s with mem := storing [(0x2000, 8, 0x1122334455667788)]
           cmds := [(60, f { kind := kind, rec' := (storing l).readN 0 64, fmt := 0x360, uid := 40, core := 0, gid := 0, ctx := 0, launch := 1
                             alloc := 1, born := 0 })] }

/-- A copy of 16 bytes (of 32 elements, of 4) from `src` to `dst`: kind, flags, OPX and AUX. -/
def copyRec (kind flags opx len src dst aux rows : Nat) : List (Nat × Nat × Nat) :=
  [(0, 1, kind), (1, 1, flags), (0xA, 2, opx), (0xC, 4, len), (0x10, 8, src), (0x18, 8, dst), (0x30, 4, rows), (0x38, 8, aux)]

/-- A copy that may run and has begun, whose source is read and whose destination takes what its kind makes of it. -/
def moves (l : List (Nat × Nat × Nat)) (src dst : Cmd → Loc) (n : Nat) (pool : Bool) (out : List Byte → List Byte := id) : Bool :=
  let s := commanding .copy l
  match s.runnable? 60 .copy with
  | none => false
  | some c =>
    let begun := (s.cmdAcquire c (c.flag 3) (c.field 2 1)).modCmd 60 fun c => { c with started := true, begun := s.cyc c.core }
    !c.finished && match begun.engineRead 60 c (src c) n 1 pool with
      | .done (b, bs) => (match b.engineWrite 60 c (dst c) (out bs) pool with
        | .done _ => true
        | _ => false)
      | _ => false

theorem witness_EngineCopies :
    moves (copyRec 1 1 0 16 0x1000 0x2000 0 1) (·.src 0 0) (·.dst 0 0) 16 false = true ∧
    moves (copyRec 2 1 0 16 0x1000 0x2000 0 2) (·.src 0 0) (·.dst 0 0) 1 false = true ∧
    moves (copyRec 3 2 0 16 0x2000 0x1000 0x2000 1) (·.src 0 0) (·.dst 0 0) 16 false = true ∧
    moves (copyRec 4 0 0 16 0 0x3000 0x55 1) (·.dst 0 0) (·.dst 0 0) 16 true = true ∧
    moves (copyRec 5 0 0 16 0x3000 0x3010 0x2020 1) (·.src 0 0) (·.dst 0 0) 16 true = true ∧
    moves (copyRec 6 0 0 16 0x3000 0x3010 0 1) (·.src 0 0) (·.dst 0 0) 4 true = true ∧
    moves (copyRec 10 1 0 32 0x1000 0x2000 0x3000 1) (·.src 0 0) (·.dst 0 0) 1 false = true ∧
    -- POOL_REDUCE: its element is updated; POOL_COMPARE: the write of its result
    (let s := commanding .copy (copyRec 6 0 0 16 0x3000 0x3010 0 1)
     match s.runnable? 60 .copy with
     | none => false
     | some c => !c.flag 1 && match s.engineUpdate 60 c (.pool 0 0x360) 0x3010 4 7 true with
       | .done _ => true
       | _ => false) = true ∧
    (let s := commanding .copy (copyRec 5 0 0 16 0x3000 0x3010 0x2020 1) fun c => { c with result := some (toBytes 8 3), bytes := 16 }
     match s.runnable? 60 .copy with
     | none => false
     | some c => !c.finished && match s.engineWrite 60 c (.global c.aux) (toBytes 8 3) false with
       | .done _ => true
       | _ => false) = true := by decide +kernel

/-- The last bytes of a line of memory and of a line of the pool, and the first byte after the barrier objects, which an engine reaches. -/
theorem witness_EngineBytes :
    let s := commanding .copy (copyRec 1 0 0 16 0x2000 0x2010 0 1)
    s.mem.wf = true ∧ s.ops = [] ∧ s.booth.dir = [] ∧
    (Assoc.get? s.cmds 60).map (fun c => !s.replayed c.ctx && c.asked.isEmpty && c.got.isEmpty &&
      ((s.alloc? c.core c.alloc).map fun a => a.bytes.wf && decide (16 * a.bars ≤ 64)) == some true &&
      [Need.read, .write].all fun need => match s.engineTarget 60 c need 0x2030 16 1 false, s.engineTarget 60 c need 0x3038 8 8 true with
        | .ok (.phys pa), .ok (.phys pb) => decide (pa + 16 ≤ hubArea) && (s.poisonIn pa 16).isNone && decide (pb % 64 = 0x38) &&
          decide (pb + 8 ≤ hubArea) && (s.poisonIn pb 8).isNone
        | _, _ => false) = some true := by decide +kernel

/-- A lease of 64 KiB that is active, with one line at hand. -/
def leased (l : List (Nat × Nat × Nat)) : State :=
  { commanding .copy l with
    booth := { borrowed := [(4096, { lid := 9, lend := 2, sz := 16, st := 2, dur := 100, deadline := 100 })]
               rlc := [{ entry := 4096, line := 0, st := .s }] } }

theorem witness_EngineLeases :
    (let s := leased (copyRec 8 0 0 64 0x4000 0 0 1)
     match s.runnable? 60 .copy with
     | none => false
     | some c => !c.finished && c.got.isEmpty && match s.rangeLines 60 c 0x4000 64 true, s.rangeLines 60 c 0x4000 64 false with
       | .ok [l], .ok all => (s.lentRead? l.2.1 l.2.2).isSome && (all.all fun l => ((s.line? l.2.1 l.2.2).map (·.wrs)) == some []) &&
         ([l].all fun k => ((s.evict l.2.1 l.2.2).line? k.2.1 k.2.2).isNone)
       | _, _ => false) = true := by decide +kernel

theorem witness_EngineEnds :
    -- FABRIC_REDUCE, BYTE_COUNT_PORTION, COPY_COMPLETE
    (let s := commanding .copy (copyRec 7 0 0 16 0x2000 0x3000 0 1) fun c => { c with started := true }
     match s.runnable? 60 .copy with
     | none => false
     | some c => !c.finished && c.result.isNone && c.row != 1 && (s.instanceBroken? c).isNone &&
       match s.engineRead 60 c (c.src 0 0) c.len 1 false with
       | .done _ => true
       | _ => false) = true ∧
    (let s := commanding .copy (copyRec 1 1 0 16 0x1000 0x2000 0 1) fun c => { c with owed := 16 }
     (Assoc.get? s.cmds 60).map (fun c => c.owed != 0 && c.awaits == 0 && c.refer.isNone && (s.alloc? c.core c.alloc).isSome) = some true) ∧
    (let s := commanding .copy (copyRec 1 1 0 16 0x1000 0x2000 0 1) fun c => { c with started := true, bytes := 16 }
     match s.runnable? 60 .copy with
     | none => false
     | some c => c.finished && c.owed == 0 && c.awaits == 0 && !s.fomar.active) = true ∧
    -- TILE_TASK_START, ENGINE_FAULT (a copy from a page that is not mapped)
    (let s := commanding .tile (tileTask.map fun x => (x.1 - 0x400, x.2))
     match s.runnable? 60 .tile with
     | none => false
     | some c => !c.started && s.cmds.all fun p => p.1 == 60) = true ∧
    (let s := commanding .copy (copyRec 1 0 0 16 0x9000 0x2000 0 1)
     (Assoc.get? s.cmds 60).map (fun c => c.kind != .svc && c.refer.isNone && c.held.isNone && !c.badDep && s.cmdReady c &&
       ((s.nextFault? 60 c).map fun f => s.served c f || s.landed c) == some true) = some true) := by decide +kernel

/-- TILE_TASK_COMPLETE: rows of the task are run, its stamp is written, and it ends. -/
theorem witness_EngineTile :
    let task := fun run res => commanding .tile (tileTask.map fun x => (x.1 - 0x400, x.2)) fun c =>
      { c with started := true, entered := true, run := run, result := res }
    (let s := task 0 none
     match s.runnable? 60 .tile with
     | none => false
     | some c => c.started && decide (c.run < c.runs) &&
       (match s.runRows 60 c (s.core 0).pace with
        | .done _ => true
        | _ => false) &&
       -- its operands, and the group whose tiles they update
       match s.readOperand 60 c (c.operand false) c.row (Nat.min 512 (c.dimM - c.row)) 0 (Nat.min c.runLength c.dimK) with
       | .done (a, as) => (match a.readOperand 60 c (c.operand true) (c.part * c.partColumns) c.partColumns 0 (Nat.min c.runLength c.dimK) with
         | .done (b, _) => as.length == 64 && c.tiles.length == 1 && b.unit? c.uid == some (.slot 0 0) &&
           ((b.group? 0 0).map fun g => g.life == .resident && Assoc.sorted g.acc) == some true
         | _ => false)
       | _ => false) = true ∧
    (let s := task 1 none
     match s.runnable? 60 .tile with
     | none => false
     | some c => decide (c.runs ≤ c.run) && c.result.isNone && !s.fomar.active && match s.stampTask 60 c with
       | .done t => (Assoc.get? t.cmds 60).map (·.awaits) == some 0
       | _ => false) = true ∧
    (match (task 1 (some [])).runnable? 60 .tile with
     | none => false
     | some c => decide (c.runs ≤ c.run) && c.result.isSome && c.awaits == 0) = true := by decide +kernel

/-! ### Collectives and launches -/

/-- A package on the fabric. -/
def onFabric : State := { State.reset with bringup := { stage := 8 } }

theorem witness_Collectives :
    let i : Instance := { coll := 0, inst := 0, len := 4, opx := 0, cmds := [60], sums := [(5, 8)], sent := true }
    let s := { onFabric with
      fabric := { up := 0xFFFF, instances := [i], colls := [(0, 1)], kicks := [(0, 1)] }
      clocks := { nsc := 10000000 }
      cmds := [(60, { kind := .copy, rec' := (storing (copyRec 7 0 0 4 0x2000 0x3000 0 1)).readN 0 64, fmt := 0, uid := 40, core := 0, gid := 0
                      ctx := 0, launch := 1, inst := 0, born := 0 })] }
    s.onFabric = true ∧ s.instance? 0 0 = some i ∧ i.broken = none ∧ i.sent = true ∧ i.since + 10000000 ≤ s.clocks.nsc ∧ i.cmds = 60 :: [] ∧
    s.atRoot 0 = true ∧ s.participantLost i = false ∧ s.instanceFull i = true ∧
    -- what a partial sum holds: a number, infinity and NaN
    (8 < 16 ∧ (2 < 8 → (0 : Int) = 0)) := by decide +kernel

/-- A launch 1 of context 0 whose header and record stand, on queue 0. -/
def launching (st : RecState) : State :=
  { State.reset with engine := { running := [(1, { ctx := 0, left := 1 })]
                                 queues := [(0, [{ id := 1, st := st, record := (storing (launchRecord 0)).readN 0 256
                                                   header := (storing (kernelHeader.map fun x => (x.1 - 0x2000, x.2))).readN 0 256 }])] } }

/-- Submission slot 0 holds a command with the payload fields given, at offsets from the slot. -/
def slotted (cmd : Nat) (l : List (Nat × Nat × Nat)) : State :=
  { onFabric with engine := { slots := [(0, 2 ^ 63 + cmd)], images := [(0, (storing l).readN 0 0x140)] } }
def inEngine (s : State) (f : Engine → Engine) : State := { s with engine := f s.engine }

theorem witness_LaunchEngine :
    (((launching .held).queue 0)[0]?.map (·.st) = some .held) ∧ (((launching .held).queue 0)[0]?.map fun l => recPreds l.record) = some [] ∧
    recPreds ((storing (launchRecord 0 ++ [(0xF0, 8, 0x2000)])).readN 0 256) = [0x2000] ∧
    ([0, 5].all fun v => match { launching .held with mem := storing [(0x2000, 8, v)], hubTlb := [page] }.hwLoad 0 0x2000 8 with
      | .ok bs => ofBytes bs == v
      | _ => false) = true ∧
    (launching .placing).waitingGangs.isEmpty = true ∧ ((launching .placing).heads.map (·.1)) = [0] ∧
    ((launching .placing).heads.head?.bind fun q => (Assoc.get? (launching .placing).engine.running q.2.id).bind fun r =>
      (launching .placing).placeNext q.2 r).isSome = true ∧
    ((slotted 2 [(0x40, 1, 1)]).pendingRequest? 0).map (fun q => (q.op, q.ok)) = some (1, true) ∧
    ((slotted 2 [(0x40, 1, 2)]).pendingRequest? 0).map (fun q => (q.op, q.ok)) = some (2, true) ∧
    ((slotted 2 [(0x40, 1, 3), (0x41, 1, 1)]).pendingRequest? 0).map (fun q => (q.op, q.ok)) = some (3, true) ∧
    ((slotted 2 [(0x40, 1, 1), (0x44, 4, 1024)]).pendingRequest? 0).map (fun q => (q.op, q.ok)) = some (1, false) := by decide +kernel

/-- A unit of one group is placed on core 0; a group of two paths, one of them inside a clause, is saved with its allocation. -/
theorem witness_PlacedAndSaved :
    let s := launching .placing
    let g := { group 2 [] [] with paths := [(0, path 2), (1, { path 2 with phase := .boundary })] }
    let t := { simt 2 [] [] with cores := [(0, { core 2 [] [] with slots := [(15, g)] })] }
    (s.heads.head?.bind fun q => (Assoc.get? s.engine.running q.2.id).bind fun r => (kernelOf q.2.header).bind fun k =>
      if r.shape.cluster = false ∧ r.shape.die = 0 ∧ r.shape.unit = 1 then (s.bestCore 0 4096 (newWant q.2 k)).bind fun c =>
        Assoc.firstFree (s.core c).slots 16 else none).isSome = true ∧
    t.group? 0 15 = some g ∧ Assoc.sorted (t.core 0).slots = true ∧ Assoc.sorted t.engine.saved = true ∧ Assoc.sorted (t.core 0).allocs = true ∧
    (t.alloc? 0 g.alloc).isSome = true ∧ (path 2).inside = true ∧ (path 2).rgc = false := by decide +kernel

theorem witness_LaunchEngineGroups :
    let saved : SavedGroup := { group := { group 1 [] [] with launch := 1, paths := [(0, { path 1 with phase := .boundary })] }, order := 0, eligible := true }
    let s := { launching .placing with engine := { (launching .placing).engine with saved := [(0, saved)] } }
    let stopping := { simt 1 [] [] with cores := [(0, { core 1 [] [] with
      preempt := true, slots := [(0, { group 1 [] [] with stopping := true, paths := [(0, { path 1 with phase := .boundary })] })] })] }
    let biting := { simt 1 [] [] with
      cores := [(0, { core 1 [] [] with slots := [(15, { group 1 [] [] with watch := 6 })] })]
      contexts := [(0, { watchdog := 5 })] }
    let gone := { simt 1 [] [] with cores := [(0, { core 1 [] [] with slots := [(15, { group 1 [] [] with life := .draining })] })] }
    let ending := { State.reset with engine := { running := [(1, { ctx := 0, left := 0, ending := some { ecause := 0, asked := true } })] } }
    (s.waitingGangs.head?.bind fun x => s.resumeGang x.1 x.2.1 x.2.2).isSome = true ∧
    ((stopping.core 0).preempt = true ∧ (((stopping.core 0).slots.filter fun p => p.2.stopping && !p.2.killed).all fun p =>
      stopping.haltedGroup 0 p.1 p.2) = true) ∧
    ((biting.group? 0 15).map fun g => g.life == .resident && !g.killed && decide ((biting.context g.ctx).watchdog.toNat < g.watch)) = some true ∧
    ((gone.group? 0 15).map (gone.drained 0 15)) = some true ∧
    (Assoc.get? ending.engine.running 1).map (fun r => r.ending.isSome && r.left == 0) = some true ∧ ending.cmds = [] := by decide +kernel

/-! ### Submission slots -/

theorem witness_SlotCommands :
    let launch := slotted 1 (launchRecord 0x40)
    let running := inEngine (slotted 3 [(0x40, 8, 7), (0x48, 4, 0)]) fun e => { e with running := [(1, { ctx := 0, lid := 7 })] }
    let uint := inEngine (slotted 15 [(0x40, 4, 0), (0x48, 8, 7), (0x50, 1, 15)]) fun e => { e with running := [(1, { ctx := 0, lid := 7 })] }
    let event : QEvent := { cls := 2, handle := 9, ctx := 0, body := [] }
    let fetch := inEngine (slotted 4 [(0x40, 1, 2)]) fun e => { e with events := [event] }
    let halted := fun cmd => { inEngine (slotted cmd [(0x40, 4, 9)]) fun e => { e with running := [(1, { ctx := 0, lid := 7 })] } with
      cmds := [(60, { kind := .copy, rec' := [], fmt := 0, uid := 40, core := 0, gid := 0, ctx := 0, launch := 1, born := 0
                      held := some (9, { cause := 0x20, faddr := 0, pc := 0 }) })] }
    let call := fun cmd n => { inEngine (slotted cmd [(0x40, 4, n)]) fun e => { e with running := [(1, { ctx := 0, lid := 7 })], fetched := [(9, 1)] } with
      cmds := [(60, { kind := .svc, rec' := toBytes 4 5, fmt := 0, uid := 40, core := 0, gid := 0, ctx := 0, launch := 1, born := 0, handle := 9
                      started := true })] }
    (launch.slotCmd 0 1 = true ∧ 6 ≤ launch.bringup.stage ∧ Assoc.get? launch.engine.waiting 0 = none) ∧
    ((Assoc.get? launch.engine.submits 0).map (·.early)).isNone = true ∧
    ((Assoc.get? { launch with engine := { launch.engine with submits := [(0, { fmt := 0, early := true })] } }.engine.submits 0).map (·.early))
      = some true ∧
    recordOk (launch.payload 0 0x40 256) = true ∧ recordOk ((slotted 1 []).payload 0 0x40 256) = false ∧ launch.liveContext 0 = true ∧
    (running.slotCmd 0 3 = true ∧ running.launchesOf 7 0 = [1] ∧ (slotted 3 []).launchesOf 7 0 = []) ∧
    (uint.slotCmd 0 15 = true ∧ uint.payloadNat 0 0x50 1 < 16 ∧ uint.payloadNat 0 0x44 4 = 0 ∧ uint.launchesOf 7 0 = [1]) ∧
    (fetch.slotCmd 0 4 = true ∧ fetch.payloadNat 0 0x40 1 = 2 ∧ fetch.engine.events.find? (fun e => e.cls = 2) = some event) ∧
    ((halted 5).handle? 9).isSome = true ∧ ((halted 6).handle? 9).isSome = true ∧ (slotted 5 [(0x40, 4, 9)]).handle? 9 = none ∧
    ((call 7 9).callOf? 9).isSome = true ∧ (slotted 7 []).callOf? 9 = none ∧
    ((call 8 5).cmds.filter (fun c => c.2.kind = .svc && (Assoc.get? (call 8 5).engine.fetched c.2.handle).isSome &&
      ((call 8 5).payloadNat 0 0x40 4 = 0xFFFFFFFF || c.2.field 0 4 = (call 8 5).payloadNat 0 0x40 4))).length = 1 ∧
    ((slotted 10 [(0x40, 4, 4095)]).slotCmd 0 10 = true ∧ (slotted 10 [(0x40, 4, 4095)]).payloadNat 0 0x46 2 = 0 ∧ (slotted 10 [(0x40, 4, 4095)]).payloadNat 0 0x40 4 < 4096) ∧
    ((slotted 11 [(0x40, 4, 63)]).slotCmd 0 11 = true ∧ (slotted 11 [(0x40, 4, 63)]).payloadNat 0 0x44 4 = 0 ∧
      (slotted 11 [(0x40, 4, 63)]).payloadNat 0 0x4E 2 = 0 ∧ (slotted 11 [(0x40, 4, 63)]).payloadNat 0 0x40 4 < 64 ∧
      (slotted 11 [(0x40, 4, 63)]).cmds = []) ∧
    ([12, 13, 14].all fun cmd => (slotted cmd []).slotCmd 0 cmd) = true := by decide +kernel

/-- LAUNCH with its header readable, and after waiting for room; COPY of 16 bytes. -/
theorem witness_SlotLaunchAndCopy :
    let launch := { slotted 1 (launchRecord 0x40) with mem := storing kernelHeader, hubTlb := [page] }
    let waiting := { slotted 1 [] with
      engine := { slots := [(0, 1)], waiting := [(0, { id := 0, st := .held, record := (storing (launchRecord 0)).readN 0 256, header := [] })] } }
    let copy := slotted 9 ((copyRec 1 0 0 16 0x2000 0x3000 0 1).map fun x => (x.1 + 0x40, x.2))
    let c : Cmd := { kind := .copy, rec' := copy.payload 0 0x40 64, fmt := ((Assoc.get? copy.engine.submits 0).map (·.fmt)).getD 0, uid := 0, core := 4096, gid := 0, ctx := 0
                     launch := 0, view := copy.viewOf 0, slot := some 0, born := copy.cyc 4096 }
    { c with rec' := (slotted 9 [(0x40 + 0x34, 4, 1)]).payload 0 0x40 64 }.field 0x34 4 ≠ 0 ∧ c.field 0x34 4 = 0 ∧
    (match launch.readHeader (launch.slotReader 0 0) (launch.payload 0 0x40 256) with
     | .ok t _ => decide ((t.queue 0).length < 32)
     | _ => false) = true ∧
    (Assoc.get? waiting.engine.waiting 0).isSome = true ∧ waiting.liveContext 0 = true ∧
    copy.slotCmd 0 9 = true ∧ copy.cmds = [] ∧ c.flag 0 = false ∧ c.flag 1 = false ∧ c.flag 2 = false ∧ c.copyKind = 1 ∧
    c.copyOk 0 0 (fun _ => false) (fun _ => false) = true := by decide +kernel

theorem witness_AnsweringASlot :
    (slotted 4 []).mem.wf = true ∧ Assoc.sorted (slotted 4 []).engine.slots = true ∧ 31 < 32 ∧ 2 ^ 64 - 1 < 2 ^ 64 ∧
    (List.replicate 0xFC0 (0 : Byte)).length ≤ 0xFC0 ∧ Assoc.get? (slotted 4 []).engine.slots 0 = some (2 ^ 63 + 4) := by decide +kernel

/-! ### Lending and coherence -/

/-- A package that has lent to package 3 (its GACK awaited) and borrowed from package 2. -/
def lend (st : Nat) : Lent :=
  { lid := 5, st := st, sz := 16, nb := false, dur := 100, bpk0 := 3, poff := 0, bix0 := 0, exp := 50, alive := [3], acks := [(3, 0)] }
def borrow (st : Nat) : Borrowed := { lid := 9, lend := 2, sz := 16, st := st, dur := 1000, deadline := 10000100, rbase := 0 }
def lending (l : Lent) (b : Borrowed) : State :=
  { onFabric with booth := { lent := [(7, l)], borrowed := [(4096, b)] }, clocks := { nsc := 10000000 } }

theorem witness_LeaseMessages :
    State.reset.onFabric = false ∧ (lending (lend 1) (borrow 2)).onFabric = true ∧ (lending (lend 1) (borrow 2)).lentOf? 6 = none ∧
    (lending (lend 1) (borrow 2)).lentOf? 5 = some (7, lend 1) ∧ (lending (lend 2) (borrow 2)).lentOf? 5 = some (7, lend 2) ∧
    (3, 0) ∈ (lend 1).acks ∧ 3 ∈ (lend 1).alive ∧ (lending (lend 1) (borrow 2)).booth.failed.contains 3 = false ∧ (lend 1).st ≠ 2 ∧
    ((49 < (lend 1).exp) ∧ ({ lend 1 with acks := [] }).exp ≤ 50) ∧
    (lending (lend 1) (borrow 2)).borrowedOf? 2 9 = some (4096, borrow 2) ∧
    ((lending (lend 1) { borrow 2 with renewal := some (4, some 4) }).borrowedOf? 2 9).map (·.2.renewal) = some (some (4, some 4)) ∧
    ((lending (lend 1) (borrow 2)).leaseEvent 0x07 [9]).borrowedOf? 2 8 = none ∧
    ((lending (lend 1) (borrow 2)).leaseEvent 0x07 [9]).borrowedOf? 2 9 = some (4096, borrow 2) := by decide +kernel

/-- Each time at its first instant, and one before. -/
theorem witness_LeaseTimes :
    let at' := fun (n : Nat) => { lending (lend 1) (borrow 2) with clocks := { nsc := n } }
    ((lend 1).acks.filter (fun a => a.2 + 10000000 ≤ 10000000)).length = 1 ∧
    (4 * (10000100 - (at' 10000000).clocks.nsc) < 1000 ∧ (at' 10000000).clocks.nsc < (borrow 2).deadline) ∧
    (9900000 + 100000 ≤ (at' 10000000).clocks.nsc ∧ (borrow 2).deadline ≤ (at' 10000100).clocks.nsc ∧ (at' 10000099).clocks.nsc < (borrow 2).deadline) ∧
    ({ borrow 3 with deadline := 10000000 }.deadline ≤ (at' 10000000).clocks.nsc ∧ (borrow 3).leaving = none) ∧
    ({ lend 1 with acks := [] }.exp ≤ (at' 50).clocks.nsc ∧ (at' 49).clocks.nsc < (lend 1).exp) ∧
    ((lend 2).recallAt + (lend 2).rgr * 1000 ≤ (at' 1000).clocks.nsc) ∧
    ({ lend 1 with waiting := [(0, .rds 3)], spentAt := 9999 }.spentAt < (at' 10000000).clocks.nsc / 1000) ∧
    (let s := { at' 10000000 with booth := { (at' 0).booth with dir := [(0x1000000000, { wait := [(3, 0)] }), (8, { wait := [(3, 0)] })] } }
     (3, 0) ∈ (s.dirLine 8).wait ∧ (0 : Nat) + 10000000 ≤ s.clocks.nsc) ∧
    ((({ entry := 4096, line := 0, st := .e, wrs := [(1, 0)] } : RlcLine).wrs.all fun w => decide (w.2 + 10000000 ≤ (at' 10000000).clocks.nsc)) = true) ∧
    (State.reset.booth.lent = [] ∧ State.reset.booth.dir = [] ∧ State.reset.booth.borrowed = [] ∧ State.reset.fabric.instances = []) ∧
    (({ at' 0 with booth := { lent := [(7, lend 1)] } }.booth.borrowed = []) ∧ 3 ∈ (lend 1).alive ∧ (lend 1).alive = [3]) := by decide +kernel

/-- A package that has lent the line at the start of its pool to packages 3 and 4, and reaches both, with the line's directory entry. -/
def sharing (d : DirLine) : State :=
  { onFabric with
    fabric := { up := 1, routes := [(2, 0x100), (3, 0x100), (4, 0x100)] }
    booth := { lent := [(7, { lend 1 with alive := [3, 4] })], borrowed := [(4096, borrow 2)], dir := [(0x1000000000, d)] } }

/-- What an instruction makes of that line, and what it sends: the bodies, and to whom. -/
def homeAfter (d : DirLine) (i : Instr) : Option (DirLine × List Msg) :=
  match exec i (sharing d) with
  | .next t => some (t.dirLine 0x1000000000, t.booth.sent)
  | _ => none

/-- The home's part (Table 4): the state and the conditions of each row, with package 3 the requester and 4 another borrower. -/
theorem witness_CoherenceHome :
    let l := 0x1000000000
    let s := sharing {}
    let snp := fun (b : Nat) => ({ dst := .pkg b, body := .snpInv l 0 } : Msg)
    let cmpS := fun (b : Nat) => ({ dst := .pkg b, body := .cmpS l (some 0) 0 } : Msg)
    let cmpE := fun (b : Nat) => ({ dst := .pkg b, body := .cmpE l (some 0) 0 } : Msg)
    s.onFabric = true ∧ s.mem.wf = true ∧ Assoc.sorted s.booth.dir = true ∧ Assoc.sorted s.booth.lent = true ∧
    Assoc.sorted s.booth.borrowed = true ∧ (s.route? 3).isSome = true ∧ (s.route? 4).isSome = true ∧
    (s.lentAt? (l * 64)).map (fun x => (x.1, x.2.alive, x.2.bwc, x.2.waiting)) = some (7, [3, 4], 0, []) ∧ s.booth.failed.contains 3 = false ∧
    { s with booth := { s.booth with failed := [3] } }.booth.failed.contains 3 = true ∧
    s.lentAt? 0 = none ∧ 5 ∉ ({ lend 1 with alive := [3, 4] }).alive ∧
    -- I, S(V), E(b), E(o); then W, and its answers
    ([({}, .rds 3 l, { sharers := [3] }, [cmpS 3]), ({ sharers := [4] }, .rds 3 l, { sharers := [4, 3] }, [cmpS 3]),
      ({ owner := some 3 }, .rds 3 l, { owner := some 3 }, [cmpS 3]), ({}, .rdown 3 l false, { owner := some 3 }, [cmpE 3]),
      ({ owner := some 4 }, .rds 3 l, { owner := some 4, wait := [(4, 0)], queue := [.rds 3] }, [{ dst := .pkg 4, body := .snpShr l 0 }]),
      ({ sharers := [3, 4] }, .rdown 3 l false, { sharers := [3, 4], wait := [(4, 0)], queue := [.rdown 3 false] }, [snp 4]),
      ({ owner := some 3 }, .wr 3 l 5 1, { owner := some 3 }, [{ dst := .pkg 3, body := .cmp l 0 false }]),
      ({ owner := some 4 }, .wr 3 l 5 1, { owner := some 4 }, [{ dst := .pkg 3, body := .cmp l 0 true }]),
      ({ owner := some 4, wait := [(4, 0)], queue := [.rds 3] }, .rdown 3 l true,
        { owner := some 4, wait := [(4, 0)], queue := [.rds 3, .rdown 3 true] }, []),
      ({ sharers := [3] }, .evct 3 l, {}, [{ dst := .pkg 3, body := .cmp l 0 false }]),
      ({ owner := some 3, wait := [(3, 0)], queue := [.rds 4] }, .biconflict 3 l,
        { owner := some 3, wait := [(3, 0)], queue := [.rds 4] }, [{ dst := .pkg 3, body := .conflictAck l }]),
      ({ sharers := [3, 4], wait := [(3, 0), (4, 0)], queue := [.local 50] }, .birspi 3 l,
        { sharers := [4], wait := [(4, 0)], queue := [.local 50] }, []),
      ({ owner := some 3, wait := [(3, 0)], queue := [.rds 4] }, .birsps 3 l, { sharers := [3, 4] }, [cmpS 4]),
      ({ sharers := [3, 4], wait := [(3, 0)], queue := [.rdown 4 false] }, .birspi 3 l, { owner := some 4 },
        [{ dst := .pkg 4, body := .cmpE l none 0 }]),
      ({ sharers := [3], wait := [(3, 0)], queue := [.local 50] }, .birspi 3 l, { queue := [.local 50] }, [])]
        : List (DirLine × Instr × DirLine × List Msg)).all (fun x => homeAfter x.1 x.2.1 == some x.2.2) = true := by decide +kernel

/-- The borrower's part (Table 3): the states of the line, and what becomes of it and is sent. -/
theorem witness_CoherenceBorrower :
    let line := fun (st : LineSt) => ({ entry := 4096, line := 1, st := st } : RlcLine)
    let s := fun (l : RlcLine) => { sharing {} with booth := { (sharing {}).booth with rlc := [l] } }
    let after := fun (l : RlcLine) (i : Instr) => match exec i (s l) with
      | .next t => some (t.line? 4096 1, t.booth.sent.map (·.body))
      | _ => none
    (s (line .is)).entryAt? 4 1 = none ∧ (s (line .is)).entryAt? 2 1 = some 4096 ∧ (s (line .is)).ownLine 4096 1 = 1 ∧
    ((s (line .is)).borrowed 4096).leaving = none ∧ ((s (line .is)).borrowed 4096).st ≠ 3 ∧ (s (line .is)).line? 4096 2 = none ∧
    ([LineSt.s, .e, .mm].all fun st => after (line st) (.bisnpinv 2 1 0) == some (none, [.rspI 1]) &&
      after (line st) (.bisnpshr 2 1 0) == some (some (line .s), [.rspS 1])) = true ∧
    ([({ line .mm with wrs := [(50, 0)] }, .bisnpinv 2 1 0, some { line .mm with wrs := [(50, 0)], snoop := some true }, []),
      (line .ei, .bisnpinv 2 1 0, some (line .ei), [.rspI 1]),
      ({ line .e with snoop := some true, conflict := true }, .biconflictack 2 1, none, [.rspI 1]),
      ({ line .e with snoop := some false, conflict := true }, .biconflictack 2 1, some (line .s), [.rspS 1]),
      ({ line .e with snoop := some true, conflict := true, wrs := [(50, 0)] }, .biconflictack 2 1,
        some { line .e with snoop := some true, wrs := [(50, 0)] }, []),
      (line .is, .cmpS 2 1 (some 9) 0, some { line .s with data := 9 }, []),
      (line .im, .cmpE 2 1 (some 9) 0, some { line .e with data := 9 }, []),
      (line .sm, .cmpE 2 1 none 0, some (line .e), []), ({ line .mm with wrs := [(50, 0)] }, .cmp 2 1 0 false, some (line .mm), []),
      (line .ei, .cmp 2 1 0 false, none, [])]
        : List (RlcLine × Instr × Option RlcLine × List MsgBody)).all (fun x => after x.1 x.2.1 == some x.2.2) = true ∧
    ([LineSt.is, .im, .sm].all fun st =>
      after (line st) (.bisnpshr 2 1 0) == some (some { line st with snoop := some false, conflict := true }, [.conflict 1]) &&
      after { line st with snoop := some true, conflict := true } (.biconflictack 2 1) ==
        some (some (line (if st = .sm then .im else st)), [.rspI 1])) = true := by decide +kernel

/-! ### The fabric and the hub -/

theorem witness_Fabric :
    let s := { onFabric with
      fabric := { up := 1, axyen := 1, candidates := [(3, { prio := none, heard := 0 })], highest := some 1, helloAt := some 900001
                  routes := [(3, 0x110), (4, 0x303), (5, 0x012)] }
      clocks := { nsc := 2000001 } }
    (∀ t, s.fabric.helloAt = some t → t + 100000 ≤ s.clocks.nsc) ∧ { s with clocks := { nsc := 900001 } }.clocks.nsc < 900001 + 100000 ∧
    ((Assoc.get? s.fabric.candidates 3).map fun c => decide (c.heard + 1000000 < s.clocks.nsc)) = some true ∧
    (1 + 2000000 ≤ s.clocks.nsc ∧ s.fabric.ringmaster = false ∧ s.hmode.getLsbD 2 = false) ∧
    (s.fabric.up.getLsbD 0 = true ∧ s.fabric.axyen.getLsbD 0 = true ∧ s.fabric.up.getLsbD 15 = false) ∧
    ({ s with hmode := 4 }.hmode.getLsbD 2 = true ∧ { s with fabric := { s.fabric with ringmaster := true } }.fabric.ringmaster = true) ∧
    (s.route? 3 = some 0 ∧ s.route? 4 = some 0 ∧ s.route? 5 = none) ∧ s.master = 0 ∧
    ({ s with boot := { s.boot with peers := 2 } }.boot.peers.getLsbD 1 = true ∧ s.boot.peers.getLsbD 0 = false) ∧
    (let r := { s with fabric := { s.fabric with ringmaster := true, directory := [(3, { offered := [16] })] } }
     r.lenderFor 0 16 = some 3 ∧ r.lenderFor 3 16 = none ∧ r.boot.pkgId = 0) := by decide +kernel

theorem witness_Hub :
    (paClass (8 * 0) = .hbm ∧ hubWordAt 0 = none) ∧ (bits (1#64).toNat 0 2 = 1 ∧ bits (2#64).toNat 0 2 = 2 ∧ bits (3#64).toNat 0 2 = 3) ∧
    -- DCMD names path 0 of the group in slot 0 of core 0, and no path in slot 15
    (let s := simt 1 [] []
     s.dbgBusy = false ∧ { s with dbg := { s.dbg with dstat := 4 } }.dbgBusy = false ∧ s.dbg.tsize = 0 ∧ (s.group? 0 15).isNone = true ∧
     ((s.group? 0 0).map fun g => g.ctx == 0 && g.life == .resident && g.uip == 0 && (Assoc.get? g.paths 0).isSome) = some true ∧
     (let marked := s.setPath (.path 0 0 0) { path 1 with halt := true }
      { marked with dbg := { s.dbg with dstat := 4 } }.dbgBusy = true)) ∧
    -- TRDP up to TPTR; LSCFG within the local store, and right past it
    (((32#64) - 32#64).toInt ≤ 0 ∧ 0 < ((64#64) - 32#64).toInt ∧ (State.reset.core 4095).slots = [] ∧ 128 + 16 * 2 + 24 ≤ 192 ∧
      ¬(128 + 16 * 3 + 24 ≤ 192)) ∧
    (16383 < 16384 ∧ 16384 ≤ 16384 ∧ 16399 < 16400) ∧ (1#64).getLsbD 0 = true ∧ State.reset.fomar.ctl.getLsbD 0 = false ∧
    (let ck : Checkpoint := { pages := [], mem := [], groups := [], ops := [], cmds := [], launches := [], context := {}, logged := 0 }
     let s := { State.reset with fomar := { cks := [ck] } }
     (s.fomar.active = false ∧ (s.fmctlWrite 2).fomar.cks[0]? = some ck ∧ (s.fmctlWrite 2).fomarGroups = [])) ∧
    (let s := { State.reset with fomar := { ctl := 0x10001 }, clocks := { nsc := 1000000 } }
     (s.fomar.cut = none ∧ s.fomarPeriod ≠ 0 ∧ s.fomar.lastAt + s.fomarPeriod ≤ s.clocks.nsc ∧ s.fomarGroups = [])) := by decide +kernel

theorem witness_Bringup :
    (let s := { State.reset with clocks := { nsc := 10000000, throttle := [0, 0, 0, 1] } }
     (s.clocks.throttle.getD 3 0 ≠ 0 ∧ s.clocks.lastHot.getD 3 0 + 10000000 ≤ s.clocks.nsc)) ∧
    (State.reset.bringup.held = false ∧ State.reset.bringup.recovery = false ∧ State.reset.bringup.stage = 1 ∧ State.reset.onFabric = false) ∧
    -- stage 6 with every steward running, and with steward 31 waiting; the hottest die of four
    (let s := { State.reset with bringup := { stage := 6 } }
     (s.steward 31).start = true ∧ (let t := { s with stewards := (List.range 32).map fun k => (k, { Steward.reset k with start := false }) }
       ((List.range 32).all fun k => !(t.steward k).start) = true)) ∧
    ([700, 900, 900, 100] : List Nat).getD 0 0 < ([700, 900, 900, 100] : List Nat).getD 1 0 ∧ Assoc.sorted State.reset.virtio = true ∧
    ({ onFabric with boot := { onFabric.boot with vports := 0x8000 } }.presents 15 1 = true ∧ onFabric.onFabric = true) := by decide +kernel

/-! ### Results, the end of a clause, and faults -/

theorem witness_Results :
    goes (simt 2 [] []).issuing? (fun u => u.kind == .simt && decide (u.path.clause.idx + 1 < u.path.clause.words.length)) = true ∧
    -- EndOfClauseMakesWritesVisible: a write of two lanes is to come, and a store to a frame register is held back
    (let s := onPath { path 1 with pend := [{ reg := .v 1, vals := [(0, 7), (127, 8)], visAt := 4, seq := { seq := 1 } },
       { reg := .g 2, vals := [(0, 7)], visAt := 4, seq := { seq := 2 } }, { reg := .fmt, vals := [(0, 7)], visAt := 4, seq := { seq := 3 } }] } [(128, 9)] []
     let s := s.modGroup 0 0 fun g => { g with heldStores := [{ thread := 0, reg := 2, lo := 1, bytes := [5, 6] }] }
     goes s.issuing? fun u => u.kind == .simt && ((s.group? u.core u.slot).map fun g => Assoc.sorted g.v) == some true &&
       (u.path.pend.all fun w => decide (w.vals.map (·.1)).Nodup && w.vals.all fun x => decide (x.1 < 128)) &&
       ((s.group? u.core u.slot).map fun g => (g.heldStores.filter fun x => u.path.members.getLsbD x.thread).length) == some 1 &&
       u.path.seen.isEmpty && ((s.group? 0 0).map fun g => Assoc.sorted g.g && (Assoc.getD g.stamps 2 {}).before { seq := 2 }) == some true) = true ∧
    -- a helper and a steward, in a clause of two words and of one
    goes (helping 2).issuing? (fun u => u.kind == .helper && u.path.pend.isEmpty && decide (u.path.clause.idx + 1 < u.path.clause.words.length) &&
      (((helping 2).helper? 0 0).map fun h => Assoc.sorted h.v) == some true) = true ∧
    goes (steward 2 []).issuing? (fun u => u.kind == .steward && u.path.pend.isEmpty && decide (u.path.clause.idx + 1 < u.path.clause.words.length)) = true ∧
    Assoc.sorted ((steward 2 []).steward 0).v = true ∧ Assoc.sorted ((steward 2 []).steward 0).g = true := by decide +kernel

/-- A trap area at 0x100000000 whose fault record and ring words can be written. -/
def trapping : State :=
  { simt 1 [] [] with hubTlb := [{ page with page := 0x100000, leaf := 0x40000000039 }, { page with page := 0x100001, leaf := 0x40000001039 }] }

theorem witness_Faults :
    let f : FaultInfo := { cause := 0x04, faddr := 0x9000, pc := 0x1008 }
    let s := trapping
    goes s.issuing? (fun u => !u.path.lvl && u.path.recon.isEmpty && u.lanes != [] && !(f.settle u.path.rgc).restartable && f.chunk.isNone &&
      !s.inTrapArea u.ctx f.faddr.toNat && s.freeSlot u.ctx == some 0) = true ∧
    s.dbg.tsize = 0 ∧ ((s.group? 0 0).map (·.killed)) = some false ∧
    (s.writeRecord 0 0 (List.replicate 64 0)).isSome = true := by decide +kernel

/-- `stewardEnter` at both ends of the cause's range. -/
theorem witness_StewardEntry : (31 < 32 ∧ 2 ^ 32 - 1 < 2 ^ 32) ∧ ((State.reset.stewardEnter 31 0x1000 0x40 7).steward 31).scause = 0x40 := by
  decide +kernel

/-- A state with memory written and tables filled has the forms, and a step of it answers a next state. -/
theorem witness_Forms :
    State.reset.formed = true ∧ (simt 2 [(3, 7)] [(0, 0x2000)]).formed = true ∧
    nextIs (exec (.nop (f3 .s32)) (simt 2 [(3, 7)] [(0, 0x2000)])) (·.formed) = true := by decide +kernel

/-! ## Single steps against the spec's worked examples -/

/-- Register `reg` of a lane after an instruction that is alone in its clause. -/
def vAfter (i : Instr) (v : Assoc Word) (g : Assoc DWord) (reg lane : Nat) : Option Word :=
  match exec i (simt 1 v g) with
  | .next t => (t.group? 0 0).map fun h => Assoc.getD h.v (128 * reg + lane) 0
  | _ => none

/-- The cause with which an instruction of a steward at user level enters supervisor level. -/
def stewardCause (i : Instr) (g : Assoc DWord) : Option Word :=
  match exec i (user 1 g) with
  | .next t => some (t.steward 0).scause
  | _ => none

/-- v1 of lane 0 after an instruction on v2, v3 and v4 of lane 0. -/
def lane0 (i : Instr) (a : Word) (b c : Word := 0) : Option Word := vAfter i [(256, a), (384, b), (512, c)] [] 1 0

/-- The results of the integer chapter's table of examples. -/
theorem test_add_wraps_and_clamps :
    lane0 (.add (f3 .s32 (.v 1) (.v 2) (.v 3))) 0x7FFFFFF0 0x20 = some 0x80000010 ∧
    lane0 (.add { f3 .s32 (.v 1) (.v 2) (.v 3) with s := true }) 0x7FFFFFF0 0x20 = some 0x7FFFFFFF := by decide +kernel
theorem test_sub_wraps_and_clamps :
    lane0 (.sub (f3 .n32 (.v 1) (.v 2) (.v 3))) 2 5 = some 0xFFFFFFFD ∧
    lane0 (.sub { f3 .n32 (.v 1) (.v 2) (.v 3) with s := true }) 2 5 = some 0 := by decide +kernel
theorem test_mul_16 :
    lane0 (.mul (f3 .s16 (.v 1) (.v 2) (.v 3))) 300 200 = some 0xFFFFEA60 ∧
    lane0 (.mul { f3 .s16 (.v 1) (.v 2) (.v 3) with s := true }) 300 200 = some 0x7FFF := by decide +kernel
theorem test_mulhi : lane0 (.mulhi (f3 .n32 (.v 1) (.v 2) (.v 3))) 0x80000000 6 = some 3 := by decide +kernel
theorem test_dp4 : lane0 (.dp4 (f3 .s8 (.v 1) (.v 2) (.v 3) (.v 4))) 0x01FF807F 0x02020202 10 = some 8 := by decide +kernel
theorem test_cvt :
    lane0 (.cvt (f3 .n8 (.v 1) (.v 2) (x := 0))) 0xFFFFFFFF = some 0xFF ∧
    lane0 (.cvt { f3 .n8 (.v 1) (.v 2) (x := 0) with s := true }) 0xFFFFFFFF = some 0 := by decide +kernel
theorem test_bfx :
    lane0 (.bfx (f3 .s32 (.v 1) (.v 2) (.v 3))) 0xF0A0 0x0404 = some 0xFFFFFFFA ∧
    lane0 (.bfx (f3 .n32 (.v 1) (.v 2) (.v 3))) 0xF0A0 0x0404 = some 0xA := by decide +kernel
theorem test_shifts :
    lane0 (.shl (f3 .b32 (.v 1) (.v 2) (.v 3))) 1 40 = some 0 ∧ lane0 (.sar (f3 .s32 (.v 1) (.v 2) (.v 3))) 0x80000000 40 = some 0xFFFFFFFF ∧
    lane0 (.rot (f3 .b32 (.v 1) (.v 2) (.v 3))) 0x80000001 33 = some 3 := by decide +kernel
theorem test_popc : vAfter (.popc (f3 .b64 (.v 1) (.v 2))) [(256, 1), (384, 0xFFFFFFFF)] [] 1 0 = some 33 := by decide +kernel

/-- The conversions of the number-format chapter's table of examples, and its table of roundings to BF16. -/
theorem test_fcvt_to_bf16 :
    ([(RMode.rne, 0x3F80), (.rtz, 0x3F80), (.rup, 0x3F81), (.rdn, 0x3F80)].all fun p =>
      lane0 (.fcvt { f3 .bf16 (.v 1) (.v 2) (x := 0x0A) with rm := p.1 }) 0x3F808000 == some p.2) = true ∧
    lane0 (.fcvt { f3 .bf16 (.v 1) (.v 2) (x := 0x0A) with rm := .rdn }) 0xBF800001 = some 0xBF81 ∧
    lane0 (.fcvt { f3 .bf16 (.v 1) (.v 2) (x := 0x0A) with rm := .rne }) 0x3F818000 = some 0x3F82 := by decide +kernel
theorem test_fcvt_of_65504 :
    lane0 (.fcvt (f3 .f16 (.v 1) (.v 2) (x := 0x0A))) 0x477FE000 = some 0x7BFF ∧
    lane0 (.fcvt (f3 .bf16 (.v 1) (.v 2) (x := 0x0A))) 0x477FE000 = some 0x4780 := by decide +kernel

/-- v8 of the worked example of the block instructions, with every thread of a W32 group in exec. -/
def blockOf4 : State :=
  { simt 1 [] [] with cores := [(0, { core 1 [] [] with slots := [(0, { group 1
      [(128 * 8, 0x3F400000), (128 * 8 + 1, 0xC0000000), (128 * 8 + 2, 0x3FE00000), (128 * 8 + 3, 0x3E99999A)] [] with
    kernel := { w32 := true, gregs := 56 }, live := 0xFFFFFFFF, paths := [(0, { path 1 with exec := 0xFFFFFFFF })] })] })] }
def lanesAfter (i : Instr) (s : State) (reg : Nat) (lanes : List Nat) : List Word :=
  match exec i s with
  | .next t => ((t.group? 0 0).map fun h => lanes.map fun l => Assoc.getD h.v (128 * reg + l) 0).getD []
  | _ => []
theorem test_bfpk_block :
    lanesAfter (.bfpk { f3 .blk (.v 9) (.v 8) (x := 2) with rm := .rne }) blockOf4 9 [0, 1, 2, 3, 4] = [0x8102, 0x81FC, 0x8104, 0x8101, 0x8100] := by
  decide +kernel
theorem test_bfq_block :
    lanesAfter (.bfq { f3 .blk (.v 10) (.v 8) (x := 2) with rm := .rtz }) blockOf4 10 [0, 1, 2, 3]
      = [0x3F000000, 0xC0000000, 0x3FC00000, 0x00000000] := by decide +kernel
theorem test_bfpk_pk_block :
    lanesAfter (.bfpkPk { f3 .blk (.v 9) (.v 8) (x := 0x0A) with rm := .rne }) blockOf4 9 [0, 1, 31] = [0x14C2, 0, 0x81] := by decide +kernel

/-- The worked examples of the cross-lane chapter. -/
def eight (op : Nat → Word) (n : Nat) : State :=
  { simt 1 [] [] with cores := [(0, { core 1 [] [] with slots := [(0, { group 1 ((List.range n).map fun t => (128 + t, op t)) [(4, 0xB6), (5, 3)] with
    kernel := { w32 := true, gregs := 56 }, live := BitVec.ofNat 128 (2 ^ n - 1), paths := [(0, { path 1 with exec := BitVec.ofNat 128 (2 ^ n - 1) })] })] })] }
theorem test_shfl_down :
    lanesAfter (.shfl (f3 .b32 (.v 2) (.v 1) (.g 5) (x := 0x0E))) (eight (fun t => BitVec.ofNat 32 (10 * t)) 8) 2 [0, 1, 2, 3, 4, 5, 6, 7]
      = [30, 40, 50, 60, 70, 50, 60, 70] := by decide +kernel
theorem test_mpop :
    lanesAfter (.mpop (f3 .s32 (.v 3) (.g 4))) (eight (fun _ => 0) 8) 3 [0, 1, 2, 3, 4, 5, 6, 7] = [0, 0, 1, 2, 2, 3, 4, 4] := by decide +kernel
def big (t : Nat) : Word := if t = 0 then 0x4B800000 else 0x3F800000
theorem test_scan_add_f32 :
    lanesAfter (.scan (f3 .f32 (.v 2) (.v 1))) (eight big 4) 2 [0, 1, 2, 3] = [0x4B800000, 0x4B800000, 0x4B800000, 0x4B800000] := by decide +kernel
theorem test_rdx_add_f32 : lanesAfter (.rdx (f3 .f32 (.v 2) (.v 1))) (eight big 4) 2 [0, 3] = [0x4B800001, 0x4B800001] := by decide +kernel

/-- The byte transpose of the Carousel. -/
def transpose : State :=
  let s := eight (fun t => BitVec.ofNat 32 (0x10101010 * t + 0x03020100)) 4
  let entry := fun i => if i < 16 then BitVec.ofNat 16 (0x100 * (i / 4) + i % 4) else 0x4000
  { s with cores := s.cores.mapVals fun k => { k with patterns := [(3, { launch := 1, entries := (List.range 512).map entry })] } }
theorem test_xbar_transpose :
    lanesAfter (.xbar (f3 .b32 (.v 2) (.v 1) (x := 3))) transpose 2 [0, 1, 2, 3, 4] = [0x30201000, 0x31211101, 0x32221202, 0x33231303, 0] := by
  decide +kernel

/-- The three symbols of stream decode, at four and at six symbols. -/
def decoding : State :=
  let s := simt 1 [(128 * 10, 0x19)] []
  { s with cores := s.cores.mapVals fun k => { k with decoders := [(0, { launch := 1, entries := [0x1010, 0x2020, 0x1010, 0x2030] })] } }
theorem test_vdec :
    ([12, 13, 14, 15].map fun r => (lanesAfter (.vdec (f3 .s32 (.v 12) (.v 10) (.v 9) (x := 16))) decoding r [0]).headD 9)
      = [0x100020, 0x100030, 0, 0x604] ∧
    lanesAfter (.vdec (f3 .s32 (.v 12) (.v 10) (.v 9) (x := 24))) decoding 15 [0] = [0x806] := by decide +kernel

/-- What path 0 reads in a v register of a lane. -/
def readAfter (t : State) (reg lane : Nat) : Option Word := (t.issuer? (.path 0 0 0)).map fun u => t.readV u reg lane

/-- The atomic of four lanes on one word: the threads receive 10, 11, 13 and 16, and memory ends at 20. -/
def adding : State :=
  let a := fun t => ({ lane := t, va := 0x2000, len := 4, tgt := .phys 0x2000, x := t + 1 } : Access)
  { simt 2 [] [] with
    mem := storing [(0x2000, 4, 10)]
    ops := [(50, { loading with kind := .atom .add true, dst := some (.v 4), mask := 15, lanes := (List.range 4).map a, todo := (List.range 4).map a })] }
theorem test_atom_add :
    nextIs (exec (.atomicComplete 50) adding) (fun t => t.mem.load 0x2000 4 == 20 &&
      (List.range 4).map (readAfter t 4) == [some 10, some 11, some 13, some 16]) = true := by decide +kernel

/-- A store's bytes, in little-endian order, are in memory once it performs; a load brings them back. -/
theorem test_store_then_load :
    nextIs (exec (.storeComplete 50) { simt 2 [] [] with ops := [(50, opOf .store 0x11223344)] }) (fun t =>
      t.mem.read 0x2000 == 0x44 && t.mem.read 0x2FFF == 0x11 && t.mem.read 0x3000 == 0) = true ∧
    nextIs (exec (.loadComplete 50) { inFlight [(50, { opOf .load 0 with dst := some (.v 1) })] with mem := storing [(0x2000, 4, 0x55667788)] })
      (fun t => readAfter t 1 0 == some 0x55667788) = true := by decide +kernel

/-- The block by hand of the memory chapter, and its decoding. -/
theorem test_codec_block :
    let xs := List.replicate 7 0x3FF0000000000000 ++ [0x3FF8000000000000]
    encodeBlock 1 xs = [0xFF, 0x23, 0xC2, 0x3F, 0, 0, 0, 0] ∧
    decodeBlock 1 (encodeBlock 1 xs) = some (List.replicate 4 0x3FF0000000000000 ++ List.replicate 4 0x3FF2000000000000) ∧
    decodeBlock 2 (encodeBlock 2 xs) = some xs := by decide +kernel

/-- What each trap instruction of a steward at user level raises. -/
theorem test_steward_traps :
    stewardCause (.svc (f3 .s32 .none (.g 4))) [(4, 7)] = some 0x40 ∧ stewardCause (.trap (f3 .s32 (x := 7))) [] = some 0x10 ∧
    stewardCause (.brk (f3 .s32 (x := 7))) [] = some 0x11 := by decide +kernel
/-- The supervisor's own instructions at user level raise the illegal-instruction trap. -/
theorem test_steward_privilege :
    ([Instr.sret (f3 .s32 .none (.g 4)), .wfi (f3 .s32), .ctxmode (f3 .s32 .none (.g 4) (.g 5)), .lsrecall (f3 .s32 .none (.g 5))].all fun i =>
      stewardCause i [] == some 0x01) = true := by decide +kernel

/-- Branches: the clause 0x40 bytes after this clause's header, and 24 bytes before it. -/
theorem test_branch_targets :
    nextIs (exec (.bra (fb (offs := 8))) (simt 1 [] [])) (fun t => (t.path? (.path 0 0 0)).map (·.pc) == some 0x1040) = true ∧
    nextIs (exec (.brc (fb (.g 4) (.v 0) 0xFFFFFFFD)) (simt 1 [] [(4, 3)])) (fun t => (t.path? (.path 0 0 0)).map (·.pc) == some 0xFE8) = true := by
  decide +kernel
/-- A branch that splits the path: the lanes of the mask go to the target, and the other lane to the next clause. -/
theorem test_branch_splits :
    nextIs (exec (.brc (fb (.g 4) (.v 0) 8)) (simt 1 [] [(4, 1)])) (fun t =>
      ((t.group? 0 0).map fun h => h.paths.map fun p => (p.2.pc.toNat, p.2.exec.toNat)) == some [(0x1010, 2), (0x1040, 1)]
        || ((t.group? 0 0).map fun h => h.paths.map fun p => (p.2.pc.toNat, p.2.exec.toNat)) == some [(0x1040, 1), (0x1010, 2)]) = true := by
  decide +kernel
/-- `loop` of count 3 runs its body; of count 0 it leaves. -/
theorem test_loop :
    nextIs (exec (.loop (fb .none (.g 4) 6)) (simt 1 [] [(4, 3)])) (fun t => (t.path? (.path 0 0 0)).map (fun p => (p.pc, p.loops.length)) == some (0x1010, 1)) = true ∧
    nextIs (exec (.loop (fb .none (.g 4) 6)) (simt 1 [] [])) (fun t => (t.path? (.path 0 0 0)).map (fun p => (p.pc, p.loops.length)) == some (0x1030, 0)) = true := by
  decide +kernel

/-- Barrier arrivals of 128 at an object of 256: PEND halves, then the phase ends. -/
theorem test_barrier_arrivals :
    let b : Barrier := { pend := 256, init := 256, pmask := 3, kind := false, brk := false, phase := 0 }
    (b.arrive 128).pend = 128 ∧ ((b.arrive 128).arrive 128).phase = 1 ∧ ((b.arrive 128).arrive 128).pend = 256 := by decide +kernel

/-- Three contributions to a collective: 2^24, 1.0 and 1.0 in FP32 give 0x4B800001, in either order. -/
theorem test_collective_sum :
    let x := partOf (fp32.decode false 0x4B800000)
    let y := partOf (fp32.decode false 0x3F800000)
    resultBytes {} 0xA 0 (combineParts 0 (combineParts 0 x y) y) = toBytes 4 0x4B800001 ∧
    combineParts 0 (combineParts 0 y x) y = combineParts 0 (combineParts 0 y y) x := by decide +kernel

/-- A word placed for the next step is what the next step runs; the decoder reads a row's first word with no operand bits. -/
theorem test_withFetchWord :
    nextIs (step (State.reset.withFetchWord 64 0xC003FFFFFFFF0009)) (fun t => (t.steward 0).scause == 0x10) = true ∧
    decodeTableWord 64 0xA105FFFFFFFF0000 = some (.nop (f3 .s32)) := by decide +kernel

end Sys2Proof.Tests
end

namespace Sys2Proof.Machine

/-! ## Every instruction and event keeps the forms of memory and of the tables

`State.Forms` says table by table what `State.formed` checks. For each function of the model that answers a state there is one lemma,
`State.Forms.<name of the function>`: from a state that has the forms the function answers one that has them. The proof of such a lemma follows the
function's definition and cites the lemmas of the functions that it calls, so only the functions that write a table themselves say why its form is
kept. `State.Forms.exec` takes the instructions and events together. -/

/-! ### Tables whose values have a property -/

section
variable {α β : Type} {p : α → Prop} {m : Assoc α} {n : Nat}

/-- Every value of a table has a property. -/
def Assoc.AllVals (p : α → Prop) (m : Assoc α) : Prop := ∀ x ∈ m, p x.2

theorem Assoc.mem_of_get? {a : α} (h : Assoc.get? m n = some a) : (n, a) ∈ m := by
  induction m with
  | nil => cases h
  | cons q m ih =>
    obtain ⟨k, b⟩ := q
    simp only [Assoc.get?] at h
    split at h
    · simp_all
    · exact List.mem_cons_of_mem _ (ih h)

theorem Assoc.AllVals.get? {a : α} (h : Assoc.AllVals p m) (ha : Assoc.get? m n = some a) : p a :=
  h _ (Assoc.mem_of_get? ha)

theorem Assoc.allVals_set {a : α} (h : Assoc.AllVals p m) (ha : p a) : Assoc.AllVals p (Assoc.set m n a) := by
  intro x hx
  rcases Assoc.mem_set hx with rfl | hx
  · exact ha
  · exact h x hx

theorem Assoc.allVals_erase (h : Assoc.AllVals p m) : Assoc.AllVals p (Assoc.erase m n) :=
  fun x hx => h x (Assoc.mem_erase hx)

theorem Assoc.allVals_filter {q : Nat × α → Bool} (h : Assoc.AllVals p m) : Assoc.AllVals p (m.filter q) :=
  fun x hx => h x (List.mem_filter.mp hx).1

theorem Assoc.allVals_update {f : α → α} (h : Assoc.AllVals p m) (hf : ∀ a, p a → p (f a)) : Assoc.AllVals p (Assoc.update m n f) := by
  unfold Assoc.update
  split
  · exact Assoc.allVals_set h (hf _ (h.get? ‹_›))
  · exact h

theorem Assoc.allVals_mapVals {q : β → Prop} {f : α → β} (h : Assoc.AllVals p m) (hf : ∀ a, p a → q (f a)) :
    Assoc.AllVals q (Assoc.mapVals m f) := by
  intro x hx
  obtain ⟨y, hy, rfl⟩ := List.mem_map.mp hx
  exact hf _ (h y hy)

theorem Assoc.allVals_foldl_set {l : Assoc α} (hl : Assoc.AllVals p l) (hm : Assoc.AllVals p m) :
    Assoc.AllVals p (l.foldl (fun m v => Assoc.set m v.1 v.2) m) :=
  List.foldlRecOn l _ hm fun _ hb v hv => Assoc.allVals_set hb (hl v hv)

theorem Assoc.sorted_update (n : Nat) (f : α → α) (h : Assoc.sorted m) : Assoc.sorted (Assoc.update m n f) = true := by
  unfold Assoc.update
  split
  · exact Assoc.sorted_set _ _ h
  · exact h

end

/-! ### The forms of a state, part by part -/

/-- The v registers of a group are in the order of their keys. -/
structure Group.Forms (g : Group) : Prop where
  v : Assoc.sorted g.v

/-- The bytes of an allocation are in canonical form. -/
structure Alloc.Forms (a : Alloc) : Prop where
  bytes : a.bytes.wf

/-- The groups and allocations of a core have their forms. -/
structure Core.Forms (k : Core) : Prop where
  slots : Assoc.AllVals Group.Forms k.slots
  allocs : Assoc.AllVals Alloc.Forms k.allocs

/-- A saved group, and the allocation saved with it, have their forms. -/
structure SavedGroup.Forms (v : SavedGroup) : Prop where
  group : Assoc.sorted v.group.v
  alloc : ∀ a, v.alloc = some a → a.bytes.wf

/-- The forms that the model's tables keep, table by table. -/
structure State.Forms (s : State) : Prop where
  mem : s.mem.wf
  clusters : Assoc.sorted s.clusters
  slots : Assoc.sorted s.engine.slots
  dir : Assoc.sorted s.booth.dir
  lent : Assoc.sorted s.booth.lent
  borrowed : Assoc.sorted s.booth.borrowed
  cores : Assoc.AllVals Core.Forms s.cores
  saved : Assoc.AllVals SavedGroup.Forms s.engine.saved
  cks : ∀ c ∈ s.fomar.cks, Assoc.AllVals SavedGroup.Forms c.groups

@[simp] theorem Group.forms_iff (g : Group) : g.Forms ↔ Assoc.sorted g.v := ⟨Group.Forms.v, Group.Forms.mk⟩

@[simp] theorem Alloc.forms_iff (a : Alloc) : a.Forms ↔ a.bytes.wf := ⟨Alloc.Forms.bytes, Alloc.Forms.mk⟩

@[simp] theorem Core.forms_iff (k : Core) : k.Forms ↔ Assoc.AllVals Group.Forms k.slots ∧ Assoc.AllVals Alloc.Forms k.allocs :=
  ⟨fun ⟨hs, ha⟩ => ⟨hs, ha⟩, fun ⟨hs, ha⟩ => ⟨hs, ha⟩⟩

theorem SavedGroup.formed_iff (v : SavedGroup) : v.formed = true ↔ v.Forms := by
  simp only [SavedGroup.formed, Bool.and_eq_true, Option.all_eq_true]
  exact ⟨fun ⟨hg, ha⟩ => ⟨hg, ha⟩, fun ⟨hg, ha⟩ => ⟨hg, ha⟩⟩

/-- `State.formed` says exactly that every table has its form. -/
theorem State.formed_iff (s : State) : s.formed = true ↔ s.Forms := by
  have hk (k : Core) : k.Forms ↔ (∀ g ∈ k.slots, Assoc.sorted g.2.v) ∧ ∀ a ∈ k.allocs, a.2.bytes.wf := by
    simp [Assoc.AllVals]
  simp only [State.formed, Bool.and_eq_true, List.all_eq_true, SavedGroup.formed_iff, ← hk]
  constructor
  · rintro ⟨⟨⟨⟨⟨⟨⟨⟨hmem, hclusters⟩, hslots⟩, hdir⟩, hlent⟩, hborrowed⟩, hcores⟩, hsaved⟩, hcks⟩
    exact ⟨hmem, hclusters, hslots, hdir, hlent, hborrowed, hcores, hsaved, hcks⟩
  · rintro ⟨hmem, hclusters, hslots, hdir, hlent, hborrowed, hcores, hsaved, hcks⟩
    exact ⟨⟨⟨⟨⟨⟨⟨⟨hmem, hclusters⟩, hslots⟩, hdir⟩, hlent⟩, hborrowed⟩, hcores⟩, hsaved⟩, hcks⟩

theorem State.Forms.reset : State.reset.Forms := (State.formed_iff _).mp rfl

/-- The tables that `State.Forms` speaks of. -/
def State.tables (s : State) :=
  (s.mem, s.clusters, s.engine.slots, s.booth.dir, s.booth.lent, s.booth.borrowed, s.cores, s.engine.saved, s.fomar.cks)

/-- A step that leaves the tables alone keeps the forms. -/
theorem State.Forms.frame {s t : State} (h : s.Forms) (e : t.tables = s.tables) : t.Forms := by
  simp only [State.tables, Prod.mk.injEq] at e
  obtain ⟨hmem, hclusters, hslots, hdir, hlent, hborrowed, hcores, hsaved, hcks⟩ := e
  constructor
  · exact hmem ▸ h.mem
  · exact hclusters ▸ h.clusters
  · exact hslots ▸ h.slots
  · exact hdir ▸ h.dir
  · exact hlent ▸ h.lent
  · exact hborrowed ▸ h.borrowed
  · exact hcores ▸ h.cores
  · exact hsaved ▸ h.saved
  · exact hcks ▸ h.cks

/-! ### What a function of the model can answer -/

/-- A fold of steps that keep the forms keeps them. -/
theorem State.Forms.foldl {β : Type} {s : State} {l : List β} {f : State → β → State} (h : s.Forms) (hf : ∀ s b, s.Forms → (f s b).Forms) :
    (l.foldl f s).Forms :=
  List.foldlRecOn l f h fun s hs b _ => hf s b hs

theorem State.Forms.ite {c : Prop} [Decidable c] {s t : State} (hs : s.Forms) (ht : t.Forms) : (if c then s else t).Forms := by
  split
  · exact hs
  · exact ht

/-- The state that a pair begins with. -/
theorem State.Forms.fst {α : Type} {x : State × α} {t : State} {a : α} (h : x.1.Forms) (e : x = (t, a)) : t.Forms := by
  rw [e] at h
  exact h

/-- The state that a pair ends with. -/
theorem State.Forms.snd {α : Type} {x : α × State} {a : α} {t : State} (h : x.2.Forms) (e : x = (a, t)) : t.Forms := by
  rw [e] at h
  exact h

section
variable {α β : Type} {p : α → Prop} {q : β → Prop}

/-- The value of an option, if there is one, has a property. -/
def AllSome (p : α → Prop) (o : Option α) : Prop := ∀ a, o = some a → p a

theorem AllSome.none : AllSome p none := nofun

theorem AllSome.some {a : α} (h : p a) : AllSome p (some a) := fun _ e => Option.some.inj e ▸ h

theorem AllSome.bind {o : Option α} {f : α → Option β} (hf : ∀ a, o = Option.some a → AllSome q (f a)) : AllSome q (o.bind f) := by
  cases o with
  | none => exact .none
  | some a => exact hf a rfl

theorem AllSome.map {o : Option α} {f : α → β} (ho : AllSome p o) (hf : ∀ a, p a → q (f a)) : AllSome q (o.map f) := by
  cases o with
  | none => exact .none
  | some a => exact .some (hf a (ho a rfl))

theorem AllSome.findSome? {l : List α} {f : α → Option β} (hf : ∀ a, AllSome q (f a)) : AllSome q (l.findSome? f) := by
  intro b e
  obtain ⟨a, -, ha⟩ := List.exists_of_findSome?_eq_some e
  exact hf a b ha

theorem State.Forms.getD {o : Option State} {s : State} (h : s.Forms) (ho : AllSome State.Forms o) : (o.getD s).Forms := by
  cases o with
  | none => exact h
  | some t => exact ho t rfl

/-- The states that reaching some bytes can come to have the forms. -/
def Reach.Forms (p : α → Prop) : Reach α → Prop
  | .done a => p a
  | .wait s => s.Forms
  | .fault _ => True

theorem Reach.Forms.of_done {r : Reach α} {a : α} (h : Reach.Forms p r) (e : r = .done a) : p a := by
  rw [e] at h
  exact h

theorem Reach.Forms.of_wait {r : Reach α} {s : State} (h : Reach.Forms p r) (e : r = .wait s) : s.Forms := by
  rw [e] at h
  exact h

end

/-- A step that answers a next state answers one that has the forms. -/
def Keeps (o : Host.Outcome State Fault Refusal) : Prop := ∀ t, o = .next t → t.Forms

theorem Keeps.next {t : State} (h : t.Forms) : Keeps (.next t) := fun _ e => by cases e; exact h

theorem Keeps.fault {f : Fault} : Keeps (.fault f) := fun _ e => by cases e

theorem Keeps.ite {c : Prop} [Decidable c] {x y : Host.Outcome State Fault Refusal} (hx : Keeps x) (hy : Keeps y) :
    Keeps (if c then x else y) := by
  split
  · exact hx
  · exact hy

/-! ### Reading and writing the parts of a state -/

section
variable {s : State} {c sl : Nat}

theorem State.Forms.core (h : s.Forms) : (s.core c).Forms := by
  unfold State.core Assoc.getD
  cases hk : Assoc.get? s.cores c with
  | none => exact ⟨nofun, nofun⟩
  | some k => exact h.cores.get? hk

theorem State.Forms.group {g : Group} (h : s.Forms) (e : s.group? c sl = some g) : g.Forms := h.core.slots.get? e

theorem State.Forms.withCores {cs : Assoc Core} (h : s.Forms) (hc : Assoc.AllVals Core.Forms cs) : State.Forms { s with cores := cs } :=
  { h with cores := hc }

theorem State.Forms.mapCores {f : Core → Core} (h : s.Forms) (hf : ∀ k, k.Forms → (f k).Forms) :
    Assoc.AllVals Core.Forms (s.cores.mapVals f) :=
  Assoc.allVals_mapVals h.cores hf

theorem State.Forms.mapSaved {f : SavedGroup → SavedGroup} (h : s.Forms) (hf : ∀ v, v.Forms → (f v).Forms) :
    Assoc.AllVals SavedGroup.Forms (s.engine.saved.mapVals f) :=
  Assoc.allVals_mapVals h.saved hf

theorem State.Forms.setCore {k : Core} (h : s.Forms) (hk : k.Forms) : (s.setCore c k).Forms := h.withCores (Assoc.allVals_set h.cores hk)

theorem State.Forms.modCore {f : Core → Core} (h : s.Forms) (hf : ∀ k, k.Forms → (f k).Forms) : (s.modCore c f).Forms :=
  h.setCore (hf _ h.core)

theorem State.Forms.setGroup {g : Group} (h : s.Forms) (hg : g.Forms) : (s.setGroup c sl g).Forms :=
  h.modCore fun _ hk => ⟨Assoc.allVals_set hk.slots hg, hk.allocs⟩

theorem State.Forms.modGroup {f : Group → Group} (h : s.Forms) (hf : ∀ g, g.Forms → (f g).Forms) : (s.modGroup c sl f).Forms := by
  unfold State.modGroup
  split
  · exact h.setGroup (hf _ (h.group ‹_›))
  · exact h

theorem State.Forms.modSteward {k : Nat} {f : Steward → Steward} (h : s.Forms) : (s.modSteward k f).Forms := h.frame rfl

theorem State.Forms.modHelper {n : Nat} {f : Helper → Helper} (h : s.Forms) : (s.modHelper c n f).Forms := by
  unfold State.modHelper
  split
  · exact h.modCore fun _ hk => ⟨hk.slots, hk.allocs⟩
  · exact h

theorem State.Forms.setPath {a : Agent} {p : Path} (h : s.Forms) : (s.setPath a p).Forms := by
  unfold State.setPath
  split
  · exact h.modGroup fun _ hg => ⟨hg.v⟩
  · exact h.modHelper
  · exact h.modSteward

end

section
variable {g : Group} {a : Alloc}

theorem Group.Forms.putG {r : Nat} {x : DWord} {seq : Stamp} (h : g.Forms) : (g.putG r x seq).Forms := by
  unfold Group.putG
  split
  · exact ⟨h.v⟩
  · exact h

theorem Group.Forms.deliverG {idx r : Nat} {x : DWord} {seq : Stamp} (h : g.Forms) : (g.deliverG idx r x seq).Forms := by
  unfold Group.deliverG
  split
  · split
    · exact ⟨h.v⟩
    · exact h.putG
  · exact h.putG

theorem Group.Forms.deliverV {r : Nat} {seq : Stamp} {vals : List (Nat × Word)} (h : g.Forms) : (g.deliverV r seq vals).Forms :=
  ⟨List.foldlRecOn _ _ (motive := fun m : Assoc Word => Assoc.sorted m) h.v fun _ hm _ _ => Assoc.sorted_put _ _ _ hm⟩

theorem Alloc.Forms.setBarrier {i : Nat} {b : Barrier} (h : a.Forms) : (a.setBarrier i b).Forms :=
  ⟨Memory.wf_writeN _ _ h.bytes⟩

theorem Alloc.Forms.newAlloc {l : LaunchRec} {k : Kernel} {unit first : Nat} : (newAlloc l k unit first).Forms :=
  ⟨List.foldlRecOn _ _ (motive := fun m : Memory => m.wf) rfl fun _ hm _ _ => Memory.wf_writeN _ _ hm⟩

end

/-! ### Groups, paths and the other agents -/

section
variable {s : State}

theorem State.Forms.modContext {n : Nat} {f : Context → Context} (h : s.Forms) : (s.modContext n f).Forms := h.frame rfl

theorem State.Forms.modAlloc {c a : Nat} {f : Alloc → Alloc} (h : s.Forms) (hf : ∀ a, a.Forms → (f a).Forms) :
    (s.modAlloc c a f).Forms :=
  h.modCore fun _ hk => ⟨hk.slots, Assoc.allVals_update hk.allocs hf⟩

theorem State.Forms.modPath {a : Agent} {f : Path → Path} (h : s.Forms) : (s.modPath a f).Forms := by
  unfold State.modPath
  split
  · exact h.setPath
  · exact h

theorem State.Forms.mapPaths {f : Path → Path} (h : s.Forms) : (s.mapPaths f).Forms := by
  unfold State.mapPaths
  refine { h with cores := ?_ }
  dsimp only
  refine h.mapCores fun k hk => ⟨?_, hk.allocs⟩
  dsimp only
  exact Assoc.allVals_mapVals hk.slots fun _ hg => ⟨hg.v⟩

theorem State.Forms.landAt {e line : Nat} {data : Option Line} (h : s.Forms) : (s.landAt e line data).Forms := h.mapPaths

theorem State.Forms.putV {a : Agent} {r lane : Nat} {w : Word} (h : s.Forms) : (s.putV a r lane w).Forms := by
  unfold State.putV
  split
  · exact h.modGroup fun _ hg => ⟨Assoc.sorted_put _ _ _ hg.v⟩
  · exact .ite h.modHelper h
  · exact h.modSteward

theorem State.Forms.putG {a : Agent} {r : Nat} {v : DWord} {seq : Stamp} (h : s.Forms) : (s.putG a r v seq).Forms := by
  unfold State.putG
  split
  · exact h
  · split
    · exact h.modGroup fun _ hg => hg.putG
    · exact h
    · exact h.modSteward

theorem State.Forms.modRings {a : Agent} {f : Rings → Rings} (h : s.Forms) : (s.modRings a f).Forms := by
  unfold State.modRings
  split
  · exact h.modGroup fun _ hg => ⟨hg.v⟩
  · exact h.modHelper
  · exact h.modSteward

theorem State.Forms.bumpSeq {a : Agent} (h : s.Forms) : (s.bumpSeq a).Forms := by
  unfold State.bumpSeq
  split
  · exact h.modGroup fun _ hg => ⟨hg.v⟩
  · exact h.modHelper
  · exact h.modSteward

theorem State.Forms.modGroupNamed {uid : Nat} {f : Group → Group} (h : s.Forms) (hf : ∀ g, g.Forms → (f g).Forms) :
    (s.modGroupNamed uid f).Forms := by
  unfold State.modGroupNamed
  split
  · exact h.modGroup hf
  · exact { h with saved := Assoc.allVals_update h.saved fun _ hv => ⟨(hf _ ⟨hv.group⟩).v, hv.alloc⟩ }
  · exact h

theorem State.Forms.modFrame {uid : Nat} {f : Helper → Helper} (h : s.Forms) : (s.modFrame uid f).Forms :=
  { h with saved := Assoc.allVals_update h.saved fun _ hv => ⟨hv.group, hv.alloc⟩ }

theorem State.Forms.modRingsNamed {uid : Nat} {f : Rings → Rings} (h : s.Forms) : (s.modRingsNamed uid f).Forms := by
  unfold State.modRingsNamed
  split
  · exact h.modHelper
  · exact h.modFrame
  · exact h.modSteward
  · exact h.modGroupNamed fun _ hg => ⟨hg.v⟩

theorem State.Forms.recheckWaits {a : Agent} (h : s.Forms) : (s.recheckWaits a).Forms := by
  unfold State.recheckWaits
  split
  · exact h.modGroup fun _ hg => ⟨hg.v⟩
  · exact h

theorem State.Forms.enterRing {a : Agent} {c : Ctr} {id : Nat} (h : s.Forms) : (s.enterRing a c id).Forms := h.modRings.recheckWaits
theorem State.Forms.freshId (h : s.Forms) : s.freshId.2.Forms := h.frame rfl

end

/-! ### Operands: reads and pending writes -/

section
variable {s : State}

theorem State.Forms.pushWrites {u : Issuer} {ws : List (Reg × List (Nat × DWord))} {lat : Nat} (h : s.Forms) : (s.pushWrites u ws lat).Forms :=
  h.modPath.bumpSeq

theorem State.Forms.applySys {a : Agent} {code : Nat} {v' : DWord} (h : s.Forms) : (s.applySys a code v').Forms := by
  unfold State.applySys
  split
  · exact .ite (.recheckWaits (h.modGroup fun _ hg => ⟨hg.v⟩)) (.ite h.modPath h)
  · exact h
  · exact .ite h.modSteward h.modSteward

theorem State.Forms.commitWrite {a : Agent} {w : PendWrite} (h : s.Forms) : (s.commitWrite a w).Forms := by
  unfold State.commitWrite
  split
  · exact h.foldl fun _ _ ht => ht.putV
  · exact h.foldl fun _ _ ht => ht.putG
  · split
    · exact h
    · exact h.modPath
  · split
    · exact h
    · exact h.applySys

theorem State.Forms.commit {a : Agent} (h : s.Forms) : (s.commit a).Forms := by
  unfold State.commit
  split
  · exact h
  · exact (h.foldl fun _ _ ht => ht.commitWrite).modPath

theorem State.Forms.reach {a : Agent} (h : s.Forms) : (s.reach a).Forms := by
  unfold State.reach
  split
  · exact (h.foldl fun _ _ ht => ht.commitWrite).modPath
  · exact h

end

/-! ### Borrowed and lent lines -/

section
variable {s : State}

theorem State.Forms.modBorrowed {e : Nat} {f : Borrowed → Borrowed} (h : s.Forms) : (s.modBorrowed e f).Forms :=
  { h with borrowed := Assoc.sorted_put _ _ _ h.borrowed }

theorem State.Forms.modLent {e : Nat} {f : Lent → Lent} (h : s.Forms) : (s.modLent e f).Forms :=
  { h with lent := Assoc.sorted_update _ _ h.lent }

theorem State.Forms.receive {act : State → Host.Outcome State Fault Refusal} (h : s.Forms) (hact : ∀ t, t.Forms → Keeps (act t)) :
    Keeps (s.receive act) := by
  unfold State.receive
  split
  · exact hact _ h
  · exact .next h

theorem State.Forms.send {dst : Nat} {body : MsgBody} (h : s.Forms) : (s.send dst body).Forms := .ite (h.frame rfl) h
theorem State.Forms.sendPort {port : Nat} {body : MsgBody} (h : s.Forms) : (s.sendPort port body).Forms := .ite (h.frame rfl) h

theorem State.Forms.ack {id : Nat} {err : Option (Byte × DWord)} (h : s.Forms) : (s.ack id err).Forms := by
  unfold State.ack
  split <;> exact h.frame rfl

theorem State.Forms.expect {id : Nat} (h : s.Forms) : (s.expect id).Forms := .ite (h.frame rfl) (h.frame rfl)
theorem State.Forms.dropLine {e line : Nat} (h : s.Forms) : (s.dropLine e line).Forms := h.frame rfl
theorem State.Forms.setLine {l : RlcLine} (h : s.Forms) : (s.setLine l).Forms := (h.dropLine (e := l.entry) (line := l.line)).frame rfl

theorem State.Forms.dropLentCopies {e : Nat} (h : s.Forms) : (s.dropLentCopies e).Forms := by
  unfold State.dropLentCopies
  refine { h with cores := ?_ }
  dsimp only
  exact h.mapCores fun _ hk => ⟨hk.slots, hk.allocs⟩

theorem State.Forms.lenderLost {e : Nat} (h : s.Forms) : (s.lenderLost e).Forms := by
  unfold State.lenderLost
  extract_lets gone lose _ s1 s2 _ s3
  have h1 : s1.Forms := .frame (h.mapPaths (f := lose)) rfl
  have h2 : s2.Forms := h1.modBorrowed
  have h3 : s3.Forms := h2.frame rfl
  exact (h3.foldl fun _ _ ht => ht.foldl fun _ _ ht => ht.ack).dropLentCopies

theorem State.Forms.ask {e : Nat} {body : MsgBody} {l : RlcLine} (h : s.Forms) : (s.ask e body l).Forms :=
  .ite h.lenderLost h.setLine.send

theorem State.Forms.lentWrite? {id e off : Nat} {bs : List Byte} (h : s.Forms) : AllSome State.Forms (s.lentWrite? id e off bs) := by
  unfold State.lentWrite?
  split
  · exact .none
  · split
    · exact .some h.ask
    · exact .none

theorem State.Forms.evictLine {l : RlcLine} (h : s.Forms) : (s.evictLine l).Forms := by
  unfold State.evictLine
  extract_lets asks
  have hasks : asks.Forms := h.ask
  split
  · exact h.dropLine
  · exact hasks
  · exact .ite hasks h.setLine
  · exact h

theorem State.Forms.evict {e line : Nat} (h : s.Forms) : (s.evict e line).Forms := by
  unfold State.evict
  split
  · exact h
  · exact h.evictLine

theorem State.Forms.makeRoom (h : s.Forms) : s.makeRoom.Forms := by
  unfold State.makeRoom
  split
  · exact h.evictLine
  · exact h

theorem State.Forms.wantRead {e line : Nat} (h : s.Forms) : (s.wantRead e line).Forms := by
  unfold State.wantRead
  split
  · exact h
  · exact .ite h.makeRoom h.ask

theorem State.Forms.wantWrite {e line : Nat} (h : s.Forms) : (s.wantWrite e line).Forms := by
  unfold State.wantWrite
  split
  · exact .ite h.makeRoom h.ask
  · exact .ite h.ask h

theorem State.Forms.setDir {line : Nat} {d : DirLine} (h : s.Forms) : (s.setDir line d).Forms :=
  { h with dir := Assoc.sorted_put _ _ _ h.dir }

theorem State.Forms.fetchMiss {m : Miss} (h : s.Forms) : (s.fetchMiss m).Forms := by
  unfold State.fetchMiss
  split
  · exact h.wantRead
  · exact h

end

/-! ### Translation -/

section
variable {s : State}

theorem State.Forms.modTlb {core : Nat} {f : List TlbEntry → List TlbEntry} (h : s.Forms) : (s.modTlb core f).Forms :=
  .ite (h.modCore fun _ hk => ⟨hk.slots, hk.allocs⟩) (h.frame rfl)

theorem State.Forms.cacheXlate {core ctx : Nat} {root : DWord} {va : Nat} {x : Xlate} (h : s.Forms) : (s.cacheXlate core ctx root va x).Forms :=
  .ite h (h.modTlb.frame rfl)

theorem State.Forms.cacheRange {core ctx : Nat} {root : DWord} {va len : Nat} {need : Need} (h : s.Forms) :
    (s.cacheRange core ctx root va len need).Forms := by
  unfold State.cacheRange
  refine h.foldl fun _ _ ht => ?_
  split
  · exact ht
  · exact ht.cacheXlate

end

/-! ### The home of a line -/

section
variable {s : State}

theorem State.Forms.pokeByte {pa : Nat} {b : Byte} (h : s.Forms) : (s.pokeByte pa b).Forms :=
  { h with mem := Memory.wf_write _ _ h.mem }

theorem State.Forms.pokeBytes {pa : Nat} {bs : List Byte} (h : s.Forms) : (s.pokeBytes pa bs).Forms := by
  induction bs generalizing s pa with
  | nil => exact h
  | cons b bs ih => exact ih h.pokeByte

theorem State.Forms.dropTracked {line : Nat} {by' : Option Nat} (h : s.Forms) : (s.dropTracked line by').Forms := by
  have hc : Assoc.AllVals Core.Forms (s.dropTracked line by').cores := by
    intro x hx
    obtain ⟨p, hp, rfl⟩ := List.mem_map.mp hx
    have hk := h.cores p hp
    split
    · exact hk
    · exact ⟨hk.slots, hk.allocs⟩
  exact { h with cores := hc }

theorem State.Forms.dropStewardLine {tag : LineTag} (h : s.Forms) : (s.dropStewardLine tag).Forms := h.frame rfl

theorem State.Forms.trackStewards {line : Nat} {by' : Option Nat} (h : s.Forms) : (s.trackStewards line by').Forms :=
  .ite h.dropStewardLine (h.frame rfl)

theorem State.Forms.markDirty {ctx pa : Nat} (h : s.Forms) : (s.markDirty ctx pa).Forms := .ite (h.frame rfl) h

theorem State.Forms.homeWrite {by' : Option Nat} {pa : Nat} {bs : List Byte} (h : s.Forms) : (s.homeWrite by' pa bs).Forms :=
  h.pokeBytes.foldl fun _ _ ht => ht.dropTracked.trackStewards

theorem State.Forms.hubStore {ctx : Nat} {as : List Access} (h : s.Forms) : (s.hubStore ctx as).Forms := by
  unfold State.hubStore
  split
  · refine h.foldl fun _ _ ht => ?_
    split
    · exact ht.homeWrite.markDirty
    · exact ht
  · exact h.frame rfl

theorem State.Forms.hwStore {ctx va : Nat} {bs : List Byte} (h : s.Forms) : AllSome State.Forms (s.hwStore ctx va bs) := by
  unfold State.hwStore
  split
  · exact .none
  · exact .some h.hubStore

theorem State.Forms.dropPlaces {as : List Access} (h : s.Forms) :
    (s.dropPlaces as).Forms :=
  h.withCores (h.mapCores fun _ hk => ⟨hk.slots, hk.allocs⟩)

theorem State.Forms.trace {type c sl idx : Nat} {pc : PC} {exec : Mask} (h : s.Forms) : (s.trace type c sl idx pc exec).Forms :=
  .ite h (.ite (h.frame rfl) (.frame (h.getD h.hwStore) rfl))

theorem State.Forms.traced {id : Nat} (h : s.Forms) : (s.traced id).Forms := by
  unfold State.traced
  split
  · exact h.frame rfl
  · exact h

end

/-! ### The life of groups and launches -/

section
variable {s : State}

theorem State.Forms.releaseHelpers {c : Nat} {pick : Helper → Bool} (h : s.Forms) :
    (s.releaseHelpers c pick).Forms :=
  h.modCore fun _ hk => ⟨hk.slots, hk.allocs⟩

theorem State.Forms.groupWoke {c sl : Nat} {before : Option Group} (h : s.Forms) : (s.groupWoke c sl before).Forms :=
  .ite h.releaseHelpers h

theorem State.Forms.grantUnits {c sl n : Nat} (h : s.Forms) :
    (s.grantUnits c sl n).Forms :=
  .modGroup (h.modCore fun _ hk => ⟨hk.slots, hk.allocs⟩) fun _ hg => ⟨hg.v⟩

theorem State.Forms.grantOldest {core : Nat} (h : s.Forms) : AllSome State.Forms (s.grantOldest core) := by
  unfold State.grantOldest
  split
  · exact .none
  · split
    · exact .some (.groupWoke (.modPath (.grantUnits (h.modCore fun _ hk => ⟨hk.slots, hk.allocs⟩))))
    · exact .none

theorem State.Forms.grantClaims {core n : Nat} (h : s.Forms) : (s.grantClaims core n).Forms := by
  induction n generalizing s with
  | zero => exact h
  | succ n ih =>
    unfold State.grantClaims
    split
    · exact ih (h.grantOldest _ ‹_›)
    · exact h

theorem State.Forms.wakeBarrier {c al i : Nat} {b : Barrier} {forced : Bool} (h : s.Forms) : (s.wakeBarrier c al i b forced).Forms :=
  h.foldl fun _ _ ht => .ite (.groupWoke (ht.modGroup fun _ hg => ⟨hg.v⟩)) ht

theorem State.Forms.setBarrier {c al i : Nat} {b : Barrier} (h : s.Forms) :
    (s.setBarrier c al i b).Forms := (h.modAlloc fun _ ha => ha.setBarrier).wakeBarrier

theorem State.Forms.breakBarriers {c sl : Nat} {g : Group} (h : s.Forms) : (s.breakBarriers c sl g).Forms := by
  unfold State.breakBarriers
  split
  · exact h
  · exact h.foldl fun _ _ ht => .ite ht.setBarrier ht

theorem State.Forms.countErrors {launch : Nat} {fs : List FaultInfo} (h : s.Forms) : (s.countErrors launch fs).Forms := by
  unfold State.countErrors
  split
  · exact h
  · exact h.frame rfl

theorem State.Forms.enterDraining {c sl : Nat} (h : s.Forms) : (s.enterDraining c sl).Forms := by
  unfold State.enterDraining
  split
  · exact h
  · extract_lets s1 s2 s3 s4
    have h3 : s3.Forms := h.releaseHelpers.breakBarriers.modCore fun _ hk => ⟨hk.slots, hk.allocs⟩
    exact h3.countErrors.modGroup fun _ hg => ⟨hg.v⟩

theorem State.Forms.checkDraining {c sl : Nat} (h : s.Forms) : (s.checkDraining c sl).Forms := by
  unfold State.checkDraining
  split
  · exact .ite h.enterDraining h
  · exact h

theorem State.Forms.refreshBusy {ctx : Nat} (h : s.Forms) : (s.refreshBusy ctx).Forms :=
  .ite h (h.modContext.getD h.modContext.hwStore)

theorem State.Forms.killGroup {c sl : Nat} (h : s.Forms) : (s.killGroup c sl).Forms := by
  unfold State.killGroup
  split
  · exact h
  · extract_lets s1 s2 lost s3 s4
    have h1 : s1.Forms := h.releaseHelpers
    have h2 : s2.Forms := h1.modCore fun _ hk => ⟨hk.slots, hk.allocs⟩
    have h3 : s3.Forms := h2.modCore fun _ hk => ⟨hk.slots, hk.allocs⟩
    have h4 : s4.Forms := h3.modGroup fun _ hg => ⟨hg.v⟩
    exact .ite (h.modGroup fun _ hg => ⟨hg.v⟩) h4.refreshBusy.checkDraining

theorem State.Forms.endLaunch {launch : Nat} {ecause en : Byte} {egid : Nat} {epc : PC} {slot : Option Nat} (h : s.Forms) :
    (s.endLaunch launch ecause en egid epc slot).Forms := by
  unfold State.endLaunch
  split
  · exact h
  · split
    · exact h.frame rfl
    · extract_lets base s1 s2 saved gone waiting placedOnly _ s3
      have h1 : s1.Forms := h.getD h.hwStore
      have h2 : s2.Forms := h1.getD h1.hwStore
      have h3 : s3.Forms := { h2 with saved := Assoc.allVals_filter h2.saved }
      exact (h3.foldl fun _ _ ht => ht.killGroup).refreshBusy

theorem State.Forms.endLaunches {ctx : Nat} {ecause : Byte} (h : s.Forms) : (s.endLaunches ctx ecause).Forms :=
  h.foldl fun _ _ ht => ht.endLaunch

end

/-! ### Operations in flight, faults and the issue of an instruction -/

section
variable {s : State}

theorem State.Forms.yieldSlot {c sl : Nat} (h : s.Forms) : (s.yieldSlot c sl).Forms :=
  h.modCore fun _ hk => ⟨Assoc.allVals_update hk.slots fun _ hg => ⟨hg.v⟩, hk.allocs⟩

theorem State.Forms.yieldGroup {a : Agent} (h : s.Forms) : (s.yieldGroup a).Forms := by
  unfold State.yieldGroup
  split
  · exact h.yieldSlot
  · split
    · exact h.yieldSlot
    · exact h
  · exact h

theorem State.Forms.applyHeld {c sl : Nat} {members : Mask} (h : s.Forms) : (s.applyHeld c sl members).Forms := by
  unfold State.applyHeld
  split
  · exact h
  · next g hg =>
    extract_lets mine v
    refine h.setGroup ⟨?_⟩
    exact List.foldlRecOn _ _ (motive := fun m : Assoc Word => Assoc.sorted m) (h.group hg).v fun _ hm _ _ => Assoc.sorted_put _ _ _ hm

theorem State.Forms.leaveClause {a : Agent} (h : s.Forms) : (s.leaveClause a).Forms := by
  unfold State.leaveClause
  split
  · exact h.commit.applyHeld
  · exact h.commit

theorem State.Forms.endClause {u : Issuer} {next : PC} (h : s.Forms) : (s.endClause u next).Forms :=
  .ite h.leaveClause.modPath.yieldGroup h.leaveClause.modPath

theorem State.Forms.retire {u : Issuer} {sc : Fin 16} (h : s.Forms) : (s.retire u sc).Forms := .ite h.modPath.reach h.endClause

theorem State.Forms.stallAt {a : Agent} {why : Stall} (h : s.Forms) : (s.stallAt a why).Forms :=
  .ite h.modPath.leaveClause h.modPath

theorem State.Forms.writeTrapWords {ctx : Nat} (h : s.Forms) : AllSome State.Forms (s.writeTrapWords ctx) := h.hwStore

theorem State.Forms.writeRecord {ctx slot : Nat} {rec' : List Byte} (h : s.Forms) : AllSome State.Forms (s.writeRecord ctx slot rec') := by
  unfold State.writeRecord
  extract_lets va
  split
  · exact (h.hwStore _ ‹_›).dropPlaces.modContext.writeTrapWords
  · exact .none

theorem State.Forms.endContext {ctx : Nat} {nested : Bool} {f : FaultInfo} {r : RecordOf} (h : s.Forms) : (s.endContext ctx nested f r).Forms := by
  unfold State.endContext
  split
  · exact h
  · extract_lets slot fatal flags s1 s2
    have h1 : s1.Forms := h.modContext
    have h2 : s2.Forms := by
      unfold s2
      split
      · exact h1
      · exact (h1.hwStore _ ‹_›).modContext.getD (h1.hwStore _ ‹_›).modContext.writeTrapWords
    exact h2.endLaunches

theorem State.Forms.tellHost {bytes : List Byte} (h : s.Forms) : (s.tellHost bytes).Forms := h.frame rfl

theorem State.Forms.postEvent {cls ctx : Nat} {body : List Byte} {host : Bool} (h : s.Forms) : (s.postEvent cls ctx body host).Forms :=
  .ite (.tellHost (h.frame rfl)) (h.frame rfl)

theorem State.Forms.postFault {ctx : Nat} {rec' : List Byte} (h : s.Forms) : (s.postFault ctx rec').Forms := h.postEvent

theorem State.Forms.stewardEnter {k : Nat} {epc : DWord} {cause : Nat} {tval : DWord} (h : s.Forms) : (s.stewardEnter k epc cause tval).Forms := by
  unfold State.stewardEnter
  exact h.commit.modSteward

theorem State.Forms.commitLanes {a : Agent} {p : Path} {lanes : List Nat} (h : s.Forms) : (s.commitLanes a p lanes).Forms := by
  unfold State.commitLanes
  refine h.foldl fun _ _ ht => ?_
  split
  · exact ht.foldl fun _ _ ht1 => ht1.putV
  · exact ht

theorem State.Forms.restart {a : Agent} (h : s.Forms) : (s.restart a).Forms := by
  unfold State.restart
  split
  · exact h.modHelper
  · exact h.modPath

theorem State.Forms.holdLanes {u : Issuer} {c sl entry : Nat} {lanes : List Nat} {f : FaultInfo} (h : s.Forms) :
    (s.holdLanes u c sl entry lanes f).Forms :=
  .postFault (h.modGroup fun _ hg => ⟨hg.v⟩)

theorem State.Forms.dropLanes {u : Issuer} {c sl : Nat} {out : List Nat} (h : s.Forms) : (s.dropLanes u c sl out).1.Forms := by
  unfold State.dropLanes
  extract_lets rest _
  split
  · exact h
  · split
    · exact .checkDraining (.refreshBusy (h.commit.modGroup fun _ hg => ⟨hg.v⟩))
    · exact h.commitLanes.setPath

theorem State.Forms.countWait {a : Agent} {ctx : Nat} (h : s.Forms) : (s.countWait a ctx).Forms :=
  .ite h (h.modPath.modContext.getD h.modPath.modContext.writeTrapWords)

theorem State.Forms.splitGroup {u : Issuer} {c sl : Nat} {faults : List (Nat × FaultInfo)} {refer : Bool} (h : s.Forms) :
    (s.splitGroup u c sl faults refer).1.Forms := by
  unfold State.splitGroup
  split
  · exact h
  · extract_lets faults1 rs hs restLanes sprung bad lanes s1 out s2 _ s3 s4 lanes'
    have h1 : s1.Forms := h.leaveClause
    have h2 : s2.Forms := h.commitLanes.applyHeld
    have h3 : s3.Forms := h2.leaveClause
    have h4 : s4.Forms := .ite h2.setPath (.ite (h3.modGroup fun _ hg => ⟨hg.v⟩) h3.modPath)
    split
    · exact h.dropLanes
    · split
      · exact h.endContext.dropLanes
      · split
        · exact .ite h.stallAt.countWait h.stallAt
        · split
          · exact h1
          · exact h1.holdLanes
        · extract_lets s5
          have h5 : s5.Forms := by
            unfold s5
            split
            · exact h4.holdLanes.trace
            · exact h4
          split
          · extract_lets meta'
            split
            · exact .trace (.modGroup (h5.writeRecord _ ‹_›) fun _ hg => ⟨hg.v⟩)
            · exact h5.endContext
          · exact h5

theorem State.Forms.dropHelper {c n slot : Nat} (h : s.Forms) : (s.dropHelper c n slot).Forms := by
  unfold State.dropHelper
  refine .checkDraining (.modCore (h.modGroup fun g hg => ?_) fun _ hk => ⟨hk.slots, hk.allocs⟩)
  split
  · exact ⟨hg.v⟩
  · exact hg

theorem State.Forms.helperFault {u : Issuer} {c n : Nat} {f : FaultInfo} (h : s.Forms) : (s.helperFault u c n f).Forms := by
  unfold State.helperFault
  split
  · exact h
  · extract_lets _ f meta' handle s1
    have h1 : s1.Forms := h.modGroup fun _ hg => ⟨hg.v⟩
    exact .ite h.dropHelper (.ite h.endContext.dropHelper (.ite h.commit.modPath.postFault h1.dropHelper))

theorem State.Forms.raiseLanes {u : Issuer} {faults : List (Nat × FaultInfo)} (h : s.Forms) : (s.raiseLanes u faults).1.Forms := by
  unfold State.raiseLanes
  split
  · exact h
  · split
    · exact h.splitGroup
    · exact h.helperFault
    · exact h.stewardEnter

theorem State.Forms.withFaults {u : Issuer} {faults : List (Nat × FaultInfo)} {go : State → Issuer → State} (h : s.Forms)
    (hgo : ∀ t v, t.Forms → (go t v).Forms) :
    (s.withFaults u faults go).Forms := by
  unfold State.withFaults
  split
  · exact hgo _ _ h
  · extract_lets r
    split
    · split
      · exact hgo _ _ h.raiseLanes
      · exact h.raiseLanes
    · exact h.raiseLanes

theorem State.Forms.raise {u : Issuer} {f : FaultInfo} (h : s.Forms) : (s.raise u f).Forms := h.raiseLanes
theorem State.Forms.raiseHere {u : Issuer} {cause : Byte} (h : s.Forms) : (s.raiseHere u cause).Forms := h.raise

theorem State.Forms.withdrawClaim {a : Agent} (h : s.Forms) : (s.withdrawClaim a).Forms := by
  unfold State.withdrawClaim
  split
  · exact h.modCore fun _ hk => ⟨hk.slots, hk.allocs⟩
  · exact h

theorem State.Forms.bite {u : Issuer} (h : s.Forms) : (s.bite u).Forms := by
  unfold State.bite
  split
  · exact h
  · extract_lets before s1
    have h1 : s1.Forms := .ite h.leaveClause.modPath h
    split
    · exact h1
    · extract_lets s2 s3 s4
      have h2 : s2.Forms := h1.withdrawClaim
      have h3 : s3.Forms := h2.modPath.raise
      have h4 : s4.Forms := by
        unfold s4
        split
        · exact h3.groupWoke
        · exact h3
      exact h4.modPath

theorem State.Forms.stall {u : Issuer} {why : Stall} (h : s.Forms) : (s.stall u why).Forms := by
  unfold State.stall
  split
  · split
    · exact h
    · exact .ite (.checkDraining (.refreshBusy (h.modGroup fun _ hg => ⟨hg.v⟩))) (.ite h.stallAt.bite h.stallAt)
  · exact .ite h.dropHelper h.stallAt
  · exact h.stallAt

theorem State.Forms.modDeferred {a : Agent} {f : List FaultInfo → List FaultInfo} (h : s.Forms) : (s.modDeferred a f).Forms := by
  unfold State.modDeferred
  split
  · exact h.modGroup fun _ hg => ⟨hg.v⟩
  · split
    · exact h.modGroup fun _ hg => ⟨hg.v⟩
    · exact h
  · exact h.modSteward

theorem State.Forms.raiseDeferred {u : Issuer} {pick : FaultInfo → Bool} {pc : PC} (h : s.Forms) :
    AllSome State.Forms (s.raiseDeferred u pick pc) := by
  unfold State.raiseDeferred
  split
  · exact .none
  · exact .some (.ite h.raise h.raise.modDeferred)

theorem State.Forms.dropPoison {a : Agent} {id : Nat} {lanes : List Nat} (h : s.Forms) : (s.dropPoison a id lanes).Forms := by
  unfold State.dropPoison
  split
  · exact h.modGroup fun _ hg => ⟨hg.v⟩
  · exact h.modPath

theorem State.Forms.raisePoison {u : Issuer} {faults : List (Nat × FaultInfo)} (h : s.Forms) : (s.raisePoison u faults).Forms := by
  unfold State.raisePoison
  split
  · exact h
  · extract_lets s'
    have h' : s'.Forms := h.raiseLanes
    split
    · exact .ite h' h'.dropPoison
    · exact h'.dropPoison

theorem State.Forms.issue {i : Instr} {req : Issuer → Req} {body : Issuer → State} (h : s.Forms) (hbody : ∀ u, (body u).Forms) :
    Keeps (issue s i req body) := by
  unfold Machine.issue
  split
  · exact .fault
  · split
    · exact .next h.raiseHere
    · exact .next h.stall
    · exact .next h.raisePoison
    · exact .next (hbody _)

end

/-! ### Integer instructions -/

section
variable {s : State}

theorem State.Forms.result {u : Issuer} {uni : Bool} {d : Opnd} {wide : Bool} {lat : Nat} {sc : Fin 16} {f : Nat → DWord} (h : s.Forms) :
    (s.result u uni d wide lat sc f).Forms :=
  h.pushWrites.retire

theorem State.Forms.condResult {u : Issuer} {uni : Bool} {d : Opnd} {lat : Nat} {sc : Fin 16} {p : Nat → Bool} (h : s.Forms) :
    (s.condResult u uni d lat sc p).Forms :=
  h.pushWrites.retire

theorem State.Forms.intOp2 {u : Issuer} {f : F3} {lat : Nat} {op : Int → Int → Int} (h : s.Forms) : (s.intOp2 u f lat op).Forms :=
  h.result

theorem State.Forms.intOp1 {u : Issuer} {f : F3} {lat : Nat} {op : Int → Int} (h : s.Forms) : (s.intOp1 u f lat op).Forms := h.result
theorem State.Forms.bitOp2 {u : Issuer} {f : F3} {op : DWord → DWord → DWord} (h : s.Forms) : (s.bitOp2 u f op).Forms := h.result
theorem State.Forms.execAdd {f : F3} (h : s.Forms) : Keeps (execAdd f s) := h.issue fun _ => h.intOp2
theorem State.Forms.execSub {f : F3} (h : s.Forms) : Keeps (execSub f s) := h.issue fun _ => h.intOp2
theorem State.Forms.execMin {f : F3} (h : s.Forms) : Keeps (execMin f s) := h.issue fun _ => h.intOp2
theorem State.Forms.execMax {f : F3} (h : s.Forms) : Keeps (execMax f s) := h.issue fun _ => h.intOp2
theorem State.Forms.execAbs {f : F3} (h : s.Forms) : Keeps (execAbs f s) := h.issue fun _ => h.intOp1
theorem State.Forms.execNeg {f : F3} (h : s.Forms) : Keeps (execNeg f s) := h.issue fun _ => h.intOp1
theorem State.Forms.execSel {f : F3} (h : s.Forms) : Keeps (execSel f s) := h.issue fun _ => h.result
theorem State.Forms.execLea {f : F3} (h : s.Forms) : Keeps (execLea f s) := h.issue fun _ => h.result
theorem State.Forms.execMul {f : F3} (h : s.Forms) : Keeps (execMul f s) := h.issue fun _ => h.intOp2
theorem State.Forms.execMulhi {f : F3} (h : s.Forms) : Keeps (execMulhi f s) := h.issue fun _ => h.intOp2
theorem State.Forms.execMad {f : F3} (h : s.Forms) : Keeps (execMad f s) := h.issue fun _ => h.result
theorem State.Forms.execDp4 {f : F3} (h : s.Forms) : Keeps (execDp4 f s) := h.issue fun _ => h.result
theorem State.Forms.execAnd {f : F3} (h : s.Forms) : Keeps (execAnd f s) := h.issue fun _ => h.bitOp2
theorem State.Forms.execOr {f : F3} (h : s.Forms) : Keeps (execOr f s) := h.issue fun _ => h.bitOp2
theorem State.Forms.execXor {f : F3} (h : s.Forms) : Keeps (execXor f s) := h.issue fun _ => h.bitOp2
theorem State.Forms.execAndn {f : F3} (h : s.Forms) : Keeps (execAndn f s) := h.issue fun _ => h.bitOp2
theorem State.Forms.execNot {f : F3} (h : s.Forms) : Keeps (execNot f s) := h.issue fun _ => h.result
theorem State.Forms.countOp {u : Issuer} {f : F3} {count : Nat → DWord → Nat} (h : s.Forms) : (s.countOp u f count).Forms := h.result
theorem State.Forms.execPopc {f : F3} (h : s.Forms) : Keeps (execPopc f s) := h.issue fun _ => h.countOp
theorem State.Forms.execClz {f : F3} (h : s.Forms) : Keeps (execClz f s) := h.issue fun _ => h.countOp
theorem State.Forms.execCtz {f : F3} (h : s.Forms) : Keeps (execCtz f s) := h.issue fun _ => h.countOp
theorem State.Forms.shiftOp {u : Issuer} {f : F3} {op : Nat → Nat → Nat → Nat} (h : s.Forms) : (s.shiftOp u f op).Forms := h.result
theorem State.Forms.execShl {f : F3} (h : s.Forms) : Keeps (execShl f s) := h.issue fun _ => h.shiftOp
theorem State.Forms.execShr {f : F3} (h : s.Forms) : Keeps (execShr f s) := h.issue fun _ => h.shiftOp
theorem State.Forms.execSar {f : F3} (h : s.Forms) : Keeps (execSar f s) := h.issue fun _ => h.shiftOp
theorem State.Forms.execRot {f : F3} (h : s.Forms) : Keeps (execRot f s) := h.issue fun _ => h.shiftOp
theorem State.Forms.execBfx {f : F3} (h : s.Forms) : Keeps (execBfx f s) := h.issue fun _ => h.result
theorem State.Forms.execBfi {f : F3} (h : s.Forms) : Keeps (execBfi f s) := h.issue fun _ => h.result
theorem State.Forms.execBrev {f : F3} (h : s.Forms) : Keeps (execBrev f s) := h.issue fun _ => h.result
theorem State.Forms.cmpOp {u : Issuer} {f : F3} {c : Cond} (h : s.Forms) : (s.cmpOp u f c).Forms := h.condResult
theorem State.Forms.execCmpEq {f : F3} (h : s.Forms) : Keeps (execCmpEq f s) := h.issue fun _ => h.cmpOp
theorem State.Forms.execCmpNe {f : F3} (h : s.Forms) : Keeps (execCmpNe f s) := h.issue fun _ => h.cmpOp
theorem State.Forms.execCmpLt {f : F3} (h : s.Forms) : Keeps (execCmpLt f s) := h.issue fun _ => h.cmpOp
theorem State.Forms.execCmpLe {f : F3} (h : s.Forms) : Keeps (execCmpLe f s) := h.issue fun _ => h.cmpOp
theorem State.Forms.execCmpGt {f : F3} (h : s.Forms) : Keeps (execCmpGt f s) := h.issue fun _ => h.cmpOp
theorem State.Forms.execCmpGe {f : F3} (h : s.Forms) : Keeps (execCmpGe f s) := h.issue fun _ => h.cmpOp
theorem State.Forms.op64 {u : Issuer} {f : F3} {op : Int → Int → Int} (h : s.Forms) : (s.op64 u f op).Forms := h.result
theorem State.Forms.execAdd64 {f : F3} (h : s.Forms) : Keeps (execAdd64 f s) := h.issue fun _ => h.op64
theorem State.Forms.execSub64 {f : F3} (h : s.Forms) : Keeps (execSub64 f s) := h.issue fun _ => h.op64
theorem State.Forms.execCvt {f : F3} (h : s.Forms) : Keeps (execCvt f s) := h.issue fun _ => h.result
theorem State.Forms.imm32 {u : Issuer} {f : FI} {lat : Nat} {op : Nat → Nat → Nat} (h : s.Forms) : (s.imm32 u f lat op).Forms := h.result
theorem State.Forms.imm64 {u : Issuer} {f : FI} {op : DWord → DWord → DWord} (h : s.Forms) : (s.imm64 u f op).Forms := h.result
theorem State.Forms.execAddImm {f : FI} (h : s.Forms) : Keeps (execAddImm f s) := h.issue fun _ => h.imm32
theorem State.Forms.execAndImm {f : FI} (h : s.Forms) : Keeps (execAndImm f s) := h.issue fun _ => h.imm32
theorem State.Forms.execOrImm {f : FI} (h : s.Forms) : Keeps (execOrImm f s) := h.issue fun _ => h.imm32
theorem State.Forms.execXorImm {f : FI} (h : s.Forms) : Keeps (execXorImm f s) := h.issue fun _ => h.imm32
theorem State.Forms.execShlImm {f : FI} (h : s.Forms) : Keeps (execShlImm f s) := h.issue fun _ => h.imm32
theorem State.Forms.execShrImm {f : FI} (h : s.Forms) : Keeps (execShrImm f s) := h.issue fun _ => h.imm32
theorem State.Forms.execSarImm {f : FI} (h : s.Forms) : Keeps (execSarImm f s) := h.issue fun _ => h.imm32
theorem State.Forms.execMulImm {f : FI} (h : s.Forms) : Keeps (execMulImm f s) := h.issue fun _ => h.imm32
theorem State.Forms.execAdd64Imm {f : FI} (h : s.Forms) : Keeps (execAdd64Imm f s) := h.issue fun _ => h.imm64
theorem State.Forms.execAnd64Imm {f : FI} (h : s.Forms) : Keeps (execAnd64Imm f s) := h.issue fun _ => h.imm64
theorem State.Forms.execOr64Imm {f : FI} (h : s.Forms) : Keeps (execOr64Imm f s) := h.issue fun _ => h.imm64
theorem State.Forms.execXor64Imm {f : FI} (h : s.Forms) : Keeps (execXor64Imm f s) := h.issue fun _ => h.imm64

end

/-! ### Clauses, interrupts and handlers -/

section
variable {s : State}

theorem State.Forms.observe {core source v n : Nat} (h : s.Forms) :
    (s.observe core source v n).Forms :=
  .ite (h.modCore fun _ hk => ⟨hk.slots, hk.allocs⟩) (h.frame rfl)

theorem State.Forms.afterRelease {u : Issuer} {k : State → State} (h : s.Forms) (hk : ∀ t, t.Forms → (k t).Forms) : (s.afterRelease u k).Forms := by
  unfold State.afterRelease
  split
  · exact h.raiseDeferred _ ‹_›
  · extract_lets ids
    split
    · exact hk _ h
    · exact h.stall

theorem State.Forms.refreshKeys {c : Nat} (h : s.Forms) : (s.refreshKeys c).Forms := by
  unfold State.refreshKeys
  refine .modCore (h.foldl fun _ _ ht => ht.observe) fun k hk => ⟨?_, hk.allocs⟩
  dsimp only
  refine Assoc.allVals_mapVals hk.slots fun g hg => ?_
  split
  · exact ⟨hg.v⟩
  · exact hg

theorem State.Forms.dropPath {c sl i : Nat} (h : s.Forms) : (s.dropPath c sl i).Forms := by
  unfold State.dropPath
  split
  · exact h
  · next g hg =>
    have h1 : (s.setGroup c sl { g with paths := Assoc.erase g.paths i }).Forms := h.setGroup ⟨(h.group hg).v⟩
    exact h1.refreshBusy.checkDraining

theorem State.Forms.releaseHelper {c n : Nat} (h : s.Forms) : (s.releaseHelper c n).Forms := by
  unfold State.releaseHelper
  split
  · exact h
  · exact .dropHelper (h.modGroup fun _ hg => ⟨hg.v⟩)

theorem State.Forms.setHold {c sl i : Nat} (h : s.Forms) : (s.setHold c sl i).Forms := by
  unfold State.setHold
  split
  · exact h
  · exact .trace (.ite h.setPath (h.setPath.frame rfl))

theorem State.Forms.regang {c sl i : Nat} (h : s.Forms) : (s.regang c sl i).Forms := by
  unfold State.regang
  split
  · exact h
  · next g hg =>
    split
    extract_lets j s1
    have h1 : s1.Forms := h.setGroup ⟨(h.group hg).v⟩
    split
    · exact h1
    · extract_lets s2
      have h2 : s2.Forms := h1.foldl fun _ _ ht => ht.trace
      exact .ite h2.setHold h2

theorem State.Forms.pathBoundary {c sl i : Nat} (h : s.Forms) : (s.pathBoundary c sl i).Forms := by
  unfold State.pathBoundary
  split
  · extract_lets s1 s2 p s3
    have h1 : s1.Forms := h.refreshKeys
    have h2 : s2.Forms := h1.applyHeld
    have h3 : s3.Forms := h2.setPath
    split
    · exact h1.dropPath
    · split
      · exact h1.raisePoison
      · split
        · exact h2.dropPath
        · split
          · split
            · exact h3.bite
            · exact h3
          · exact h3.regang
  · exact h

theorem State.Forms.execClauseBoundary {a : Agent} (h : s.Forms) : Keeps (execClauseBoundary a s) := by
  unfold Machine.execClauseBoundary
  split
  · exact .fault
  · split
    · refine .next ?_
      split
      · exact h.releaseHelper
      · exact h
    · split
      · exact .fault
      · split
        · split
          · exact .fault
          · exact .next h.pathBoundary
        · split
          · extract_lets killed _
            split
            · exact .fault
            · split
              · exact .next h.refreshKeys.raisePoison
              · split
                · exact .next h.refreshKeys.releaseHelper
                · exact .next h.refreshKeys.setPath
          · exact .fault
        · split
          · exact .fault
          · exact .next h.setPath

theorem State.Forms.fetchFault {u : Issuer} {m : Miss} {va : Nat} (h : s.Forms) : (s.fetchFault u m va).Forms :=
  .ite h.modPath.fetchMiss h.raise

theorem Keeps.changed {s' : State} (h' : s'.Forms) : Keeps (changed s s') := by
  unfold Machine.changed
  split
  · exact .fault
  · exact .next h'

theorem State.Forms.takeInterrupt {c sl : Nat} (h : s.Forms) : (s.takeInterrupt c sl).Forms := by
  unfold State.takeInterrupt
  split
  · exact h
  · split
    · split
      · exact h
      · exact .ite h.raise (h.raise.modGroup fun _ hg => ⟨hg.v⟩)
    · exact h

theorem State.Forms.arm {u : Issuer} {header : DWord} (h : s.Forms) : (s.arm u header).Forms := by
  unfold State.arm
  extract_lets ok _ s1
  have h1 : s1.Forms := h.setPath
  split
  · exact .ite h1.takeInterrupt h1
  · exact h1

theorem State.Forms.raiseAtHeader {u : Issuer} {pick : FaultInfo → Bool} (h : s.Forms) : AllSome State.Forms (s.raiseAtHeader u pick) := by
  unfold State.raiseAtHeader
  split
  · exact h.raiseDeferred
  · split
    · exact h.raiseDeferred
    · exact .some h.raisePoison
  · exact .some h.raisePoison

theorem State.Forms.execClauseHeader {a : Agent} (h : s.Forms) : Keeps (execClauseHeader a s) := by
  unfold Machine.execClauseHeader
  split
  · exact .fault
  · split
    · exact .fault
    · split
      · split
        · exact .fault
        · exact .next (h.arm.getD h.raiseAtHeader)
      · split
        · exact .fault
        · split
          · exact .next h.raisePoison
          · exact .changed h.fetchFault
          · extract_lets h1
            split
            · exact .next h.raise
            · exact .next (h.arm.getD h.raiseAtHeader)

theorem State.Forms.missFetch {u : Issuer} {m : Miss} (h : s.Forms) : (s.missFetch u m).Forms :=
  .ite (h.setPath.fetchMiss.modCore fun _ hk => ⟨hk.slots, hk.allocs⟩) h.setPath.fetchMiss

theorem State.Forms.execClauseFetch {a : Agent} {miss : Bool} (h : s.Forms) : Keeps (execClauseFetch a miss s) := by
  unfold Machine.execClauseFetch
  generalize (s.issuer? a).map (·.refresh s) = o
  cases o with
  | none => exact .fault
  | some u =>
    refine .ite .fault (.ite (.next h.setPath) (.ite (.next h.takeInterrupt) ?_))
    generalize u.poisoned none = x
    generalize s.fetchClause u = y
    cases x with
    | cons x l => exact .next h.raisePoison
    | nil =>
      cases y with
      | error y => exact .next (.ite h.missFetch h.fetchFault)
      | ok ws =>
        dsimp -zeta only
        extract_lets s1 hits traced
        have h1 : s1.Forms := h.cacheRange
        refine .ite (.next h1.missFetch) ?_
        clear_value hits traced
        cases hits with
        | nil => exact .next h1.setPath
        | cons b l =>
          cases a with
          | path c sl i => exact .next (.setHold (.setPath (.ite h1.trace h1)))
          | helper c n => exact .next (.setPath (.ite h1.trace h1))
          | steward k => exact .next h1.setPath

theorem State.Forms.execIcacheFill {a : Agent} (h : s.Forms) : Keeps (execIcacheFill a s) := by
  unfold Machine.execIcacheFill
  split
  · exact .fault
  · split
    · exact .fault
    · split
      · split
        · exact .changed h.modPath.fetchMiss
        · exact .next h.modPath
      · exact .next h.modPath

theorem State.Forms.execIssueSelection {core : Nat} (h : s.Forms) : Keeps (execIssueSelection core s) := by
  unfold Machine.execIssueSelection
  extract_lets all busy chosen n
  split
  · exact .fault
  · exact .next (.foldl (h.modCore fun _ hk => ⟨hk.slots, hk.allocs⟩) fun _ _ ht => ht.modPath)

theorem State.Forms.execPathAged {a : Agent} (h : s.Forms) : Keeps (execPathAged a s) := by
  unfold Machine.execPathAged
  split
  · exact .fault
  · split
    · exact .next h.setPath
    · exact .fault

theorem State.Forms.execStallClear {a : Agent} (h : s.Forms) : Keeps (execStallClear a s) := by
  unfold Machine.execStallClear
  split
  · exact .fault
  · split
    · split
      · exact .fault
      · split
        · exact .next h.bite
        · split
          · exact .next h.splitGroup
          · split <;> exact .next h.setPath
    · exact .fault

end

/-! ### Branches and loops -/

section
variable {s : State}

theorem State.Forms.diverge {u : Issuer} {sides : List (PC × Mask)} (h : s.Forms) : AllSome State.Forms (s.diverge u sides) := by
  unfold State.diverge
  split
  · exact .some h.endClause
  · exact .some h.endClause
  · split
    · split
      · exact .some h
      · extract_lets free s1
        have h1 : s1.Forms := h.endClause
        split
        · split
          · exact .none
          · split
            · exact .some h1
            · exact .some (h1.setPath.foldl fun _ _ ht => ht.setPath.trace)
    · exact .some h.endClause

theorem State.Forms.branchLanes {u : Issuer} {lanes : List (Nat × PC)} (h : s.Forms) : (s.branchLanes u lanes).Forms := by
  unfold State.branchLanes
  split
  · exact h.diverge _ ‹_›
  · exact h.raiseHere

theorem State.Forms.execBra {f : FB} (h : s.Forms) : Keeps (execBra f s) := h.issue fun _ => h.endClause
theorem State.Forms.execBrc {f : FB} (h : s.Forms) : Keeps (execBrc f s) := h.issue fun _ => h.branchLanes

theorem State.Forms.indirect {u : Issuer} {a : Opnd} {link : Option Opnd} (h : s.Forms) : (s.indirect u a link).Forms := by
  unfold State.indirect
  extract_lets tgt bad good faults
  split
  · exact h.raiseLanes.fst ‹_›
  · next s1 e =>
    have h1 : s1.Forms := h.raiseLanes.fst e
    split
    · exact h1
    · split
      · exact h1
      · extract_lets linked
        have hlinked : linked.Forms := by
          unfold linked
          split
          · exact h1
          · exact h1.pushWrites
        split
        · exact AllSome.bind (fun _ _ => hlinked.diverge) _ ‹_›
        · exact h1.raiseHere

theorem State.Forms.execBrx {f : F3} (h : s.Forms) : Keeps (execBrx f s) := h.issue fun _ => h.indirect
theorem State.Forms.execCallx {f : F3} (h : s.Forms) : Keeps (execCallx f s) := h.issue fun _ => h.indirect
theorem State.Forms.execRet {f : F3} (h : s.Forms) : Keeps (execRet f s) := h.issue fun _ => h.indirect
theorem State.Forms.execCall {f : FB} (h : s.Forms) : Keeps (execCall f s) := h.issue fun _ => h.pushWrites.endClause

theorem State.Forms.execExit {f : F3} (h : s.Forms) : Keeps (execExit f s) := by
  unfold Machine.execExit
  refine h.issue fun _ => ?_
  split
  · exact .ite h.raiseHere (h.endClause.modPath.modGroup fun _ hg => ⟨hg.v⟩)
  · exact h.stall

theorem State.Forms.execYield {f : F3} (h : s.Forms) : Keeps (execYield f s) := h.issue fun _ => h.endClause.yieldGroup
theorem State.Forms.execNop {f : F3} (h : s.Forms) : Keeps (execNop f s) := h.issue fun _ => h.retire

theorem State.Forms.execLoop {f : FB} (h : s.Forms) : Keeps (execLoop f s) :=
  h.issue fun _ => .ite h.raiseHere (.ite h.endClause h.modPath.endClause)

theorem State.Forms.endLoop {u : Issuer} {leave : Bool} (h : s.Forms) : (s.endLoop u leave).Forms := by
  unfold State.endLoop
  split
  · exact h.raiseHere
  · exact .ite h.modPath.endClause h.modPath.endClause

theorem State.Forms.execEndl {f : FB} (h : s.Forms) : Keeps (execEndl f s) := h.issue fun _ => h.endLoop
theorem State.Forms.execEndlX {f : FB} (h : s.Forms) : Keeps (execEndlX f s) := h.issue fun _ => h.endLoop
theorem State.Forms.execRgn {f : FB} (h : s.Forms) : Keeps (execRgn f s) := h.issue fun _ => h.modPath.retire
theorem State.Forms.commitRegion {u : Issuer} (h : s.Forms) : (s.commitRegion u).Forms := h.modPath

end

/-! ### The registers of the hub -/

section
variable {s : State}

theorem State.Forms.setDstat {v : Nat} (h : s.Forms) : (s.setDstat v).Forms := h.frame rfl

theorem State.Forms.clearHold {c sl i : Nat} {p : Path} {step : Bool} (h : s.Forms) : (s.clearHold c sl i p step).Forms :=
  .ite h.setPath.trace.takeInterrupt h.setPath

theorem State.Forms.dcmd {v : DWord} (h : s.Forms) : (s.dcmd v).Forms := by
  unfold State.dcmd
  extract_lets op
  split
  · exact h.setDstat
  · split
    · exact h.setDstat
    · split
      · exact h.setDstat
      · exact .ite (.ite h.setDstat h.setPath.setDstat) (.ite h.clearHold.setDstat h.clearHold.setDstat)

theorem State.Forms.mselWrite {m : Nat} {v : DWord} (h : s.Forms) :
    (s.mselWrite m v).Forms :=
  .ite (h.modCore fun _ hk => ⟨hk.slots, hk.allocs⟩) (h.frame rfl)

theorem State.Forms.trdpWrite {v : DWord} (h : s.Forms) : (s.trdpWrite v).Forms := .ite (h.frame rfl) h
theorem State.Forms.traceRing {size : Bool} {v : DWord} (h : s.Forms) : (s.traceRing size v).Forms := h.frame rfl

theorem State.Forms.fmctlWrite {v : DWord} (h : s.Forms) : (s.fmctlWrite v).Forms := by
  unfold State.fmctlWrite
  extract_lets v _ f
  split
  · exact { h with cks := nofun }
  · exact h.frame rfl

theorem State.Forms.hubWrite {r : HubWord} {v : DWord} (h : s.Forms) : (s.hubWrite r v).Forms := by
  unfold State.hubWrite
  split
  · exact h.frame rfl
  · exact h.frame rfl
  · exact h.frame rfl
  · exact h.dcmd
  · exact h.traceRing
  · exact h.traceRing
  · exact h.frame rfl
  · exact h.trdpWrite
  · exact h.fmctlWrite
  · exact h.frame rfl
  · exact h.frame rfl
  · exact .ite h.mselWrite h
  · exact h
  · exact h
  · exact h

theorem State.Forms.answerHost {k w status : Nat} {result : List Byte} (h : s.Forms) : (s.answerHost k w status result).Forms := by
  unfold State.answerHost
  refine .tellHost ?_
  exact { h with slots := Assoc.sorted_erase _ h.slots }

theorem State.Forms.answer {k status : Nat} {result : List Byte} (h : s.Forms) : (s.answer k status result).Forms := by
  unfold State.answer
  split
  · exact h
  · split
    · exact h.answerHost
    · extract_lets s1 s2 s3
      have h1 : s1.Forms := h.homeWrite
      have h2 : s2.Forms := .ite h1 h1.homeWrite
      have h3 : s3.Forms := h2.homeWrite
      exact { h3 with slots := Assoc.sorted_erase _ h3.slots }

theorem State.Forms.submit {k w : Nat} {steward : Option Nat} (h : s.Forms) : (s.submit k w steward).Forms :=
  { h with slots := Assoc.sorted_set _ _ h.slots }

theorem State.Forms.lostWord (h : s.Forms) : s.lostWord.2.Forms := h.frame rfl

theorem State.Forms.slotWritten {k : Nat} {steward : Option Nat} (h : s.Forms) : (s.slotWritten k steward).Forms := by
  unfold State.slotWritten
  extract_lets lost
  split
  next w s1 e =>
  have h1 : s1.Forms := by
    split at e
    · exact h.lostWord.snd e
    · cases e
      exact h
  extract_lets s2 cmd
  have h2 : s2.Forms := h1.submit
  exact .ite h2.lostWord.answer (.ite (h2.frame rfl) h2.answer)

theorem State.Forms.physWrite {by' : Option Nat} {pa : Nat} {bs : List Byte} (h : s.Forms) : (s.physWrite by' pa bs).Forms := by
  unfold State.physWrite
  split
  · extract_lets words
    refine h.foldl fun _ _ ht => ?_
    split
    · exact ht
    · exact ht.hubWrite
  · exact .ite h.homeWrite.slotWritten h.homeWrite

theorem State.Forms.execDcmdHalt {value : DWord} (h : s.Forms) : Keeps (execDcmdHalt value s) := by
  unfold Machine.execDcmdHalt
  split
  · exact .next h.hubWrite
  · exact .fault

theorem State.Forms.execDcmdRelease {value : DWord} (h : s.Forms) : Keeps (execDcmdRelease value s) := by
  unfold Machine.execDcmdRelease
  split
  · exact .next h.hubWrite
  · exact .fault

theorem State.Forms.execDcmdStep {value : DWord} (h : s.Forms) : Keeps (execDcmdStep value s) := by
  unfold Machine.execDcmdStep
  split
  · exact .next h.hubWrite
  · exact .fault

theorem State.Forms.execTrdpWrite {value : DWord} (h : s.Forms) : Keeps (execTrdpWrite value s) := .next h.hubWrite

theorem State.Forms.execTraceRingWrite {size : Bool} {value : DWord} (h : s.Forms) : Keeps (execTraceRingWrite size value s) :=
  .next h.hubWrite

theorem State.Forms.execTdropClear {value : DWord} (h : s.Forms) : Keeps (execTdropClear value s) := .next h.hubWrite

theorem State.Forms.execMselWrite {monitor : Nat} {value : DWord} (h : s.Forms) : Keeps (execMselWrite monitor value s) := by
  unfold Machine.execMselWrite
  split
  · exact .next h.mselWrite
  · exact .fault

theorem State.Forms.lscfgWrite {core : Nat} {v : DWord} (h : s.Forms) :
    (s.lscfgWrite core v).Forms :=
  .ite h (h.modCore fun _ hk => ⟨hk.slots, hk.allocs⟩)

theorem State.Forms.execRegisterWrite {reg : HubReg} {value : DWord} (h : s.Forms) : Keeps (execRegisterWrite reg value s) := by
  unfold Machine.execRegisterWrite
  split
  · exact .next h.hubWrite
  · exact .next h.hubWrite
  · exact .next h.hubWrite
  · exact .next h.hubWrite
  · exact .next h.hubWrite
  · exact .next h.hubWrite
  · exact .next h.hubWrite
  · exact .next h.hubWrite
  · exact .next h.hubWrite
  · split
    · exact .next h.lscfgWrite
    · exact .fault

end

/-! ### Messages about borrowed lines -/

section
variable {s : State}

theorem State.Forms.homeWr {line b : Nat} {bytes : Line} {mask : DWord} (h : s.Forms) : (s.homeWr line b bytes mask).Forms :=
  .ite (h.foldl fun _ _ ht => .ite ht.homeWrite ht).send h.send

theorem State.Forms.spend {line n : Nat} (h : s.Forms) : (s.spend line n).Forms := by
  unfold State.spend
  split
  · exact h
  · exact h.modLent

theorem State.Forms.completeHome {line : Nat} {r : HomeReq} {rest : List HomeReq} (h : s.Forms) :
    AllSome State.Forms (s.completeHome line r rest) := by
  unfold State.completeHome
  extract_lets d data level bad
  split
  · exact .none
  · exact .some h.setDir.send
  · exact .some (.send (.setDir (.ite h.spend h)))
  · exact .some h.setDir.homeWr

theorem State.Forms.refuse {line : Nat} {r : HomeReq} (h : s.Forms) : (s.refuse line r).Forms := by
  unfold State.refuse
  split
  · exact h.send
  · exact h.send
  · exact h.send
  · exact h

theorem State.Forms.strikeLine {b line : Nat} (h : s.Forms) : (s.strikeLine b line).Forms := h.setDir.foldl fun _ _ ht => ht.refuse

theorem State.Forms.strikeLease {entry b : Nat} (h : s.Forms) : (s.strikeLease entry b).Forms := by
  unfold State.strikeLease
  split
  · exact h
  · extract_lets out s1 alive
    have h1 : s1.Forms := (h.foldl fun _ _ ht => ht.strikeLine).foldl fun _ _ ht => ht.refuse
    split
    · exact { h1 with lent := Assoc.sorted_erase _ h1.lent }
    · exact h1.modLent

theorem State.Forms.strikeAll {b : Nat} (h : s.Forms) : (s.strikeAll b).Forms :=
  (h.foldl fun _ _ ht => ht.strikeLease).foldl fun _ _ ht => ht.strikeLine

theorem State.Forms.strike {b : Nat} (h : s.Forms) : (s.strike b).Forms := h.strikeAll.frame rfl

theorem State.Forms.serveLines {n : Nat} {lines : List Nat} (h : s.Forms) : (s.serveLines n lines).Forms := by
  induction n generalizing s lines with
  | zero => exact h
  | succ n ih =>
    cases lines with
    | nil => exact h
    | cons line lines =>
      unfold State.serveLines
      extract_lets d
      split
      · exact ih h
      · split
        · exact ih h
        · split
          split
          · exact ih h.strike
          · split
            · split
              · exact ih h
              · split
                · next s1 e => exact ih (h.completeHome _ e)
                · exact ih h
            · exact ih (h.setDir.foldl fun _ _ ht => ht.send)

theorem State.Forms.serve {lines : List Nat} (h : s.Forms) : (s.serve lines).Forms := h.serveLines
theorem State.Forms.homeRequest {line : Nat} {r : HomeReq} (h : s.Forms) : (s.homeRequest line r).Forms := h.setDir.serve
theorem State.Forms.answered {line b : Nat} {keepsS : Bool} (h : s.Forms) : (s.answered line b keepsS).Forms := h.setDir.serve
theorem State.Forms.askLocal {id line : Nat} (h : s.Forms) : (s.askLocal id line).Forms := .ite h h.homeRequest

theorem State.Forms.localDone {id line : Nat} (h : s.Forms) : (s.localDone id line).Forms := by
  unfold State.localDone
  split
  · exact h
  · exact .ite h.setDir.serve h

theorem State.Forms.cancelTurn {id : Nat} (h : s.Forms) : (s.cancelTurn id).Forms := (h.foldl fun _ _ ht => ht.setDir).serve

theorem State.Forms.dropBorrower {entry b : Nat} (h : s.Forms) : (s.dropBorrower entry b).Forms := by
  unfold State.dropBorrower
  split
  · exact h
  · exact h.strikeLease.serve

theorem State.Forms.failBorrower {b : Nat} (h : s.Forms) : (s.failBorrower b).Forms := h.strike.serve
theorem State.Forms.expireBorrower {b : Nat} (h : s.Forms) : (s.expireBorrower b).Forms := h.strikeAll.serve

end

/-! ### Performing an access -/

section
variable {s : State}

theorem State.Forms.dropCopy {core : Nat} {tag : LineTag} (h : s.Forms) : (s.dropCopy core tag).Forms :=
  .ite (h.modCore fun _ hk => ⟨hk.slots, hk.allocs⟩) h.dropStewardLine

theorem State.Forms.fillCopy {core : Nat} {tag : LineTag} {mode : CacheMode} {data : Line} (h : s.Forms) : (s.fillCopy core tag mode data).Forms :=
  .ite h (.ite (.ite h (h.frame rfl)) (h.dropCopy.modCore fun _ hk => ⟨hk.slots, hk.allocs⟩))

theorem State.Forms.patchCopy {core : Nat} {tag : LineTag} {off : Nat} {bs : List Byte} (h : s.Forms) : (s.patchCopy core tag off bs).Forms :=
  .ite (h.modCore fun _ hk => ⟨hk.slots, hk.allocs⟩) (h.frame rfl)

theorem State.Forms.acquire {core : Nat} {scope : Scope} (h : s.Forms) : (s.acquire core scope).Forms := by
  unfold State.acquire
  extract_lets keep
  have hkeep : ∀ (t : State) c, t.Forms → (t.modCore c keep).Forms := fun _ _ ht => ht.modCore fun _ hk => ⟨hk.slots, hk.allocs⟩
  exact .ite h (.ite (hkeep _ _ h) (.ite h (h.foldl fun _ _ ht => hkeep _ _ ht)))

theorem State.Forms.charge {n : Nat} (h : s.Forms) : (s.charge n).Forms := .ite (h.frame rfl) (h.frame rfl)

theorem State.Forms.logEntry {ctx : Nat} {e : LogEntry} (h : s.Forms) : (s.logEntry ctx e).Forms := by
  unfold State.logEntry
  extract_lets _ s1 s2 _
  have h1 : s1.Forms := by
    unfold s1
    split
    · exact h.frame rfl
    · exact h
  have h2 : s2.Forms := h1.charge
  exact .ite h1 (.ite (h2.frame rfl) h2)

theorem State.Forms.logLines {ctx : Nat} {who : Nat × Nat} {lane : Nat} {lines : List (LogKind × Nat)} {value : Nat} (h : s.Forms) :
    (s.logLines ctx who lane lines value).Forms :=
  h.foldl fun _ _ ht => ht.logEntry

theorem State.Forms.markTarget {ctx : Nat} {t : Target} (h : s.Forms) : (s.markTarget ctx t).Forms := by
  unfold State.markTarget
  split
  · exact h.markDirty
  · exact h.foldl fun _ _ ht => ht.markDirty
  · exact h
  · exact h

theorem State.Forms.scratchWrite {core id off : Nat} {bs : List Byte} (h : s.Forms) : (s.scratchWrite core id off bs).Forms := by
  unfold State.scratchWrite
  split
  · extract_lets s1
    have h1 : s1.Forms := h.modAlloc fun _ ha => ⟨Memory.wf_writeN _ _ ha.bytes⟩
    refine h1.foldl fun _ _ ht => ?_
    split
    · exact ht.wakeBarrier
    · exact ht
  · refine { h with saved := ?_ }
    dsimp only
    refine h.mapSaved fun v hv => ?_
    split
    · refine ⟨hv.group, fun a ha => ?_⟩
      obtain ⟨b, hb, rfl⟩ := Option.map_eq_some_iff.mp ha
      exact Memory.wf_writeN _ _ (hv.alloc b hb)
    · exact hv

theorem State.Forms.physLoad {core : Nat} {mode : CacheMode} {pa n : Nat} (h : s.Forms) : (s.physLoad core mode pa n).1.Forms := by
  unfold State.physLoad
  extract_lets tag home
  split
  · exact h
  · split
    · exact h
    · split
      · exact h
      · exact h.fillCopy

theorem State.Forms.lentLoad {core : Nat} {mode : CacheMode} {e off n : Nat} (h : s.Forms) :
    AllSome (fun x => x.1.Forms) (s.lentLoad core mode e off n) := by
  unfold State.lentLoad
  extract_lets tag pick
  split
  · exact .some h
  · split
    · exact .some h
    · split
      · split
        · exact .some h
        · exact .some h.fillCopy
      · exact .none

theorem State.Forms.loadAt {core : Nat} {mode : CacheMode} {t : Target} {n : Nat} (h : s.Forms) :
    AllSome (fun x => x.1.Forms) (s.loadAt core mode t n) := by
  unfold State.loadAt
  split
  · exact .some h.physLoad
  · exact h.lentLoad
  · exact .some h
  · exact .none

theorem State.Forms.freshLoad {core : Nat} {mode : CacheMode} {t : Target} {n : Nat} (h : s.Forms) :
    AllSome (fun x => x.1.Forms) (s.freshLoad core mode t n) := by
  unfold State.freshLoad
  split
  · exact .some (.ite (h.loadAt _ ‹_›).dropCopy (h.loadAt _ ‹_›))
  · exact h.loadAt

theorem State.Forms.dropMessage (h : s.Forms) : s.dropMessage.Forms := .observe (h.frame rfl)

theorem State.Forms.storeAt {id core : Nat} {t : Target} {bs : List Byte} (h : s.Forms) : AllSome (fun x => x.1.Forms) (s.storeAt id core t bs) := by
  unfold State.storeAt
  split
  · split
    · exact .none
    · exact .some h.patchCopy.physWrite.localDone
  · split
    · exact .some h.dropMessage
    · split
      · exact .some h.lenderLost.dropMessage
      · split
        · exact .some (h.lentWrite? _ ‹_›).patchCopy
        · exact .none
  · exact .some h.scratchWrite
  · exact .none

theorem State.Forms.request {id : Nat} {t : Target} {write : Bool} (h : s.Forms) : (s.request id t write).Forms := by
  unfold State.request
  split
  · exact .ite h.askLocal h
  · exact .ite h.wantWrite h.wantRead
  · exact h
  · exact h

theorem State.Forms.updateAt {id core : Nat} {mode : CacheMode} {atL1 : Bool} {t : Target} {size : Nat} {f : Nat → Nat} (h : s.Forms) :
    AllSome (fun x => x.1.Forms) (s.updateAt id core mode atL1 t size f) := by
  unfold State.updateAt
  extract_lets ready
  split
  · exact .none
  · split
    · exact .none
    · exact .some (h.loadAt _ ‹_›)
    · extract_lets m
      split
      · exact .none
      · exact .some (((h.loadAt _ ‹_›).storeAt) _ ‹_›)
      · exact .some (((h.loadAt _ ‹_›).storeAt) _ ‹_›)

theorem State.Forms.settle {id : Nat} {a : Access} {awaits : Nat} {r : Except (Byte × Nat) (Option Nat)} (h : s.Forms) :
    (s.settle id a awaits r).Forms := by
  unfold State.settle
  split
  · exact h
  · exact h.frame rfl

theorem State.Forms.logAccess {o : Op} {a : Access} {value : Nat} {err : (Option (Byte × Nat))} (h : s.Forms) : (s.logAccess o a value err).Forms :=
  .ite h (.ite h.logEntry h.logEntry.logLines)

theorem State.Forms.erred {id : Nat} {o : Op} {a : Access} {e : Byte × Nat} (h : s.Forms) : (s.erred id o a e).Forms := h.logAccess.settle

theorem State.Forms.readFor {o : Op} {a : Access} (h : s.Forms) : AllSome (fun x => x.1.Forms) (s.readFor o a) := by
  unfold State.readFor
  split
  · exact .some h
  · exact h.freshLoad

theorem State.Forms.settleCopies {o : Op} {t : Target} {bs : List Byte} (h : s.Forms) : (s.settleCopies o t bs).Forms := by
  unfold State.settleCopies
  split
  · exact h
  · extract_lets s1
    have h1 : s1.Forms := by
      unfold s1
      refine h.foldl fun t1 _ ht => ?_
      split
      · exact ht.patchCopy
      · exact ht
    exact h1.foldl fun _ _ ht => ht.dropCopy

theorem State.Forms.perform? {id : Nat} {o : Op} {a : Access} (h : s.Forms) : AllSome State.Forms (s.perform? id o a) := by
  unfold State.perform?
  split
  · exact .none
  · split
    · exact .some h.erred
    · extract_lets recorded supplied store update
      have hstore : ∀ bs, AllSome State.Forms (store bs) := by
        intro bs
        unfold store
        split
        · exact .some h.logAccess.settle
        · split
          · exact .none
          · next s1 n e =>
            have h1 : s1.Forms := h.storeAt _ e
            exact .some h1.settleCopies.logAccess.markTarget.settle
          · next s1 n c e =>
            have h1 : s1.Forms := h.storeAt _ e
            exact .some h1.erred
      have hupdate : ∀ ret, AllSome State.Forms (update ret) := by
        intro ret
        unfold update
        split
        · exact .some h.logAccess.settle
        · split
          · exact .none
          · next s1 n m e =>
            have h1 : s1.Forms := h.updateAt _ e
            exact .some h1.settleCopies.logAccess.markTarget.settle
          · next s1 n x e =>
            have h1 : s1.Forms := h.updateAt _ e
            exact .some h1.erred
      split
      · split
        · exact .none
        · next s1 bs e =>
          have h1 : s1.Forms := h.readFor _ e
          exact .some h1.logAccess.settle
        · next s1 x e =>
          have h1 : s1.Forms := h.readFor _ e
          exact .some h1.erred
      · exact hstore _
      · split
        · exact .none
        · next s1 bs e =>
          have h1 : s1.Forms := h.readFor _ e
          exact .some h1.logAccess.scratchWrite.settle
        · next s1 x e =>
          have h1 : s1.Forms := h.readFor _ e
          exact .some h1.erred
      · exact hstore _
      · exact hupdate _
      · exact hupdate _
      · split
        · extract_lets c
          split
          · exact .none
          · exact .some (.settle (h.modCore fun _ hk => ⟨hk.slots, hk.allocs⟩))
        · exact hupdate _

theorem State.Forms.attempt {id : Nat} (h : s.Forms) : (s.attempt id).Forms := by
  unfold State.attempt
  split
  · exact h
  · refine h.foldl fun _ _ ht => ?_
    split
    · exact ht
    · split
      · exact ht
      · split
        · exact ht.perform? _ ‹_›
        · exact .ite ht ht.request

theorem State.Forms.deliverOne {a : Agent} {r : Reg} {v : DWord} {seq : Stamp} (h : s.Forms) : (s.deliverOne a r v seq).Forms := by
  unfold State.deliverOne
  split
  · exact h
  · split
    · split
      · exact h.putV
      · exact h.putG
      · exact h
    · exact h.setPath

theorem State.Forms.deliver {uid : Nat} {agent : Agent} {seq : Stamp} {dst : Option Reg} {size : Nat} {vals : List (Nat × Nat)} (h : s.Forms) :
    (s.deliver uid agent seq dst size vals).Forms := by
  unfold State.deliver
  extract_lets word dword idx
  split
  · exact h.modHelper
  · exact h.modFrame
  · exact h.foldl fun _ _ ht => ht.foldl fun _ _ ht => ht.deliverOne
  · exact h.modGroupNamed fun _ hg => List.foldlRecOn _ _ hg fun _ hg _ _ => hg.deliverV
  · exact h.foldl fun _ _ ht => ht.foldl fun _ _ ht => ht.deliverOne
  · exact h
  · exact h
  · refine h.modGroupNamed fun _ hg => List.foldlRecOn _ _ hg fun _ hg _ _ => ?_
    refine List.foldlRecOn _ _ hg fun _ hg _ _ => ?_
    split
    · exact hg
    · exact hg.deliverG
  · exact h

theorem State.Forms.defer {owner : Nat} {f : FaultInfo} (h : s.Forms) : (s.defer owner f).Forms := by
  unfold State.defer
  dsimp only [State.freshId]
  have h1 : State.Forms { s with nextId := s.nextId + 1 } := h.frame rfl
  split
  · exact h1.modSteward
  · split
    · exact h1
    · exact .ite h1.countErrors (h1.modGroupNamed fun _ hg => ⟨hg.v⟩)

theorem State.Forms.deliverErrors {id : Nat} {o : Op} (h : s.Forms) : (s.deliverErrors id o).Forms := by
  unfold State.deliverErrors
  split
  · exact h
  · extract_lets f
    split
    · exact h.defer
    · dsimp only [State.freshId]
      have h1 : State.Forms { s with nextId := s.nextId + 1 } := h.frame rfl
      split
      · exact h1.modPath
      · exact h1.modFrame
      · exact h1.modPath
      · split
        · exact h1
        · exact .ite h1.countErrors (h1.modGroupNamed fun _ hg => ⟨hg.v⟩)
      · split
        · exact h1
        · exact .ite h1.countErrors (.ite (h1.modGroupNamed fun _ hg => ⟨hg.v⟩) h1)

theorem State.Forms.writeCall {c : Cmd} {status : Word} {args : List Byte} (h : s.Forms) : (s.writeCall c status args).Forms :=
  h.scratchWrite.scratchWrite.logLines

theorem State.Forms.logCall {c : Cmd} (h : s.Forms) : (s.logCall c).Forms := h.logEntry

theorem State.Forms.postCall {id : Nat} {c : Cmd} (h : s.Forms) : (s.postCall id c).Forms := by
  unfold State.postCall
  split
  · exact .ite h (.modRingsNamed (.logCall (.writeCall (h.frame rfl))))
  · exact .postEvent (h.frame rfl)

theorem State.Forms.postCalls (h : s.Forms) : s.postCalls.Forms := h.foldl fun _ _ ht => .ite ht.postCall ht

theorem State.Forms.finish {id : Nat} {o : Op} (h : s.Forms) : (s.finish id o).Forms := by
  unfold State.finish
  extract_lets good s1 s2 s3 s4 s5 s6
  have h1 : s1.Forms := h.frame rfl
  have h2 : s2.Forms := .ite h1.acquire h1
  have h3 : s3.Forms := h2.deliver.deliverErrors
  have h4 : s4.Forms := h3.modRingsNamed
  have h5 : s5.Forms := h4.foldl fun _ _ ht => .ack (.ite ht (ht.frame rfl))
  have h6 : s6.Forms := h5.postCalls
  exact .ite h6.dropPlaces.traced (.ite h6.observe h6)

theorem State.Forms.completion {id : Nat} {pick : OpKind → Bool} (h : s.Forms) : Keeps (s.completion id pick) := by
  unfold State.completion
  split
  · exact .fault
  · split
    · exact .fault
    · extract_lets s'
      have h' : s'.Forms := h.attempt
      split
      · exact .fault
      · split
        · exact .next h'.finish
        · split
          · exact .next h'
          · exact .fault

theorem State.Forms.execLoadComplete {op : Nat} (h : s.Forms) : Keeps (execLoadComplete op s) := h.completion
theorem State.Forms.execStoreComplete {op : Nat} (h : s.Forms) : Keeps (execStoreComplete op s) := h.completion
theorem State.Forms.execAtomicComplete {op : Nat} (h : s.Forms) : Keeps (execAtomicComplete op s) := h.completion

theorem State.Forms.execCombineFlush {cluster : Bool} {unit entry : Nat} (h : s.Forms) : Keeps (execCombineFlush cluster unit entry s) := by
  unfold Machine.execCombineFlush
  split
  · extract_lets l
    split
    · exact .fault
    · split
      · dsimp only [State.freshId]
        exact .next { h with clusters := Assoc.sorted_put _ _ _ h.clusters }
      · exact .fault
  · extract_lets l
    split
    · exact .fault
    · split
      · exact .fault
      · next m e =>
        have h1 : State.Forms { s with clusters := Assoc.set s.clusters (unit / 16) m } :=
          { h with clusters := Assoc.sorted_set _ _ h.clusters }
        exact .ite (.next (h1.modCore fun _ hk => ⟨hk.slots, hk.allocs⟩)) .fault

end

/-! ### Windows and their counters -/

section
variable {s : State}

theorem State.Forms.writePieces {ps : List (Nat × Nat)} {bs : List Byte} (h : s.Forms) : (s.writePieces ps bs).Forms := by
  induction ps generalizing s bs with
  | nil => exact h
  | cons p ps ih => exact ih h.physWrite

theorem State.Forms.blockLoad {core ctx : Nat} {w : Window} {va : Nat} {ps : List (Nat × Nat)} (h : s.Forms) :
    (s.blockLoad core ctx w va ps).1.Forms := by
  unfold State.blockLoad
  extract_lets tag
  split
  · exact h
  · split
    · exact h
    · split
      · exact h
      · exact .ite h.fillCopy h

theorem State.Forms.counterKept? {r : Writer} {w : Window} (h : s.Forms) : AllSome State.Forms (s.counterKept? r w) := by
  unfold State.counterKept?
  split
  · exact .some h.fetchMiss
  · exact .none
  · split
    · exact .some h
    · split
      · split
        · exact .none
        · exact .some h.request
      · split
        · exact .none
        · exact .some h.request
      · exact .none

theorem State.Forms.countField {sub ctx : Nat} {a : Access} {u : Nat × OpKind × Nat} (h : s.Forms) : (s.countField sub ctx a u).1.Forms := by
  unfold State.countField
  extract_lets f
  split
  · split
    · exact h
    · exact h.physWrite.markDirty
  · split
    · exact h
    · split
      · exact h.updateAt _ ‹_›
      · exact h.updateAt _ ‹_›
      · exact h
  · exact h

theorem State.Forms.countEncode {r : Writer} {w : Window} {us : List (Nat × OpKind × Nat)} (h : s.Forms) : (s.countEncode r w us).Forms := by
  unfold State.countEncode
  extract_lets fail
  have hfail : ∀ t, t.Forms → (fail t).Forms := fun _ ht => ht.defer
  split
  · next a _ =>
    split
    next sub s1 e =>
    have h1 : s1.Forms := h.freshId.snd e
    extract_lets x s2 s3 o
    have hx : x.1.Forms :=
      List.foldlRecOn _ _ (motive := fun b : State × Nat × Bool => b.1.Forms) h1 fun _ hb _ _ => hb.countField
    have h2 : s2.Forms := hx.logEntry
    have h3 : s3.Forms := .ite h2 (hfail _ h2)
    split
    · exact h3
    · have h4 : State.Forms { s3 with ops := Assoc.set s3.ops sub o } := h3.frame rfl
      exact h4.expect
  · exact hfail _ h

theorem State.Forms.counterDone {r : Writer} {w : Window} (h : s.Forms) : (s.counterDone r w).Forms := by
  unfold State.counterDone
  split
  · split
    · exact h.localDone
    · exact h
  · exact h

theorem State.Forms.writeBlock {r : Writer} {w : Window} {va : Nat} {ps : List (Nat × Nat)} {nfp whole : Bool} {touched : List Nat}
    {f : List Byte → List Byte} (h : s.Forms) :
    (s.writeBlock r w va ps nfp whole touched f).1.Forms := by
  unfold State.writeBlock
  extract_lets bva old
  clear_value old
  split
  · exact h
  · split
    · exact h
    · extract_lets merged stored enc x2 s1
      split
      · exact h
      · have h1 : s1.Forms := h.writePieces.dropCopy
        exact h1.countEncode

theorem State.Forms.settleError {id : Nat} {a : Access} {cause : Byte} {addr : Nat} (h : s.Forms) : (s.settleError id a cause addr).Forms := by
  unfold State.settleError
  split
  · exact h
  · exact h.logAccess.frame rfl

theorem State.Forms.execCodecLoad {op block : Nat} (h : s.Forms) : Keeps (execCodecLoad op block s) := by
  unfold Machine.execCodecLoad
  split
  · exact .fault
  · extract_lets as reads
    split
    · split
      · exact .fault
      · split
        · refine .next ?_
          refine (h.blockLoad.fst ‹_›).foldl fun _ _ ht => ?_
          split
          · exact ht.settleError
          · exact ht.settleError
          · extract_lets got s1
            have h1 : s1.Forms := ht.logAccess
            split
            · exact h1.scratchWrite.settle
            · exact h1.settle
    · exact .fault

theorem State.Forms.execCodecWriteStep {op block : Nat} (h : s.Forms) : Keeps (execCodecWriteStep op block s) := by
  unfold Machine.execCodecWriteStep
  split
  · exact .fault
  · extract_lets as writes plain by' data whole merge cause
    split
    · split
      · exact .fault
      · split
        · exact .changed (h.counterKept? _ ‹_›)
        · extract_lets before
          split
          · extract_lets s1
            have h1 : s1.Forms := (h.writeBlock.fst ‹_›).counterDone
            split
            · exact .next (h1.foldl fun _ _ ht => ht.logAccess.markTarget.settle)
            · exact .next (h1.foldl fun _ _ ht => ht.settleError)
            · exact .next (h1.foldl fun _ _ ht => ht.settleError)
            · exact .next (h1.foldl fun _ _ ht => ht.settleError)
    · exact .fault

end

/-! ### System instructions -/

section
variable {s : State}

theorem State.Forms.raiseProtection {u : Issuer} (h : s.Forms) : (s.raiseProtection u).Forms := .raise (h.frame rfl)
theorem State.Forms.execGsr {f : F3} (h : s.Forms) : Keeps (execGsr f s) := h.issue fun _ => h.pushWrites.retire
theorem State.Forms.execSsr {f : F3} (h : s.Forms) : Keeps (execSsr f s) := h.issue fun _ => h.pushWrites.retire
theorem State.Forms.execSipiWrite {f : F3} (h : s.Forms) : Keeps (execSipiWrite f s) := h.issue fun _ => h.pushWrites.retire
theorem State.Forms.execStcmpWrite {f : F3} (h : s.Forms) : Keeps (execStcmpWrite f s) := h.issue fun _ => h.pushWrites.retire

theorem State.Forms.raiseLast {u : Issuer} {f : FaultInfo} (h : s.Forms) : (s.raiseLast u f).Forms :=
  .ite h.raise.yieldGroup h.raise

theorem State.Forms.execTrap {f : F3} (h : s.Forms) : Keeps (execTrap f s) := by
  unfold Machine.execTrap
  refine h.issue fun _ => ?_
  split
  · exact h.stewardEnter
  · exact h.raise
  · exact .ite h.endClause.endLaunch h.raiseLast

theorem State.Forms.execBrk {f : F3} (h : s.Forms) : Keeps (execBrk f s) := by
  unfold Machine.execBrk
  refine h.issue fun _ => ?_
  split
  · exact h.stewardEnter
  · exact h.raise
  · exact .ite h.endClause.modPath (.ite h.endClause h.raiseLast)

theorem State.Forms.execEret {f : F3} (h : s.Forms) : Keeps (execEret f s) :=
  h.issue fun _ => .ite h.raiseHere (.ite h.raise h.endClause.modPath.refreshBusy)

theorem State.Forms.execSret {f : F3} (h : s.Forms) : Keeps (execSret f s) :=
  h.issue fun _ => .ite h.raise h.endClause.modSteward

theorem State.Forms.execWfi {f : F3} (h : s.Forms) : Keeps (execWfi f s) := h.issue fun _ => .ite h.commit.stall h.endClause

theorem State.Forms.execStewardEntry {k : Nat} (h : s.Forms) : Keeps (execStewardEntry k s) := by
  unfold Machine.execStewardEntry
  extract_lets w
  split
  · exact .fault
  · split
    · exact .next (.stewardEnter (.ite (h.frame rfl) h))
    · exact .fault

theorem State.Forms.execStewardTimer {k : Nat} (h : s.Forms) : Keeps (execStewardTimer k s) := by
  unfold Machine.execStewardTimer
  split
  · exact .next h.modSteward
  · exact .fault

theorem State.Forms.invalidate {u : Issuer} {f : F3} {ctx va : Option Nat} (h : s.Forms) : (s.invalidate u f ctx va).Forms := by
  unfold State.invalidate
  refine h.afterRelease fun t ht => ?_
  extract_lets ids drop s1
  have h1 : s1.Forms := by
    unfold s1
    split
    · refine { ht with cores := ?_ }
      dsimp only
      exact ht.mapCores fun _ hk => ⟨hk.slots, hk.allocs⟩
    · exact ht.modTlb
  exact .ite ht.stall h1.retire

theorem State.Forms.execTlbiPage {f : F3} (h : s.Forms) : Keeps (execTlbiPage f s) :=
  h.issue fun _ => .ite h.raiseHere h.invalidate

theorem State.Forms.execTlbiCtx {f : F3} (h : s.Forms) : Keeps (execTlbiCtx f s) :=
  h.issue fun _ => .ite h.raiseHere h.invalidate

theorem State.Forms.execTlbiAll {f : F3} (h : s.Forms) : Keeps (execTlbiAll f s) := h.issue fun _ => h.invalidate
theorem State.Forms.execIpf {f : F3} (h : s.Forms) : Keeps (execIpf f s) := h.issue fun _ => h.retire

theorem State.Forms.dropBlocks {ctx base size : Nat} (h : s.Forms) :
    (s.dropBlocks ctx base size).Forms :=
  h.withCores (h.mapCores fun _ hk => ⟨hk.slots, hk.allocs⟩)

theorem State.Forms.dropRaw {ctx base size : Nat} (h : s.Forms) : (s.dropRaw ctx base size).Forms := by
  unfold State.dropRaw
  extract_lets ps hit
  exact .ite h (h.withCores (h.mapCores fun _ hk => ⟨hk.slots, hk.allocs⟩))

theorem State.Forms.dropRange {ctx base size : Nat} (h : s.Forms) : (s.dropRange ctx base size).Forms := h.dropBlocks.dropRaw

theorem State.Forms.raiseOrWait {u : Issuer} {f : FaultInfo} (h : s.Forms) : (s.raiseOrWait u f).Forms := by
  unfold State.raiseOrWait
  split
  · exact h.fetchMiss.stall
  · exact h.raise

theorem State.Forms.stewardMiss {u : Issuer} {m : Miss} {va : Nat} (h : s.Forms) : (s.stewardMiss u m va).Forms := h.raiseOrWait

theorem State.Forms.stewardRead {u : Issuer} {va len : Nat} {k : List Byte → State} (h : s.Forms) (hk : ∀ bs, (k bs).Forms) :
    (s.stewardRead u va len k).Forms := by
  unfold State.stewardRead
  split
  · exact h.raise
  · split
    · exact h.stewardMiss
    · extract_lets older
      split
      · exact h.stall
      · split
        · exact h.stewardMiss
        · exact hk _

theorem State.Forms.stewardWrite {u : Issuer} {va : Nat} {bs : List Byte} {k : State → State} (h : s.Forms) (hk : ∀ t, t.Forms → (k t).Forms) :
    (s.stewardWrite u va bs k).Forms := by
  unfold State.stewardWrite
  split
  · exact hk _ h
  · split
    · exact h.raise
    · split
      · exact h.stewardMiss
      · extract_lets o
        split
        · refine hk _ (h.foldl fun t _ ht => ?_)
          exact ht.getD (.map ht.storeAt fun _ hx => hx)
        · refine .ite h.stall ?_
          dsimp only [State.freshId]
          exact .stall (.modPath (.enterRing (h.frame rfl)))

theorem State.Forms.withCtx {u : Issuer} {b : Opnd} {k : Nat → State} (h : s.Forms) (hk : ∀ n, (k n).Forms) : (s.withCtx u b k).Forms := by
  unfold State.withCtx
  split
  · exact h.raiseHere
  · exact hk _

theorem State.Forms.execCtxload {f : F3} (h : s.Forms) : Keeps (execCtxload f s) := by
  unfold Machine.execCtxload
  refine h.issue fun _ => ?_
  refine h.withCtx fun _ => ?_
  extract_lets va
  split
  · exact h.raise
  · split
    · exact h.raiseProtection
    · refine h.stewardRead fun _ => ?_
      split
      · exact h.raiseHere
      · exact h.modContext.dropBlocks.retire

theorem State.Forms.execCtxsave {f : F3} (h : s.Forms) : Keeps (execCtxsave f s) :=
  h.issue fun _ => h.withCtx fun _ => .ite h.raise (h.stewardWrite fun _ ht => ht.retire)

theorem State.Forms.execCtxkill {f : F3} (h : s.Forms) : Keeps (execCtxkill f s) :=
  h.issue fun _ => h.withCtx fun _ => .ite h.endLaunches.stall (.retire (.dropBlocks (h.endLaunches.frame rfl)))

theorem State.Forms.execCtxmode {f : F3} (h : s.Forms) : Keeps (execCtxmode f s) :=
  h.issue fun _ => h.withCtx fun _ => h.modContext.retire

end

/-! ### Checks of an access -/

section
variable {s : State}

theorem State.Forms.cacheTarget {u : Issuer} {a : Access} {need : Need} (h : s.Forms) : (s.cacheTarget u a need).Forms := by
  unfold State.cacheTarget
  split
  · exact h.cacheRange
  · exact h
  · split
    · exact h.cacheXlate
    · exact h

theorem State.Forms.frameStoreWord {u : Issuer} {slot reg thread lo : Nat} {bs : List Byte} (h : s.Forms) :
    (s.frameStoreWord u slot reg thread lo bs).Forms := by
  unfold State.frameStoreWord
  split
  · exact h.pushWrites
  · refine h.modGroup fun g hg => ?_
    split
    · exact ⟨hg.v⟩
    · exact ⟨Assoc.sorted_put _ _ _ hg.v⟩

theorem State.Forms.frameStore {u : Issuer} {slot reg thread lo : Nat} {bs : List Byte} (h : s.Forms) :
    (s.frameStore u slot reg thread lo bs).Forms :=
  h.foldl fun _ _ ht => ht.frameStoreWord

theorem State.Forms.startOp {u : Issuer} {f : FM} {kind : OpKind} {dst : Option Reg} {lanes todo : List Access} {vals : List (Nat × Nat)}
    (h : s.Forms) :
    (s.startOp u f kind dst lanes todo vals).Forms :=
  .bumpSeq (.enterRing (h.frame rfl))

theorem State.Forms.logRead {u : Issuer} {lines : List (LogKind × Nat)} {value : Nat} (h : s.Forms) : (s.logRead u lines value).Forms :=
  .ite h.logLines.postCalls h

theorem State.Forms.readInTurn {u : Issuer} {lines : List (LogKind × Nat)} {k : State → State} (h : s.Forms) (hk : ∀ t, t.Forms → (k t).Forms) :
    (s.readInTurn u lines k).Forms := by
  unfold State.readInTurn
  split
  · exact hk _ h.logRead
  · exact h.stall

theorem State.Forms.withRoom {u : Issuer} {c : Ctr} {k : State} (h : s.Forms) (hk : k.Forms) : (s.withRoom u c k).Forms :=
  .ite h.stall hk

theorem State.Forms.releaseFirst {u : Issuer} {o : Order} {k : State → State} (h : s.Forms) (hk : ∀ t, t.Forms → (k t).Forms) :
    (s.releaseFirst u o k).Forms := by
  unfold State.releaseFirst
  split
  · exact h.afterRelease hk
  · exact hk _ h

theorem State.Forms.checkLanes {α : Type} {u : Issuer} {uni : Bool} {check : Nat → Except FaultInfo α}
    {k : State → Issuer → List α → State} (h : s.Forms) (hk : ∀ t v l, t.Forms → (k t v l).Forms) :
    (s.checkLanes u uni check k).Forms := by
  unfold State.checkLanes
  extract_lets rs bad faults
  split
  · exact h.fetchMiss.stall
  · exact h.withFaults fun _ _ ht => hk _ _ _ ht

end

/-! ### Loads, stores and fences -/

section
variable {s : State}

theorem State.Forms.globalOp {u : Issuer} {f : FM} {kind : OpKind} {ask : Ask} {index : Bool} {dst : Option Reg} {commits : Bool}
    {data : Nat → Nat × Nat} (h : s.Forms) :
    (s.globalOp u f kind ask index dst commits data).Forms := by
  unfold State.globalOp
  refine h.withRoom (h.releaseFirst fun _ ht => ht.checkLanes fun t _ as ht => ?_)
  extract_lets s1
  have h1 : s1.Forms := ht.foldl fun _ _ ht => ht.cacheTarget
  exact .retire (.startOp (.ite h1.commitRegion h1))

theorem State.Forms.execLdG {f : FM} (h : s.Forms) : Keeps (execLdG f s) := h.issue fun _ => h.globalOp
theorem State.Forms.execStG {f : FM} (h : s.Forms) : Keeps (execStG f s) := h.issue fun _ => h.globalOp

theorem State.Forms.localOp {u : Issuer} {f : FM} {kind : OpKind} {need : Need} {index : Bool} {dst : Option Reg} {commits : Bool}
    {data : Nat → Nat × Nat} (h : s.Forms) :
    (s.localOp u f kind need index dst commits data).Forms := by
  unfold State.localOp
  refine h.withRoom ?_
  refine h.releaseFirst fun _ ht => ?_
  extract_lets len
  refine ht.checkLanes fun _ _ _ ht1 => ?_
  extract_lets waits poison tails vals s1 s2 as
  have h1 : s1.Forms := by
    unfold s1
    split
    · exact ht1
    · refine ht1.foldl fun _ _ ht2 => ?_
      split
      · exact ht2.frameStore
      · exact ht2
  have h2 : s2.Forms := .ite (h1.frame rfl) h1
  exact .ite ht1.stall (.ite ht1.raisePoison (.retire (.startOp (.ite h2.commitRegion h2))))

theorem State.Forms.execLdL {f : FM} (h : s.Forms) : Keeps (execLdL f s) := h.issue fun _ => h.localOp
theorem State.Forms.execStL {f : FM} (h : s.Forms) : Keeps (execStL f s) := h.issue fun _ => h.localOp

theorem State.Forms.execPf {f : FM} (h : s.Forms) : Keeps (execPf f s) := by
  unfold Machine.execPf
  refine h.issue fun u => ?_
  extract_lets one
  have hone : ∀ t l, t.Forms → (one t l).Forms := by
    intro t l ht
    unfold one
    extract_lets va
    split
    · exact ht
    · extract_lets s1
      have h1 : s1.Forms := ht.cacheTarget
      split
      · split
        · exact h1.physLoad
        · exact h1.blockLoad
        · exact h1.getD (.map h1.lentLoad fun _ hx => hx)
        · exact h1
      · split
        · split
          · exact .ite h1.wantRead h1
          · exact h1
        · exact h1
  exact (h.foldl hone).retire

theorem State.Forms.extentOp {u : Issuer} {f : FM} {kind : Nat → OpKind} {need : Need} (h : s.Forms) : (s.extentOp u f kind need).Forms := by
  unfold State.extentOp
  extract_lets d off len va g al size
  refine .ite h.raiseHere (h.withRoom (h.releaseFirst fun _ ht => ?_))
  refine .ite ht.raise (.ite ht.raise (.ite ht.raise ?_))
  split
  · exact ht.raiseOrWait
  · extract_lets s1 s2
    have h1 : s1.Forms := ht.foldl fun _ _ ht => ht.cacheTarget
    have h2 : s2.Forms := .ite h1.acquire h1
    exact h2.startOp.retire

theorem State.Forms.execLdx {f : FM} (h : s.Forms) : Keeps (execLdx f s) := h.issue fun _ => h.extentOp
theorem State.Forms.execStx {f : FM} (h : s.Forms) : Keeps (execStx f s) := h.issue fun _ => h.extentOp

theorem State.Forms.execFence {f : FM} (h : s.Forms) : Keeps (execFence f s) :=
  h.issue fun _ => h.releaseFirst fun _ ht => .ite ht.stall (.retire (.ite ht.acquire ht))

theorem State.Forms.waitOn {u : Issuer} {f : F3} {c : Ctr} {d : Defers} (h : s.Forms) : (s.waitOn u f c d).Forms := by
  unfold State.waitOn
  split
  · exact h.raiseDeferred _ ‹_›
  · exact .ite h.stall h.retire

theorem State.Forms.execWaitLd {f : F3} (h : s.Forms) : Keeps (execWaitLd f s) := h.issue fun _ => h.waitOn
theorem State.Forms.execWaitSt {f : F3} (h : s.Forms) : Keeps (execWaitSt f s) := h.issue fun _ => h.waitOn
theorem State.Forms.execWaitAt {f : F3} (h : s.Forms) : Keeps (execWaitAt f s) := h.issue fun _ => h.waitOn
theorem State.Forms.execWaitCp {f : F3} (h : s.Forms) : Keeps (execWaitCp f s) := h.issue fun _ => h.waitOn
theorem State.Forms.execWaitTt {f : F3} (h : s.Forms) : Keeps (execWaitTt f s) := h.issue fun _ => h.waitOn
theorem State.Forms.execWaitSv {f : F3} (h : s.Forms) : Keeps (execWaitSv f s) := h.issue fun _ => h.waitOn

theorem State.Forms.withRecord {u : Issuer} {f : FM} {k : State → List Byte → State} (h : s.Forms) (hk : ∀ t bs, t.Forms → (k t bs).Forms) :
    (s.withRecord u f k).Forms := by
  unfold State.withRecord
  extract_lets va poisoned
  have hp : ∀ t i, t.Forms → (poisoned t i).Forms := fun _ _ ht => ht.raise
  split
  · exact h.raiseOrWait
  · extract_lets took older
    have ht : ∀ t bs, t.Forms → (took t bs).Forms := fun _ _ ht => hk _ _ ht.logRead
    split
    · exact h.stall
    · split
      · exact h.stall
      · split
        · exact ht _ _ h
        · split
          · split
            next s1 r e =>
            have h1 : s1.Forms := h.blockLoad.fst e
            split
            · exact ht _ _ h1
            · exact hp _ _ h1
            · exact h1.raise
          · split
            · exact ht _ _ h
            · exact hp _ _ h
            · split
              · next s1 bs e => exact ht _ _ (h.freshLoad _ e)
              · next s1 _ _ e =>
                have h1 : s1.Forms := h.freshLoad _ e
                exact h1.raise
              · exact h.request.stall

theorem State.Forms.execCobj {f : FM} (h : s.Forms) : Keeps (execCobj f s) := by
  unfold Machine.execCobj
  refine h.issue fun _ => ?_
  refine h.withRecord fun _ _ ht => ?_
  split
  · exact ht.raiseHere
  · exact .retire (ht.frame rfl)
  · exact .ite ht.raiseHere (.ite ht.observe.retire (.retire (ht.frame rfl)))

theorem State.Forms.execCwin {f : FM} (h : s.Forms) : Keeps (execCwin f s) := by
  unfold Machine.execCwin
  refine h.issue fun _ => ?_
  extract_lets group
  split
  · exact h.stall
  · split
    · exact h.stall
    · refine h.withRecord fun _ _ ht => ?_
      extract_lets win opens
      split
      · exact ht.raiseHere
      · split
        · exact ht.raiseHere
        · extract_lets ranges s1
          have h1 : s1.Forms := ht.modContext
          split
          · exact ht.fetchMiss.stall
          · exact (h1.foldl fun _ _ ht1 => ht1.dropRange).retire

theorem State.Forms.cctlLine {u : Issuer} {va : Nat} (h : s.Forms) : ∀ t, s.cctlLine u va = .error t → t.Forms := by
  intro t e
  unfold State.cctlLine at e
  split at e
  · cases e
  · split at e
    · split at e
      · cases e
        exact h.fetchMiss.stall
      · cases e
    · cases e

theorem State.Forms.afterAcquires {u : Issuer} {k : State} (h : s.Forms) (hk : k.Forms) : (s.afterAcquires u k).Forms :=
  .ite hk h.stall

theorem State.Forms.execCctlL1inv {f : FM} (h : s.Forms) : Keeps (execCctlL1inv f s) := by
  unfold Machine.execCctlL1inv
  refine h.issue fun u => h.afterAcquires ?_
  split
  · next e => exact h.cctlLine _ e
  · refine .retire ?_
    split
    · exact h.dropCopy
    · exact h

theorem State.Forms.execCctlL1all {f : FM} (h : s.Forms) : Keeps (execCctlL1all f s) :=
  h.issue fun _ => h.afterAcquires (.retire (.ite (h.modCore fun _ hk => ⟨hk.slots, hk.allocs⟩) h))

theorem State.Forms.execCctlRlcev {f : FM} (h : s.Forms) : Keeps (execCctlRlcev f s) := by
  unfold Machine.execCctlRlcev
  refine h.issue fun u => ?_
  split
  · next e => exact h.cctlLine _ e
  · exact h.evict.retire
  · exact h.retire

end

/-! ### What the engines read and write -/

section
variable {s : State}

theorem State.Forms.modCmd {id : Nat} {f : Cmd → Cmd} (h : s.Forms) : (s.modCmd id f).Forms := h.frame rfl

theorem State.Forms.kept {α : Type} {f : FaultInfo} {p : α → Prop} (h : s.Forms) : Reach.Forms p (s.kept f) := by
  unfold State.kept
  split
  · exact h.fetchMiss
  · exact trivial

theorem State.Forms.logEngine {c : Cmd} {t : Target} {v : Nat} {err : (Option (Byte × Nat))} (h : s.Forms) : (s.logEngine c t v err).Forms :=
  h.logEntry

theorem State.Forms.logScratch {c : Cmd} {off n : Nat} (h : s.Forms) : (s.logScratch c off n).Forms := h.foldl fun _ _ ht => ht.logEngine

theorem State.Forms.logFault {id : Nat} {c : Cmd} {f : FaultInfo} (h : s.Forms) : (s.logFault id c f).Forms := by
  unfold State.logFault
  split
  · exact h
  · split
    · exact h.logEngine
    · exact h

theorem State.Forms.askFor {id : Nat} {c : Cmd} {l : Nat × Nat} (h : s.Forms) : (s.askFor id c l).Forms :=
  .wantRead (.ite h h.modCmd)

theorem State.Forms.engineReadLine {id : Nat} {c : Cmd} {va n align : Nat} {pool : Bool} (h : s.Forms) :
    Reach.Forms (fun x => x.1.Forms) (s.engineReadLine id c va n align pool) := by
  unfold State.engineReadLine
  extract_lets cut
  split
  · split
    · exact h.askFor
    · exact trivial
    · exact h.logEngine.modCmd
  · split
    · exact h.kept
    · split
      · exact h
      · split
        · split
          · exact trivial
          · exact h.logEngine
        · split
          · split
            · next s1 bs e =>
              have h1 : s1.Forms := h.blockLoad.fst e
              exact h1.logEngine
            · exact trivial
            · exact trivial
          · split
            · next s1 bs e =>
              have h1 : s1.Forms := h.loadAt _ e
              exact h1.logEngine
            · exact trivial
            · exact h.askFor

theorem State.Forms.engineRead {id : Nat} {c : Cmd} {l : Loc} {n align : Nat} {pool : Bool} (h : s.Forms) :
    Reach.Forms (fun x => x.1.Forms) (s.engineRead id c l n align pool) := by
  unfold State.engineRead
  split
  · split
    · exact trivial
    · split
      · exact h
      · exact h.logScratch
  · extract_lets one blocked
    have hone : ∀ t p, t.Forms → Reach.Forms (fun x => x.1.Forms) (one t p) := fun _ _ ht => ht.engineReadLine
    have hblocked : AllSome (Reach.Forms fun x => x.1.Forms) blocked := AllSome.findSome? fun p => by
      split
      · exact .none
      · exact .some (hone _ _ h)
    clear_value blocked
    split
    · exact hblocked _ rfl
    · refine List.foldlRecOn _ _ (motive := Reach.Forms fun x : State × List Byte => x.1.Forms) h fun acc hacc p _ => ?_
      cases acc with
      | done x =>
        dsimp only
        split
        · next e => exact (hone _ p hacc).of_done (p := fun x => x.1.Forms) e
        · exact hone _ p hacc
      | wait t => exact hacc
      | fault f => trivial

theorem State.Forms.dropTarget {core : Nat} {t : Target} (h : s.Forms) : (s.dropTarget core t).Forms := by
  unfold State.dropTarget
  split
  · exact h.dropCopy
  · exact h

theorem State.Forms.engineOp {id : Nat} {c : Cmd} {kind : OpKind} {a : Access} (h : s.Forms) : (s.engineOp id c kind a).Forms :=
  .modCmd (h.frame rfl)

theorem State.Forms.countersDone {id : Nat} {c : Cmd} (h : s.Forms) : (s.countersDone id c).Forms := h.foldl fun _ _ ht => ht.counterDone

theorem State.Forms.writeKept? {id : Nat} {c : Cmd} {va n : Nat} {pool : Bool} (h : s.Forms) :
    AllSome (Reach.Forms State.Forms) (s.writeKept? id c va n pool) := by
  unfold State.writeKept?
  split
  · exact .some h.kept
  · split
    · exact .some h
    · exact .map h.counterKept? fun _ ht => ht
  · exact .none

theorem State.Forms.engineWriteLine {id : Nat} {c : Cmd} {va : Nat} {bs : List Byte} {pool : Bool} (h : s.Forms) :
    Reach.Forms State.Forms (s.engineWriteLine id c va bs pool) := by
  unfold State.engineWriteLine
  split
  · exact h.kept
  · split
    · extract_lets off touched
      split
      next s1 r e =>
      have h1 : s1.Forms := h.writeBlock.fst e
      split
      · exact h1.logEngine.markTarget
      · trivial
      · trivial
      · trivial
    · split
      · split
        · next s1 _ _ e =>
          have h1 : s1.Forms := h.storeAt _ e
          exact h1.dropTarget.logEngine.markTarget
        · exact h
      · exact h.engineOp

theorem State.Forms.engineWrite {id : Nat} {c : Cmd} {l : Loc} {bs : List Byte} {pool : Bool} (h : s.Forms) :
    Reach.Forms State.Forms (s.engineWrite id c l bs pool) := by
  unfold State.engineWrite
  split
  · split
    · exact h
    · exact h.scratchWrite.logScratch
  · extract_lets parts
    split
    · next r e => exact AllSome.findSome? (fun _ => h.writeKept?) r e
    · generalize hr : List.foldl _ _ parts = r
      have hw : Reach.Forms State.Forms r := by
        subst hr
        refine List.foldlRecOn _ _ (motive := Reach.Forms State.Forms) h fun acc hacc p _ => ?_
        cases acc with
        | done t => exact State.Forms.engineWriteLine hacc
        | wait t => exact hacc
        | fault f => trivial
      cases r with
      | done t => exact State.Forms.countersDone hw
      | wait t => exact hw
      | fault f => trivial

theorem State.Forms.engineUpdate {id : Nat} {c : Cmd} {kind : OpKind} {va n x : Nat} {pool : Bool} (h : s.Forms) :
    Reach.Forms State.Forms (s.engineUpdate id c kind va n x pool) := by
  unfold State.engineUpdate
  split
  · exact h.kept
  · extract_lets a
    split
    · exact h.engineOp
    · split
      · exact h
      · trivial
      · next s1 n m e =>
        have h1 : s1.Forms := h.updateAt _ e
        exact h1.dropTarget.logEngine.markTarget

theorem State.Forms.cmdAcquire {c : Cmd} {on : Bool} {scope : Nat} (h : s.Forms) : (s.cmdAcquire c on scope).Forms :=
  .ite h.acquire h

theorem State.Forms.markFaulted {c : Cmd} (h : s.Forms) : (s.markFaulted c).Forms := h.modGroupNamed fun _ hg => ⟨hg.v⟩

theorem State.Forms.endCmd {id : Nat} {c : Cmd} {faulted : Bool} (h : s.Forms) : (s.endCmd id c faulted).Forms := by
  unfold State.endCmd
  extract_lets s1 s2 s3
  have h2 : s2.Forms := .frame (s := s1) h.modRingsNamed rfl
  have h3 : s3.Forms := .cancelTurn (.ite h2.markFaulted h2)
  exact .ite h3 h3.logEntry.postCalls

theorem State.Forms.stopCmd {id : Nat} {c : Cmd} {f : FaultInfo} (h : s.Forms) : (s.stopCmd id c f).Forms := by
  unfold State.stopCmd
  split
  next now s1 e =>
  have h1 : s1.Forms := h.logFault.endCmd.freshId.snd e
  split
  · exact h1.answer
  · split
    · exact h1
    · exact .ite h1.countErrors (h1.modGroupNamed fun _ hg => ⟨hg.v⟩)

theorem State.Forms.meetFault {id : Nat} {c : Cmd} {f : FaultInfo} (h : s.Forms) : (s.meetFault id c f).Forms :=
  .ite h.endContext.logFault.endCmd (.ite h.modCmd.postFault h.stopCmd)

theorem Keeps.outcome {r : Reach State} (hr : Reach.Forms State.Forms r) : Keeps (Reach.outcome r s) := by
  unfold Reach.outcome
  cases r with
  | done t => exact .next hr
  | wait t =>
    dsimp only
    split
    · exact .fault
    · exact .next hr
  | fault f => exact .fault

end

/-! ### Records of commands -/

section
variable {s : State}

theorem State.Forms.queueLaunch {r header : List Byte} {after : List Nat} (h : s.Forms) : (s.queueLaunch r header after).Forms := h.frame rfl

end

/-! ### Barriers -/

section
variable {s : State}

theorem State.Forms.arriveAt {c al i : Nat} {slot : Option Nat} {f : Barrier → Barrier} (h : s.Forms) : (s.arriveAt c al i slot f).Forms := by
  unfold State.arriveAt
  split
  · exact h
  · exact .setBarrier (h.modAlloc fun _ ha => ⟨ha.bytes⟩)

theorem State.Forms.withBarrier {u : Issuer} {f : FM} {k : Group → Nat → Barrier → State} (h : s.Forms) (hk : ∀ g i b, (k g i b).Forms) :
    (s.withBarrier u f k).Forms := by
  unfold State.withBarrier
  split
  · exact h.raiseHere
  · extract_lets i older
    split
    · exact h.raiseHere
    · split
      · exact h.stall
      · exact hk _ _ _

theorem State.Forms.execBarInit {f : FM} (h : s.Forms) : Keeps (execBarInit f s) := by
  unfold Machine.execBarInit
  refine h.issue fun u => h.withBarrier fun g i _ => ?_
  extract_lets v b
  refine .ite h.raiseHere (h.releaseFirst fun t ht => ?_)
  refine State.Forms.retire (.wakeBarrier (ht.modAlloc fun a ha => ?_))
  exact ⟨(ha.setBarrier (i := i) (b := b)).bytes⟩

theorem State.Forms.execBarArr {f : FM} (h : s.Forms) : Keeps (execBarArr f s) :=
  h.issue fun _ => h.withBarrier fun _ _ _ => h.releaseFirst fun _ ht => ht.arriveAt.retire

theorem State.Forms.execBarArrDrop {f : FM} (h : s.Forms) : Keeps (execBarArrDrop f s) :=
  h.issue fun _ => h.withBarrier fun _ _ _ => h.releaseFirst fun _ ht => ht.arriveAt.retire

theorem State.Forms.execBarWait {f : FM} (h : s.Forms) : Keeps (execBarWait f s) := by
  unfold Machine.execBarWait
  refine h.issue fun _ => ?_
  refine h.withBarrier fun _ _ _ => ?_
  extract_lets p pass
  have hass : pass.Forms := .retire (.ite h.acquire h)
  split
  · exact h.raise
  · exact hass
  · exact .ite h.raise (.ite hass h.modPath.stall)

theorem State.Forms.execBarTest {f : FM} (h : s.Forms) : Keeps (execBarTest f s) :=
  h.issue fun _ => h.withBarrier fun _ _ _ => h.pushWrites.retire

end

/-! ### Floating point -/

section
variable {s : State}

theorem State.Forms.fpOp1 {u : Issuer} {f : F3} {op : FFmt → Nat → Nat} (h : s.Forms) : (s.fpOp1 u f op).Forms := h.result
theorem State.Forms.fpOp2 {u : Issuer} {f : F3} {op : FFmt → Nat → Nat → Nat} (h : s.Forms) : (s.fpOp2 u f op).Forms := h.result
theorem State.Forms.execFadd {f : F3} (h : s.Forms) : Keeps (execFadd f s) := h.issue fun _ => h.fpOp2
theorem State.Forms.execFsub {f : F3} (h : s.Forms) : Keeps (execFsub f s) := h.issue fun _ => h.fpOp2
theorem State.Forms.execFmul {f : F3} (h : s.Forms) : Keeps (execFmul f s) := h.issue fun _ => h.fpOp2
theorem State.Forms.execFma {f : F3} (h : s.Forms) : Keeps (execFma f s) := h.issue fun _ => h.result
theorem State.Forms.execFmin {f : F3} (h : s.Forms) : Keeps (execFmin f s) := h.issue fun _ => h.fpOp2
theorem State.Forms.execFmax {f : F3} (h : s.Forms) : Keeps (execFmax f s) := h.issue fun _ => h.fpOp2
theorem State.Forms.execFabs {f : F3} (h : s.Forms) : Keeps (execFabs f s) := h.issue fun _ => h.fpOp1
theorem State.Forms.execFneg {f : F3} (h : s.Forms) : Keeps (execFneg f s) := h.issue fun _ => h.fpOp1

theorem State.Forms.fpImmOp {u : Issuer} {f : FI} {wide : Bool} {op : FEnv → FFmt → Nat → Nat → Nat} (h : s.Forms) : (s.fpImmOp u f wide op).Forms :=
  h.result

theorem State.Forms.execFaddF32Imm {f : FI} (h : s.Forms) : Keeps (execFaddF32Imm f s) := h.issue fun _ => h.fpImmOp
theorem State.Forms.execFmulF32Imm {f : FI} (h : s.Forms) : Keeps (execFmulF32Imm f s) := h.issue fun _ => h.fpImmOp
theorem State.Forms.execFaddF64Imm {f : FI} (h : s.Forms) : Keeps (execFaddF64Imm f s) := h.issue fun _ => h.fpImmOp
theorem State.Forms.execFmulF64Imm {f : FI} (h : s.Forms) : Keeps (execFmulF64Imm f s) := h.issue fun _ => h.fpImmOp
theorem State.Forms.fcmpOp {u : Issuer} {f : F3} {c : FCond} (h : s.Forms) : (s.fcmpOp u f c).Forms := h.condResult
theorem State.Forms.execFcmpEq {f : F3} (h : s.Forms) : Keeps (execFcmpEq f s) := h.issue fun _ => h.fcmpOp
theorem State.Forms.execFcmpNe {f : F3} (h : s.Forms) : Keeps (execFcmpNe f s) := h.issue fun _ => h.fcmpOp
theorem State.Forms.execFcmpLt {f : F3} (h : s.Forms) : Keeps (execFcmpLt f s) := h.issue fun _ => h.fcmpOp
theorem State.Forms.execFcmpLe {f : F3} (h : s.Forms) : Keeps (execFcmpLe f s) := h.issue fun _ => h.fcmpOp
theorem State.Forms.execFcmpGt {f : F3} (h : s.Forms) : Keeps (execFcmpGt f s) := h.issue fun _ => h.fcmpOp
theorem State.Forms.execFcmpGe {f : F3} (h : s.Forms) : Keeps (execFcmpGe f s) := h.issue fun _ => h.fcmpOp
theorem State.Forms.execFcmpUn {f : F3} (h : s.Forms) : Keeps (execFcmpUn f s) := h.issue fun _ => h.fcmpOp
theorem State.Forms.execFcmpOrd {f : F3} (h : s.Forms) : Keeps (execFcmpOrd f s) := h.issue fun _ => h.fcmpOp
theorem State.Forms.execFclass {f : F3} (h : s.Forms) : Keeps (execFclass f s) := h.issue fun _ => h.result
theorem State.Forms.execFrnd {f : F3} (h : s.Forms) : Keeps (execFrnd f s) := h.issue fun _ => h.fpOp1
theorem State.Forms.execFcvt {f : F3} (h : s.Forms) : Keeps (execFcvt f s) := h.issue fun _ => h.result
theorem State.Forms.execF2i {f : F3} (h : s.Forms) : Keeps (execF2i f s) := h.issue fun _ => h.result
theorem State.Forms.execI2f {f : F3} (h : s.Forms) : Keeps (execI2f f s) := h.issue fun _ => h.result
theorem State.Forms.execFldexp {f : F3} (h : s.Forms) : Keeps (execFldexp f s) := h.issue fun _ => h.result
theorem State.Forms.execFfrexp {f : F3} (h : s.Forms) : Keeps (execFfrexp f s) := h.issue fun _ => h.fpOp1
theorem State.Forms.execFfrexpExp {f : F3} (h : s.Forms) : Keeps (execFfrexpExp f s) := h.issue fun _ => h.result

theorem State.Forms.sfuOp {u : Issuer} {f : F3} {op : FFmt → FEnv → FVal → Nat} {v : FEnv} (h : s.Forms) : (s.sfuOp u f op v).Forms :=
  h.result

theorem State.Forms.execFrcp {f : F3} (h : s.Forms) : Keeps (execFrcp f s) := h.issue fun _ => h.sfuOp
theorem State.Forms.execFrsq {f : F3} (h : s.Forms) : Keeps (execFrsq f s) := h.issue fun _ => h.sfuOp
theorem State.Forms.execFsqrt {f : F3} (h : s.Forms) : Keeps (execFsqrt f s) := h.issue fun _ => h.sfuOp
theorem State.Forms.execFexp2 {f : F3} (h : s.Forms) : Keeps (execFexp2 f s) := h.issue fun _ => h.sfuOp
theorem State.Forms.execFlog2 {f : F3} (h : s.Forms) : Keeps (execFlog2 f s) := h.issue fun _ => h.sfuOp
theorem State.Forms.execFsin {f : F3} (h : s.Forms) : Keeps (execFsin f s) := h.issue fun _ => h.sfuOp
theorem State.Forms.execFcos {f : F3} (h : s.Forms) : Keeps (execFcos f s) := h.issue fun _ => h.sfuOp

end

/-! ### Block formats -/

section
variable {s : State}

theorem State.Forms.execBfpk {f : F3} (h : s.Forms) : Keeps (execBfpk f s) := h.issue fun _ => h.result
theorem State.Forms.execBfpkPk {f : F3} (h : s.Forms) : Keeps (execBfpkPk f s) := h.issue fun _ => h.result
theorem State.Forms.execBfup {f : F3} (h : s.Forms) : Keeps (execBfup f s) := h.issue fun _ => h.withFaults fun _ _ ht => ht.result
theorem State.Forms.execBfq {f : F3} (h : s.Forms) : Keeps (execBfq f s) := h.issue fun _ => h.result

theorem State.Forms.execFmtset {f : F3} (h : s.Forms) : Keeps (execFmtset f s) :=
  h.issue fun _ => .ite h.raiseHere h.pushWrites.retire

theorem State.Forms.execFmtget {f : F3} (h : s.Forms) : Keeps (execFmtget f s) := h.issue fun _ => h.pushWrites.retire

end

/-! ### Copies -/

section
variable {s : State}

theorem State.Forms.moveBytes {id : Nat} {c : Cmd} {src dst : Loc} {n : Nat} (h : s.Forms) :
    Reach.Forms (fun x => x.1.Forms) (moveBytes s id c src dst n) := by
  unfold Machine.moveBytes
  split
  · exact trivial
  · exact h.engineRead.of_wait ‹_›
  · split
    · exact trivial
    · exact (h.engineRead.of_done ‹_›).engineWrite.of_wait ‹_›
    · exact (h.engineRead.of_done ‹_›).engineWrite.of_done ‹_›

theorem State.Forms.copyStep {id : Nat} {c : Cmd} {k : Nat} (h : s.Forms) : Reach.Forms (fun x => x.1.Forms) (copyStep s id c k) :=
  h.moveBytes

theorem State.Forms.stridedStep {id : Nat} {c : Cmd} {k : Nat} (h : s.Forms) : Reach.Forms (fun x => x.1.Forms) (stridedStep s id c k) :=
  h.moveBytes

theorem State.Forms.gatherStep {id : Nat} {c : Cmd} {k : Nat} (h : s.Forms) : Reach.Forms (fun x => x.1.Forms) (gatherStep s id c k) := by
  unfold Machine.gatherStep
  extract_lets row off x
  split
  · exact (h.moveBytes.of_done ‹_›).modCmd
  · exact h.moveBytes

theorem State.Forms.fillStep {id : Nat} {c : Cmd} {k : Nat} (h : s.Forms) : Reach.Forms (fun x => x.1.Forms) (fillStep s id c k) := by
  unfold Machine.fillStep
  extract_lets n bs
  split
  · exact trivial
  · exact h.engineWrite.of_wait ‹_›
  · exact h.engineWrite.of_done ‹_›

theorem State.Forms.compareStep {id : Nat} {c : Cmd} {k : Nat} (h : s.Forms) : Reach.Forms (fun x => x.1.Forms) (compareStep s id c k) := by
  unfold Machine.compareStep
  split
  · split
    · exact (h.engineWrite.of_done ‹_›).modCmd
    · exact h.engineWrite.of_wait ‹_›
    · exact trivial
  · split
    · exact trivial
    · exact h.engineRead.of_wait ‹_›
    · split
      · exact trivial
      · exact (h.engineRead.of_done ‹_›).engineRead.of_wait ‹_›
      · exact (((h.engineRead.of_done ‹_›).engineRead).of_done ‹_›).modCmd

theorem State.Forms.reduceOne {id : Nat} {c : Cmd} (h : s.Forms) : Reach.Forms (fun x => x.1.Forms) (reduceOne s id c) := by
  unfold Machine.reduceOne
  extract_lets opx n va
  split
  · exact trivial
  · exact h.engineRead.of_wait ‹_›
  · split
    · exact trivial
    · exact (h.engineRead.of_done ‹_›).engineUpdate.of_wait ‹_›
    · exact (h.engineRead.of_done ‹_›).engineUpdate.of_done ‹_›

theorem State.Forms.prefetchStep {id : Nat} {c : Cmd} {k : Nat} (h : s.Forms) : Reach.Forms (fun x => x.1.Forms) (prefetchStep s id c k) := by
  unfold Machine.prefetchStep
  extract_lets n
  split
  · exact h.kept
  · split
    · exact trivial
    · extract_lets missing
      split
      · exact h
      · exact h.foldl fun _ _ ht => ht.askFor

theorem State.Forms.writeBackStep {id : Nat} {c : Cmd} {k : Nat} (h : s.Forms) : Reach.Forms (fun x => x.1.Forms) (writeBackStep s id c k) := by
  unfold Machine.writeBackStep
  extract_lets n
  split
  · exact h.kept
  · exact h.kept
  · split
    · exact h
    · extract_lets s'
      have h' : s'.Forms := h.foldl fun _ _ ht => ht.evict
      split <;> exact h'

theorem State.Forms.convertOne {id : Nat} {c : Cmd} (h : s.Forms) : Reach.Forms (fun x => x.1.Forms) (convertOne s id c) := by
  unfold Machine.convertOne
  extract_lets i
  split
  · exact trivial
  · exact h.engineRead.of_wait ‹_›
  · extract_lets out
    split
    · exact trivial
    · exact (h.engineRead.of_done ‹_›).engineWrite.of_wait ‹_›
    · exact (h.engineRead.of_done ‹_›).engineWrite.of_done ‹_›

theorem State.Forms.progress {id kind : Nat} {step : State → Cmd → Reach (State × Nat × Nat)} (h : s.Forms)
    (hstep : ∀ t c, t.Forms → Reach.Forms (fun x => x.1.Forms) (step t c)) :
    Keeps (s.progress id kind step) := by
  unfold State.progress
  split
  · exact .fault
  · split
    · exact .fault
    · extract_lets s0
      have h0 : s0.Forms := .ite h h.cmdAcquire.modCmd
      split
      · exact .next ((hstep _ _ h0).of_done ‹_›).modCmd
      · split
        · exact .fault
        · exact .next ((hstep _ _ h0).of_wait ‹_›)
      · exact .fault

theorem State.Forms.repeatStep {step : State → Cmd → Reach (State × Nat × Nat)} {n : Nat} {c : Cmd} (h : s.Forms)
    (hstep : ∀ t c, t.Forms → Reach.Forms (fun x => x.1.Forms) (step t c)) : Reach.Forms (fun x => x.1.Forms) (repeatStep step n s c) := by
  induction n generalizing s c with
  | zero => exact h
  | succ n ih =>
    unfold Machine.repeatStep
    split
    · next s1 k w e =>
      have h1 : s1.Forms := (hstep _ _ h).of_done e
      extract_lets c
      split
      · exact h1
      · split
        · next e => exact (ih h1).of_done (p := fun x => x.1.Forms) e
        · exact h1
    · exact hstep _ _ h

theorem State.Forms.execCopyKindCopy {cmd bytes : Nat} (h : s.Forms) : Keeps (execCopyKindCopy cmd bytes s) := by
  unfold Machine.execCopyKindCopy
  split
  · exact .fault
  · exact h.progress fun _ _ ht => ht.copyStep

theorem State.Forms.execStridedCopy {cmd bytes : Nat} (h : s.Forms) : Keeps (execStridedCopy cmd bytes s) := by
  unfold Machine.execStridedCopy
  split
  · exact .fault
  · exact h.progress fun _ _ ht => ht.stridedStep

theorem State.Forms.execGather {cmd bytes : Nat} (h : s.Forms) : Keeps (execGather cmd bytes s) := by
  unfold Machine.execGather
  split
  · exact .fault
  · exact h.progress fun _ _ ht => ht.gatherStep

theorem State.Forms.execPoolFill {cmd bytes : Nat} (h : s.Forms) : Keeps (execPoolFill cmd bytes s) := by
  unfold Machine.execPoolFill
  split
  · exact .fault
  · exact h.progress fun _ _ ht => ht.fillStep

theorem State.Forms.execPoolCompare {cmd : Nat} (h : s.Forms) : Keeps (execPoolCompare cmd s) := h.progress fun _ _ ht => ht.compareStep

theorem State.Forms.execPoolReduce {cmd bytes : Nat} (h : s.Forms) : Keeps (execPoolReduce cmd bytes s) :=
  h.progress fun _ _ ht => ht.repeatStep fun _ _ ht1 => ht1.reduceOne

theorem State.Forms.execLeasePrefetch {cmd bytes : Nat} (h : s.Forms) : Keeps (execLeasePrefetch cmd bytes s) := by
  unfold Machine.execLeasePrefetch
  split
  · exact .fault
  · exact h.progress fun _ _ ht => ht.prefetchStep

theorem State.Forms.execLeaseWriteBack {cmd bytes : Nat} (h : s.Forms) : Keeps (execLeaseWriteBack cmd bytes s) := by
  unfold Machine.execLeaseWriteBack
  split
  · exact .fault
  · exact h.progress fun _ _ ht => ht.writeBackStep

theorem State.Forms.execFormatConversion {cmd blocks : Nat} (h : s.Forms) : Keeps (execFormatConversion cmd blocks s) :=
  h.progress fun _ _ ht => ht.repeatStep fun _ _ ht1 => ht1.convertOne

theorem State.Forms.execByteCountPortion {cmd : Nat} (h : s.Forms) : Keeps (execByteCountPortion cmd s) := by
  unfold Machine.execByteCountPortion
  split
  · exact .fault
  · split
    · exact .fault
    · exact .next h.arriveAt.modCmd

theorem State.Forms.execCopyComplete {cmd : Nat} (h : s.Forms) : Keeps (execCopyComplete cmd s) := by
  unfold Machine.execCopyComplete
  split
  · exact .fault
  · split
    · exact .fault
    · extract_lets s1
      have h1 : s1.Forms := h.endCmd.observe
      refine .next ?_
      split
      · exact h1.answer
      · exact h1

end

/-! ### Tile tasks -/

section
variable {s : State}

theorem State.Forms.readOperand {id : Nat} {c : Cmd} {o : TileOperand} {first count k n : Nat} (h : s.Forms) :
    Reach.Forms (fun x => x.1.Forms) (s.readOperand id c o first count k n) := by
  unfold State.readOperand
  extract_lets ftz start steps read
  have hread : Reach.Forms (fun x => x.1.Forms) read := by
    refine List.foldlRecOn _ _ (motive := Reach.Forms fun x : State × List (List (List FVal)) => x.1.Forms) h ?_
    intro acc hacc p _
    cases acc with
    | done x =>
      have hr : Reach.Forms _ (x.1.engineRead id c (start.plus p.1) p.2 o.elem false) := State.Forms.engineRead hacc
      dsimp only
      split
      · next e =>
        split
        · exact hr.of_done e
        · trivial
      · next e => exact hr.of_wait e
      · trivial
    | wait t => exact hacc
    | fault f => trivial
  clear_value read
  cases read with
  | done x => exact hread
  | wait t => exact hread
  | fault f => trivial

theorem State.Forms.execTileTaskStart {cmd : Nat} (h : s.Forms) : Keeps (execTileTaskStart cmd s) := by
  unfold Machine.execTileTaskStart
  split
  · exact .fault
  · extract_lets ordf s1 s2
    have h1 : s1.Forms := .ite h h.cmdAcquire
    have h2 : s2.Forms := .ite (h1.modGroupNamed fun _ hg => ⟨hg.v⟩) h1
    exact .ite .fault (.next (.modCmd (h2.modCore fun _ hk => ⟨hk.slots, hk.allocs⟩)))

theorem State.Forms.advanceTask {id : Nat} {c : Cmd} {rows : Nat} (h : s.Forms) : (s.advanceTask id c rows).Forms := by
  unfold State.advanceTask
  extract_lets last run row
  refine (h.modCore fun k hk => ?_).modCmd
  split
  · exact ⟨hk.slots, hk.allocs⟩
  · exact ⟨hk.slots, hk.allocs⟩

theorem State.Forms.runRows {id : Nat} {c : Cmd} {rows : Nat} (h : s.Forms) : Reach.Forms State.Forms (s.runRows id c rows) := by
  unfold State.runRows
  extract_lets rows1 k n
  split
  · next e => exact h.readOperand.of_wait e
  · trivial
  · next s1 as e =>
    have h1 : s1.Forms := h.readOperand.of_done e
    split
    · next e => exact h1.readOperand.of_wait e
    · trivial
    · next s2 bs e =>
      have h2 : s2.Forms := h1.readOperand.of_done e
      refine State.Forms.advanceTask (h2.modGroupNamed fun g hg => ?_)
      split
      · exact hg
      · exact ⟨hg.v⟩

theorem State.Forms.loadingTask {id : Nat} {c : Cmd} (h : s.Forms) : (s.loadingTask id c).Forms := .ite h h.modCmd

theorem State.Forms.stampTask {id : Nat} {c : Cmd} (h : s.Forms) : Reach.Forms State.Forms (s.stampTask id c) := by
  unfold State.stampTask
  split
  · exact h
  · exact h.engineWrite

theorem State.Forms.endTask {id : Nat} {c : Cmd} (h : s.Forms) : (s.endTask id c).Forms := h.endCmd.observe

theorem State.Forms.execTileTaskComplete {cmd : Nat} (h : s.Forms) : Keeps (execTileTaskComplete cmd s) := by
  unfold Machine.execTileTaskComplete
  split
  · exact .fault
  · split
    · exact .fault
    · split
      · split
        · exact .outcome (h.runRows.of_wait ‹_›).loadingTask
        · exact .outcome h.runRows
        · exact .outcome h.runRows
      · split
        · exact .fault
        · split
          · split
            · exact .fault
            · exact .next h.endTask
          · split
            · exact .next (.ite (h.stampTask.of_done ‹_›).endTask (h.stampTask.of_done ‹_›).modCmd)
            · exact .outcome h.stampTask

theorem State.Forms.execEngineFault {cmd : Nat} (h : s.Forms) : Keeps (execEngineFault cmd s) := by
  unfold Machine.execEngineFault
  split
  · exact .fault
  · split
    · exact .fault
    · split
      · split
        · exact .next h.stopCmd
        · exact .fault
      · split
        · exact .next h.stopCmd
        · exact .fault
      · split
        · split
          · exact .next h.endCmd
          · exact .fault
        · split
          · exact .fault
          · split
            · split
              · exact .next h.meetFault
              · exact .fault
            · exact .fault

end

/-! ### Asynchronous instructions -/

section
variable {s : State}

theorem State.Forms.hurry {ids : List Nat} (h : s.Forms) : (s.hurry ids).Forms := by
  unfold State.hurry
  refine h.foldl fun _ _ ht => ?_
  split
  · exact .ite ht.attempt ht
  · exact ht

theorem State.Forms.following {u : Issuer} {older : State → List Nat} {k : State → State} (h : s.Forms) (hk : ∀ t, t.Forms → (k t).Forms) :
    (s.following u older k).Forms := by
  unfold State.following
  extract_lets s1
  have h1 : s1.Forms := h.hurry
  split
  · exact hk _ h1
  · exact h1.stall

theorem State.Forms.withScratchRecord {u : Issuer} {a : Opnd} {size : Nat} {k : State → Nat → List Byte → State} (h : s.Forms)
    (hk : ∀ t n bs, t.Forms → (k t n bs).Forms) :
    (s.withScratchRecord u a size k).Forms :=
  .ite h.raiseHere (.ite h.raise (.ite h.raise (h.following fun _ ht => ht.readInTurn fun _ ht1 => hk _ _ _ ht1)))

theorem State.Forms.enqueue {u : Issuer} {c : Cmd} {sc : Fin 16} (h : s.Forms) : (s.enqueue u c sc).Forms := by
  unfold State.enqueue
  refine h.withRoom ?_
  split
  · exact h.stall
  · exact .retire (.commitRegion (.enterRing (.modGroup (h.frame rfl) fun _ hg => ⟨hg.v⟩)))

theorem State.Forms.execTenq {f : F3} (h : s.Forms) : Keeps (execTenq f s) := by
  unfold Machine.execTenq
  refine h.issue fun _ => ?_
  refine h.withScratchRecord fun _ _ _ ht => ?_
  extract_lets c g size
  split
  · exact ht.raiseHere
  · split
    · exact ht.raise
    · split
      · exact ht.raise
      · exact ht.enqueue

theorem State.Forms.joinCollective {c : Cmd} (h : s.Forms) : (s.joinCollective c).1.Forms := by
  unfold State.joinCollective
  split
  · exact h
  · exact h.frame rfl

theorem State.Forms.execCpkick {f : F3} (h : s.Forms) : Keeps (execCpkick f s) := by
  unfold Machine.execCpkick
  refine h.issue fun _ => ?_
  refine h.withScratchRecord fun _ _ _ ht => ?_
  extract_lets c kernel al
  split
  · exact ht.raiseHere
  · split
    · exact ht.raise
    · split
      exact .ite ht.enqueue (ht.joinCollective.fst ‹_›).enqueue

theorem State.Forms.afterProducers {u : Issuer} {d : Defers} {ids : List Nat} {k : State} (h : s.Forms) (hk : k.Forms) :
    (s.afterProducers u d ids k).Forms := by
  unfold State.afterProducers
  split
  · exact h.raiseDeferred _ ‹_›
  · exact .ite hk h.modPath.stall

theorem State.Forms.execTwait {f : F3} (h : s.Forms) : Keeps (execTwait f s) :=
  h.issue fun _ => .ite h.raiseHere (h.afterProducers h.acquire.retire)

theorem State.Forms.execArdr {f : F3} (h : s.Forms) : Keeps (execArdr f s) := by
  unfold Machine.execArdr
  refine h.issue fun _ => ?_
  split
  · exact h.afterProducers h.result
  · exact h.raiseHere

theorem State.Forms.execAwr {f : F3} (h : s.Forms) : Keeps (execAwr f s) := by
  unfold Machine.execAwr
  refine h.issue fun u => ?_
  split
  · refine h.afterProducers (State.Forms.retire (h.modGroup fun g hg => ?_))
    exact List.foldlRecOn _ _ hg fun _ hg _ _ => ⟨hg.v⟩
  · exact h.raiseHere

theorem State.Forms.execAzero {f : F3} (h : s.Forms) :
    Keeps (execAzero f s) :=
  h.issue fun _ => h.afterProducers (.retire (h.modGroup fun _ hg => ⟨hg.v⟩))

theorem State.Forms.readHeader_ok {c : Cmd} {r hd : List Byte} {t : State} (h : s.Forms) (e : s.readHeader c r = .ok t hd) : t.Forms := by
  unfold State.readHeader at e
  split at e
  · cases e
  · cases e
  · next e1 =>
    have h1 := h.engineRead.of_done e1
    split at e
    · cases e
    · split at e
      · cases e
        exact h1
      · cases e

theorem State.Forms.readHeader_wait {c : Cmd} {r : List Byte} {t : State} (h : s.Forms) (e : s.readHeader c r = .wait t) : t.Forms := by
  unfold State.readHeader at e
  split at e
  · next e1 =>
    cases e
    exact h.engineRead.of_wait e1
  · cases e
  · split at e
    · cases e
    · split at e
      · cases e
      · cases e

theorem State.Forms.execLaunch {f : F3} (h : s.Forms) : Keeps (execLaunch f s) := by
  unfold Machine.execLaunch
  refine h.issue fun _ => h.withScratchRecord fun _ _ _ ht => ?_
  refine .ite ht.raiseHere (.ite ht.raise (ht.following fun t ht => ?_))
  split
  · next s1 e =>
    have h1 : s1.Forms := ht.readHeader_wait e
    exact h1.stall
  · exact ht.raiseHere
  · exact ht.raise
  · next s1 _ e =>
    have h1 : s1.Forms := ht.readHeader_ok e
    exact .ite h1.stall h1.queueLaunch.commitRegion.retire

theorem State.Forms.execSvc {f : F3} (h : s.Forms) : Keeps (execSvc f s) := by
  unfold Machine.execSvc
  refine h.issue fun _ => ?_
  split
  · exact h.stewardEnter
  · refine h.withScratchRecord fun _ _ _ ht => ht.withRoom ?_
    dsimp only [State.freshId]
    refine .postCalls (.endClause (.commitRegion (.enterRing ?_)))
    exact .modGroup (ht.frame rfl) fun _ hg => ⟨hg.v⟩

end

/-! ### Atomics and reductions -/

section
variable {s : State}

theorem State.Forms.atomG {u : Issuer} {f : FM} {op : AtomOp} (h : s.Forms) : (s.atomG u f op).Forms := h.globalOp
theorem State.Forms.atomL {u : Issuer} {f : FM} {op : AtomOp} (h : s.Forms) : (s.atomL u f op).Forms := h.localOp
theorem State.Forms.reduce {u : Issuer} {f : FM} {op : AtomOp} (h : s.Forms) : (s.reduce u f op).Forms := h.globalOp
theorem State.Forms.execAtomAdd {f : FM} (h : s.Forms) : Keeps (execAtomAdd f s) := h.issue fun _ => h.atomG
theorem State.Forms.execAtomMinN {f : FM} (h : s.Forms) : Keeps (execAtomMinN f s) := h.issue fun _ => h.atomG
theorem State.Forms.execAtomMaxN {f : FM} (h : s.Forms) : Keeps (execAtomMaxN f s) := h.issue fun _ => h.atomG
theorem State.Forms.execAtomMinS {f : FM} (h : s.Forms) : Keeps (execAtomMinS f s) := h.issue fun _ => h.atomG
theorem State.Forms.execAtomMaxS {f : FM} (h : s.Forms) : Keeps (execAtomMaxS f s) := h.issue fun _ => h.atomG
theorem State.Forms.execAtomAnd {f : FM} (h : s.Forms) : Keeps (execAtomAnd f s) := h.issue fun _ => h.atomG
theorem State.Forms.execAtomOr {f : FM} (h : s.Forms) : Keeps (execAtomOr f s) := h.issue fun _ => h.atomG
theorem State.Forms.execAtomXor {f : FM} (h : s.Forms) : Keeps (execAtomXor f s) := h.issue fun _ => h.atomG
theorem State.Forms.execAtomExch {f : FM} (h : s.Forms) : Keeps (execAtomExch f s) := h.issue fun _ => h.atomG
theorem State.Forms.execAtomCas {f : FM} (h : s.Forms) : Keeps (execAtomCas f s) := h.issue fun _ => h.atomG
theorem State.Forms.execAtomAddF {f : FM} (h : s.Forms) : Keeps (execAtomAddF f s) := h.issue fun _ => h.atomG
theorem State.Forms.execAtomMinF {f : FM} (h : s.Forms) : Keeps (execAtomMinF f s) := h.issue fun _ => h.atomG
theorem State.Forms.execAtomMaxF {f : FM} (h : s.Forms) : Keeps (execAtomMaxF f s) := h.issue fun _ => h.atomG
theorem State.Forms.execAtomLAdd {f : FM} (h : s.Forms) : Keeps (execAtomLAdd f s) := h.issue fun _ => h.atomL
theorem State.Forms.execAtomLMinN {f : FM} (h : s.Forms) : Keeps (execAtomLMinN f s) := h.issue fun _ => h.atomL
theorem State.Forms.execAtomLMaxN {f : FM} (h : s.Forms) : Keeps (execAtomLMaxN f s) := h.issue fun _ => h.atomL
theorem State.Forms.execAtomLMinS {f : FM} (h : s.Forms) : Keeps (execAtomLMinS f s) := h.issue fun _ => h.atomL
theorem State.Forms.execAtomLMaxS {f : FM} (h : s.Forms) : Keeps (execAtomLMaxS f s) := h.issue fun _ => h.atomL
theorem State.Forms.execAtomLAnd {f : FM} (h : s.Forms) : Keeps (execAtomLAnd f s) := h.issue fun _ => h.atomL
theorem State.Forms.execAtomLOr {f : FM} (h : s.Forms) : Keeps (execAtomLOr f s) := h.issue fun _ => h.atomL
theorem State.Forms.execAtomLXor {f : FM} (h : s.Forms) : Keeps (execAtomLXor f s) := h.issue fun _ => h.atomL
theorem State.Forms.execAtomLExch {f : FM} (h : s.Forms) : Keeps (execAtomLExch f s) := h.issue fun _ => h.atomL
theorem State.Forms.execAtomLCas {f : FM} (h : s.Forms) : Keeps (execAtomLCas f s) := h.issue fun _ => h.atomL
theorem State.Forms.execAtomLAddF {f : FM} (h : s.Forms) : Keeps (execAtomLAddF f s) := h.issue fun _ => h.atomL
theorem State.Forms.execAtomLMinF {f : FM} (h : s.Forms) : Keeps (execAtomLMinF f s) := h.issue fun _ => h.atomL
theorem State.Forms.execAtomLMaxF {f : FM} (h : s.Forms) : Keeps (execAtomLMaxF f s) := h.issue fun _ => h.atomL
theorem State.Forms.execRedAdd {f : FM} (h : s.Forms) : Keeps (execRedAdd f s) := h.issue fun _ => h.reduce
theorem State.Forms.execRedMinN {f : FM} (h : s.Forms) : Keeps (execRedMinN f s) := h.issue fun _ => h.reduce
theorem State.Forms.execRedMaxN {f : FM} (h : s.Forms) : Keeps (execRedMaxN f s) := h.issue fun _ => h.reduce
theorem State.Forms.execRedMinS {f : FM} (h : s.Forms) : Keeps (execRedMinS f s) := h.issue fun _ => h.reduce
theorem State.Forms.execRedMaxS {f : FM} (h : s.Forms) : Keeps (execRedMaxS f s) := h.issue fun _ => h.reduce
theorem State.Forms.execRedAnd {f : FM} (h : s.Forms) : Keeps (execRedAnd f s) := h.issue fun _ => h.reduce
theorem State.Forms.execRedOr {f : FM} (h : s.Forms) : Keeps (execRedOr f s) := h.issue fun _ => h.reduce
theorem State.Forms.execRedXor {f : FM} (h : s.Forms) : Keeps (execRedXor f s) := h.issue fun _ => h.reduce
theorem State.Forms.execRedAddF {f : FM} (h : s.Forms) : Keeps (execRedAddF f s) := h.issue fun _ => h.reduce
theorem State.Forms.execRedMinF {f : FM} (h : s.Forms) : Keeps (execRedMinF f s) := h.issue fun _ => h.reduce
theorem State.Forms.execRedMaxF {f : FM} (h : s.Forms) : Keeps (execRedMaxF f s) := h.issue fun _ => h.reduce

end

/-! ### Coherence between packages -/

section
variable {s : State}

theorem State.Forms.leave {e : Nat} (h : s.Forms) : (s.leave e).Forms := by
  unfold State.leave
  split
  · exact h
  · extract_lets s1 b
    have h1 : s1.Forms := (h.foldl fun _ _ ht => ht.evict).dropLentCopies
    split
    · exact h1
    · exact .ite h1 (.ite h1.modBorrowed.send (.ite h1.modBorrowed.send h1.modBorrowed))

theorem State.Forms.drop {e st message : Nat} (h : s.Forms) : (s.drop e st message).Forms := h.modBorrowed.dropLentCopies.leave
theorem State.Forms.loaded {e level : Nat} (h : s.Forms) : (s.loaded e level).Forms := h.modBorrowed.observe

theorem State.Forms.performWaiting {e line : Nat} (h : s.Forms) : (s.performWaiting e line).Forms := by
  unfold State.performWaiting
  extract_lets waiting
  refine h.foldl fun _ _ ht => ?_
  refine ht.foldl fun _ _ ht1 => ?_
  split
  · exact ht1
  · exact ht1.getD ht1.perform?

theorem State.Forms.failWaiting {e line : Nat} (h : s.Forms) : (s.failWaiting e line).Forms :=
  .foldl (h.landAt.frame rfl) fun _ _ ht => ht.foldl fun _ _ ht1 => ht1.settle

theorem State.Forms.answerSnoop {src e line : Nat} {l : RlcLine} {inv : Bool} (h : s.Forms) : (s.answerSnoop src e line l inv).Forms :=
  .send (.ite h.setLine (.ite h.dropLine h.setLine))

theorem State.Forms.snooped {src line level : Nat} {inv : Bool} (h : s.Forms) : (s.snooped src line level inv).Forms := by
  unfold State.snooped
  split
  · exact h.send
  · extract_lets s1 inv1
    have h1 : s1.Forms := h.loaded
    split
    · exact h1.send
    · exact .ite h1.setLine.send (.ite h1.answerSnoop.leave h1.setLine)

theorem State.Forms.execBisnpinv {src line load : Nat} (h : s.Forms) : Keeps (execBisnpinv src line load s) :=
  h.receive fun _ ht => .next ht.snooped

theorem State.Forms.execBisnpshr {src line load : Nat} (h : s.Forms) : Keeps (execBisnpshr src line load s) :=
  h.receive fun _ ht => .next ht.snooped

theorem State.Forms.execBiconflictack {src line : Nat} (h : s.Forms) : Keeps (execBiconflictack src line s) := by
  unfold Machine.execBiconflictack
  refine h.receive fun _ ht => ?_
  split
  · exact .next ht.send
  · split
    · exact .next ht.send
    · split
      · extract_lets l
        split
        · exact .next ht.setLine.send
        · split
          · exact .next ht.answerSnoop.leave
          · exact .next ht.setLine
      · exact .fault

theorem State.Forms.arrived {e line : Nat} (h : s.Forms) : (s.arrived e line).Forms := by
  unfold State.arrived
  extract_lets came _ s1 s2
  have h1 : s1.Forms := .performWaiting (.frame (h.landAt (e := e) (line := line) (data := came)) rfl)
  have h2 : s2.Forms := by
    unfold s2
    split
    · exact .ite h1.evict h1
    · exact h1
  exact h2.leave

theorem State.Forms.execCmpS {src line : Nat} {bytes : Option Line} {load : Nat} (h : s.Forms) : Keeps (execCmpS src line bytes load s) := by
  unfold Machine.execCmpS
  refine h.receive fun _ ht => ?_
  split
  · exact .fault
  · extract_lets s1
    have h1 : s1.Forms := ht.loaded
    split
    · exact .fault
    · split
      · exact .next h1.setLine.arrived
      · split
        · exact .next h1.failWaiting.dropLine.leave
        · exact .fault

theorem State.Forms.execCmpE {src line : Nat} {bytes : Option Line} {load : Nat} (h : s.Forms) : Keeps (execCmpE src line bytes load s) := by
  unfold Machine.execCmpE
  refine h.receive fun _ ht => ?_
  split
  · exact .fault
  · extract_lets s1
    have h1 : s1.Forms := ht.loaded
    split
    · exact .fault
    · split
      · exact .next h1.setLine.arrived
      · split
        · exact .next h1.setLine.arrived
        · exact .fault

theorem State.Forms.execCmp {src line load : Nat} {err : Bool} (h : s.Forms) : Keeps (execCmp src line load err s) := by
  unfold Machine.execCmp
  refine h.receive fun _ ht => ?_
  split
  · exact .fault
  · extract_lets s1
    have h1 : s1.Forms := ht.loaded
    split
    · exact .fault
    · split
      · split
        · exact .next h1.dropLine.leave
        · exact .fault
      · extract_lets s3 l s2
        have h3 : s3.Forms := h1.ack
        have h2 : s2.Forms := h3.setLine
        split
        · exact .next h2
        · split
          · exact .next h2.answerSnoop.leave
          · exact .next (.leave (.ite h2.evict h2))

theorem State.Forms.execRequestTimeout {bix : Nat} (h : s.Forms) : Keeps (execRequestTimeout bix s) := by
  unfold Machine.execRequestTimeout
  extract_lets late st
  split
  · exact .next h.lenderLost
  · exact .fault

theorem State.Forms.passWindow {entry n : Nat} (h : s.Forms) : (s.passWindow entry n).Forms := by
  induction n generalizing s with
  | zero => exact h
  | succ n ih =>
    unfold State.passWindow
    split
    · exact h
    · extract_lets now spent
      split
      · exact h
      · next line r rest _ =>
        extract_lets n s1 r' s2
        have h1 : s1.Forms := h.modLent
        have h2 : s2.Forms := by
          unfold s2
          clear_value r'
          split
          · exact .ite h1.homeWr h1.homeRequest
          · exact h1.homeRequest
        exact .ite h (ih h2)

theorem State.Forms.remoteRequest {src line : Nat} {r : HomeReq} (h : s.Forms) : (s.remoteRequest src line r).Forms := by
  unfold State.remoteRequest
  split
  · exact h
  · split
    · exact h.refuse
    · exact .ite h.modLent.passWindow h.refuse

theorem State.Forms.execRds {src line : Nat} (h : s.Forms) : Keeps (execRds src line s) := h.receive fun _ ht => .next ht.remoteRequest

theorem State.Forms.execRdown {src line : Nat} {wantsData : Bool} (h : s.Forms) : Keeps (execRdown src line wantsData s) :=
  h.receive fun _ ht => .next ht.remoteRequest

theorem State.Forms.execWr {src line : Nat} {bytes : Line} {mask : DWord} (h : s.Forms) : Keeps (execWr src line bytes mask s) :=
  h.receive fun _ ht => .next ht.remoteRequest

theorem State.Forms.execEvct {src line : Nat} (h : s.Forms) : Keeps (execEvct src line s) := by
  unfold Machine.execEvct
  refine h.receive fun _ ht => ?_
  split
  · exact .next ht
  · exact .next ht.setDir.send

theorem State.Forms.snoopAnswer {src line : Nat} {keepsS : Bool} (h : s.Forms) : (s.snoopAnswer src line keepsS).Forms :=
  .ite h.answered h

theorem State.Forms.execBirspi {src line : Nat} (h : s.Forms) : Keeps (execBirspi src line s) :=
  h.receive fun _ ht => .next ht.snoopAnswer

theorem State.Forms.execBirsps {src line : Nat} (h : s.Forms) : Keeps (execBirsps src line s) :=
  h.receive fun _ ht => .next ht.snoopAnswer

theorem State.Forms.execBiconflict {src line : Nat} (h : s.Forms) : Keeps (execBiconflict src line s) := by
  unfold Machine.execBiconflict
  refine h.receive fun _ ht => ?_
  split
  · exact .next ht.send
  · exact .next ht

theorem State.Forms.execBandwidthWindow {entry : Nat} (h : s.Forms) : Keeps (execBandwidthWindow entry s) := by
  unfold Machine.execBandwidthWindow
  split
  · exact .fault
  · extract_lets late
    split
    · exact .next h.serve.passWindow
    · exact .fault

theorem State.Forms.execSnoopTimeout {line pkg : Nat} (h : s.Forms) : Keeps (execSnoopTimeout line pkg s) := by
  unfold Machine.execSnoopTimeout
  split
  · exact .next h.failBorrower
  · exact .fault

end

/-! ### Leases -/

section
variable {s : State}

theorem State.Forms.leaseEvent {type : Nat} {fields : List Nat} (h : s.Forms) : (s.leaseEvent type fields).Forms := h.postEvent
theorem State.Forms.notice {lid : Word} (h : s.Forms) : (s.notice lid).Forms := h.frame rfl

theorem State.Forms.grantImage {v : Nat} (h : s.Forms) : (s.grantImage v).1.Forms := by
  unfold State.grantImage
  split
  · exact h
  · exact h
  · extract_lets serial lid l l' _ s1 pa s2
    have h1 : s1.Forms := { h with lent := Assoc.sorted_set _ _ h.lent }
    have h2 : s2.Forms := h1.send
    exact .ite h2.send h2

theorem State.Forms.recallLease {lid : Word} (h : s.Forms) : (s.recallLease lid).1.Forms := by
  unfold State.recallLease
  split
  · exact h
  · split
    · exact h
    · exact h.modLent.foldl fun _ _ ht => ht.send

theorem State.Forms.execLsread {f : F3} (h : s.Forms) : Keeps (execLsread f s) :=
  h.issue fun _ => .ite h.raiseHere h.pushWrites.retire

theorem State.Forms.borrowedWrite {e v : Nat} (h : s.Forms) : (s.borrowedWrite e v).Forms := by
  unfold State.borrowedWrite
  extract_lets old s1 b new
  have h1 : s1.Forms := h.modBorrowed
  exact .ite h1.modBorrowed.send (.ite h1 (.ite h1.modBorrowed (.ite h1.drop (.ite h1.drop (.ite h1.modBorrowed h1)))))

theorem State.Forms.execLswrite {f : F3} (h : s.Forms) : Keeps (execLswrite f s) :=
  h.issue fun _ => .ite h.raiseHere (.ite h.raiseProtection (.ite h.borrowedWrite.retire h.retire))

theorem State.Forms.execLsgrant {f : F3} (h : s.Forms) : Keeps (execLsgrant f s) := by
  unfold Machine.execLsgrant
  refine h.issue fun _ => ?_
  extract_lets va
  split
  · exact h.raise
  · refine h.stewardRead fun _ => ?_
    split
    exact (h.grantImage.fst ‹_›).modSteward.retire

theorem State.Forms.execLsrecall {f : F3} (h : s.Forms) : Keeps (execLsrecall f s) := by
  unfold Machine.execLsrecall
  refine h.issue fun _ => ?_
  split
  exact (h.recallLease.fst ‹_›).modSteward.retire

theorem State.Forms.execLreq {src bix sz : Nat} (h : s.Forms) : Keeps (execLreq src bix sz s) :=
  h.receive fun _ ht => .next (.ite ht.leaseEvent.notice ht.leaseEvent)

theorem State.Forms.execGrant {src : Nat} {lid : Word} {sz dur : Nat} {pa : DWord} {bix : Nat} (h : s.Forms) :
    Keeps (execGrant src lid sz dur pa bix s) := by
  unfold Machine.execGrant
  refine h.receive fun _ ht => ?_
  extract_lets b s1
  have h1 : s1.Forms := ht.modBorrowed
  split
  · exact .next h1.send.notice
  · exact .next ht.send

theorem State.Forms.execGack {src : Nat} {lid : Word} (h : s.Forms) : Keeps (execGack src lid s) := by
  unfold Machine.execGack
  refine h.receive fun _ ht => ?_
  split
  · exact .next ht
  · split
    · exact .next ht.modLent
    · exact .next ht

theorem State.Forms.execReject {src : Nat} {lid : Word} (h : s.Forms) : Keeps (execReject src lid s) := by
  unfold Machine.execReject
  refine h.receive fun _ ht => ?_
  split
  · exact .next ht
  · split
    · exact .next (.ite ht.dropBorrower.leaseEvent.notice ht.dropBorrower.leaseEvent)
    · exact .next ht

theorem State.Forms.execRenew {src : Nat} {lid : Word} (h : s.Forms) : Keeps (execRenew src lid s) := by
  unfold Machine.execRenew
  refine h.receive fun _ ht => ?_
  split
  · exact .next ht
  · split
    · exact .next ht.send
    · split
      · exact .next ht
      · split
        · exact .next ht.send
        · split
          · exact .next ht.modLent.send
          · exact .next ht.send

theorem State.Forms.execRenewed {src : Nat} {lid : Word} (h : s.Forms) : Keeps (execRenewed src lid s) := by
  unfold Machine.execRenewed
  refine h.receive fun _ ht => ?_
  split
  · exact .next ht
  · split
    · split
      · exact .next ht.modBorrowed
      · exact .next ht
    · exact .next ht

theorem State.Forms.execRecalling {src : Nat} {lid : Word} (h : s.Forms) : Keeps (execRecalling src lid s) := by
  unfold Machine.execRecalling
  refine h.receive fun _ ht => ?_
  extract_lets s1
  have h1 : s1.Forms := ht.leaseEvent
  split
  · exact .next h1
  · exact .next h1.modBorrowed

theorem State.Forms.expire {e : Nat} (h : s.Forms) : (s.expire e).Forms := .ite h.modBorrowed h.modBorrowed.drop

theorem State.Forms.execGone {src : Nat} {lid : Word} (h : s.Forms) : Keeps (execGone src lid s) := by
  unfold Machine.execGone
  refine h.receive fun _ ht => ?_
  extract_lets s1
  have h1 : s1.Forms := ht.leaseEvent
  split
  · exact .next h1
  · split
    · exact .next h1.expire
    · exact .next h1

theorem State.Forms.execRecall {src : Nat} {lid : Word} {rgr : Nat} (h : s.Forms) : Keeps (execRecall src lid rgr s) := by
  unfold Machine.execRecall
  refine h.receive fun _ ht => ?_
  split
  · exact .next ht
  · split
    · exact .next ht.modBorrowed
    · exact .next ht

theorem State.Forms.execRecallDone {src : Nat} {lid : Word} (h : s.Forms) : Keeps (execRecallDone src lid s) := by
  unfold Machine.execRecallDone
  refine h.receive fun _ ht => ?_
  split
  · exact .next ht
  · split
    · exact .next (.ite ht.dropBorrower.leaseEvent.notice ht.dropBorrower.leaseEvent)
    · exact .next ht

theorem State.Forms.execRelease {src : Nat} {lid : Word} (h : s.Forms) : Keeps (execRelease src lid s) := by
  unfold Machine.execRelease
  refine h.receive fun _ ht => ?_
  split
  · exact .next ht
  · split
    · exact .next ht.dropBorrower.leaseEvent
    · exact .next ht

theorem State.Forms.execGackTimeout {entry : Nat} (h : s.Forms) : Keeps (execGackTimeout entry s) := by
  unfold Machine.execGackTimeout
  split
  · exact .fault
  · extract_lets late
    split
    · exact .fault
    · exact .next (h.foldl fun _ _ ht => ht.failBorrower)

theorem State.Forms.execRenewDue {bix : Nat} (h : s.Forms) : Keeps (execRenewDue bix s) := by
  unfold Machine.execRenewDue
  extract_lets b
  split
  · exact .next h.modBorrowed.send
  · exact .fault

theorem State.Forms.execRenewResend {bix : Nat} (h : s.Forms) : Keeps (execRenewResend bix s) := by
  unfold Machine.execRenewResend
  extract_lets b
  split
  · split
    · exact .next h.modBorrowed.send
    · exact .fault
  · exact .fault

theorem State.Forms.execDeadlineExpiry {bix : Nat} (h : s.Forms) : Keeps (execDeadlineExpiry bix s) := by
  unfold Machine.execDeadlineExpiry
  split
  · exact .next h.expire
  · exact .fault

theorem State.Forms.execRecallDeadline {bix : Nat} (h : s.Forms) : Keeps (execRecallDeadline bix s) := by
  unfold Machine.execRecallDeadline
  extract_lets b
  split
  · exact .next h.drop
  · exact .fault

theorem State.Forms.execLeaseExpiry {entry : Nat} (h : s.Forms) : Keeps (execLeaseExpiry entry s) := by
  unfold Machine.execLeaseExpiry
  split
  · exact .fault
  · split
    · exact .next (h.foldl fun _ _ ht => ht.expireBorrower)
    · exact .fault

theorem State.Forms.execRecallGraceExpiry {entry : Nat} (h : s.Forms) : Keeps (execRecallGraceExpiry entry s) := by
  unfold Machine.execRecallGraceExpiry
  split
  · exact .fault
  · extract_lets s1
    have h1 : s1.Forms := (h.foldl fun _ _ ht => ht.failBorrower).notice
    exact .ite (.next (.ite h1.leaseEvent h1)) .fault

end

/-! ### Placing and retiring groups -/

section
variable {s : State}

theorem State.Forms.sweepTables {c : Nat} (h : s.Forms) : (s.sweepTables c).Forms := by
  unfold State.sweepTables
  exact h.modCore fun _ hk => ⟨hk.slots, hk.allocs⟩

theorem State.Forms.divide {c div : Nat} (h : s.Forms) : (s.divide c div).Forms := by
  refine h.modCore fun k hk => ?_
  split
  · exact ⟨hk.slots, hk.allocs⟩
  · exact hk

theorem State.Forms.createGroup {c : Nat} {l : LaunchRec} {k : Kernel} {alloc n : Nat} (h : s.Forms) : (s.createGroup c l k alloc n).Forms := by
  unfold State.createGroup
  extract_lets s1 r stage pc exec
  have h1 : s1.Forms := h.sweepTables.acquire
  split
  · exact h1
  · split
    next uid s2 e =>
    have h2 : s2.Forms := h1.freshId.snd e
    exact h2.modCore fun _ hk => ⟨Assoc.allVals_set hk.slots ⟨rfl⟩, hk.allocs⟩

theorem State.Forms.createUnit {c : Nat} {l : LaunchRec} {k : Kernel} {first count : Nat} (h : s.Forms) : (s.createUnit c l k first count).Forms := by
  unfold State.createUnit
  extract_lets s1
  have h1 : s1.Forms := h.divide
  split
  next id s2 e =>
  have h2 : s2.Forms := h1.freshId.snd e
  extract_lets at' s3
  have h3 : s3.Forms := h2.modCore fun _ hk => ⟨hk.slots, Assoc.allVals_set hk.allocs .newAlloc⟩
  exact (h3.foldl fun _ _ ht => ht.createGroup).refreshKeys

theorem State.Forms.fuse {q launch div : Nat} (h : s.Forms) :
    (s.fuse q launch div).Forms :=
  h.foldl fun _ _ ht => ht.divide.modCore fun _ hk => ⟨hk.slots, hk.allocs⟩

theorem State.Forms.placeCluster {l : LaunchRec} {k : Kernel} {sh : Shape} {q : Nat} (h : s.Forms) :
    AllSome State.Forms (s.placeCluster l k sh q) := by
  unfold State.placeCluster
  split
  · exact .none
  · extract_lets s1
    have h1 : s1.Forms := .ite h.fuse h
    refine List.foldlRecOn _ _ (motive := AllSome State.Forms) (.some h1) fun o ho i _ => .bind fun t e => ?_
    have ht : t.Forms := ho t e
    intro t' e'
    obtain ⟨c, -, rfl⟩ := Option.map_eq_some_iff.mp e'
    exact ht.createUnit

theorem State.Forms.placeNext {l : LaunchRec} {r : Running} (h : s.Forms) : AllSome (fun x => x.1.Forms) (s.placeNext l r) := by
  unfold State.placeNext
  split
  · exact .none
  · extract_lets sh die qs w c
    split
    · exact .findSome? fun _ => .map h.placeCluster fun _ ht => ht
    · intro x e
      obtain ⟨c, -, rfl⟩ := Option.map_eq_some_iff.mp e
      exact h.createUnit

theorem State.Forms.placed {q : Nat} {l : LaunchRec} {r : Running} {die : Nat} (h : s.Forms) : (s.placed q l r die).Forms := h.frame rfl
theorem State.Forms.moveWork {g : Group} {c sl : Nat} (h : s.Forms) : (s.moveWork g c sl).Forms := h.frame rfl

theorem State.Forms.countRefers {c sl : Nat} (h : s.Forms) : (s.countRefers c sl).Forms := by
  unfold State.countRefers
  split
  · exact h
  · refine h.foldl fun _ _ ht => ?_
    split
    · exact ht.countWait
    · exact ht

theorem State.Forms.restoreGroup {c : Nat} {v : Nat × SavedGroup} (h : s.Forms) (hv : v.2.Forms) : (s.restoreGroup c v).Forms := by
  unfold State.restoreGroup
  extract_lets g sl view tables s1 _ s2 s3
  have h1 : s1.Forms := h.sweepTables.acquire
  have h2 : s2.Forms := { h1 with saved := Assoc.allVals_erase h1.saved }
  have h3 : s3.Forms := by
    refine h2.modCore fun k hk => ⟨Assoc.allVals_set hk.slots ⟨hv.group⟩, ?_⟩
    dsimp only
    split
    · next a e => exact Assoc.allVals_set hk.allocs ⟨hv.alloc a e⟩
    · exact hk.allocs
  exact h3.moveWork.countRefers

theorem State.Forms.restoreUnit {lo n div : Nat} {vs : List (Nat × SavedGroup)} (h : s.Forms) (hvs : ∀ v ∈ vs, v.2.Forms) :
    AllSome State.Forms (s.restoreUnit lo n div vs) := by
  unfold State.restoreUnit
  extract_lets w alloc c
  intro t e
  obtain ⟨c, -, rfl⟩ := Option.map_eq_some_iff.mp e
  exact (List.foldlRecOn vs _ h.divide fun _ ht v hv => State.Forms.restoreGroup ht (hvs v hv)).refreshKeys

theorem State.Forms.resumeGang {launch : Nat} {r : Running} {gang : Nat} (h : s.Forms) : AllSome State.Forms (s.resumeGang launch r gang) := by
  unfold State.resumeGang
  extract_lets sh vs die stopping here
  split
  next lo n _ =>
  extract_lets qs
  have hvs : ∀ v ∈ vs, v.2.Forms := fun v hv => h.saved v (List.mem_filter.mp hv).1
  split
  · exact .none
  · split
    · exact h.restoreUnit hvs
    · refine .findSome? fun q => ?_
      split
      · exact .none
      · refine List.foldlRecOn _ _ (motive := AllSome State.Forms) (.some (.ite h.fuse h)) ?_
        refine fun o ho vs' hvs' => .bind fun t e => ?_
        obtain ⟨u, -, rfl⟩ := List.mem_map.mp hvs'
        exact State.Forms.restoreUnit (ho t e) fun v hv => hvs v (List.mem_filter.mp hv).1

theorem State.Forms.execGroupResume (h : s.Forms) : Keeps (execGroupResume s) := by
  unfold Machine.execGroupResume
  split
  · next e => exact .next (AllSome.findSome? (fun _ => h.resumeGang) _ e)
  · exact .fault

theorem State.Forms.execPlaceUnit (h : s.Forms) : Keeps (execPlaceUnit s) := by
  unfold Machine.execPlaceUnit
  split
  · exact .fault
  · extract_lets go
    have hgo : AllSome State.Forms go := AllSome.findSome? fun x => by
      split
      · exact .none
      · exact .map h.placeNext fun _ hx => hx.placed
    clear_value go
    split
    · exact .next (hgo _ rfl)
    · exact .fault

theorem State.Forms.execLaunchPredCheck {queue entry : Nat} (h : s.Forms) : Keeps (execLaunchPredCheck queue entry s) := by
  unfold Machine.execLaunchPredCheck
  split
  · exact .fault
  · split
    · exact .fault
    · extract_lets reads done _
      refine .next ?_
      split
      · exact h.frame rfl
      · refine h.foldl fun _ _ ht => ?_
        split
        · exact ht
        · exact ht.fetchMiss

theorem State.Forms.leaveAlloc {c alloc : Nat} (h : s.Forms) : (s.leaveAlloc c alloc).Forms := by
  unfold State.leaveAlloc
  split
  · exact h
  · extract_lets a s1
    have h1 : s1.Forms := h.modCore fun _ hk => ⟨hk.slots, Assoc.allVals_erase hk.allocs⟩
    split
    · exact h1
    · next v e =>
      have hv : v.2.Forms := h1.saved v (List.mem_of_find?_eq_some e)
      refine { h1 with saved := Assoc.allVals_set h1.saved ⟨hv.group, fun b hb => ?_⟩ }
      exact (h.core.allocs.get? hb).bytes

theorem State.Forms.unfuse {c : Nat} (h : s.Forms) : (s.unfuse c).Forms := by
  unfold State.unfuse
  split
  · exact h
  · exact .ite h (h.foldl fun _ _ ht => ht.modCore fun _ hk => ⟨hk.slots, hk.allocs⟩)

theorem State.Forms.countRetired {launch : Nat} (h : s.Forms) : (s.countRetired launch).Forms := by
  unfold State.countRetired
  split
  · exact h
  · exact .ite (h.frame rfl) (.frame (.ite h (h.getD h.hwStore)) rfl)

theorem State.Forms.execGroupRetire {gid : Nat} (h : s.Forms) : Keeps (execGroupRetire gid s) := by
  unfold Machine.execGroupRetire
  extract_lets c sl
  split
  · exact .fault
  · split
    · exact .fault
    · extract_lets s1
      have h1 : s1.Forms := h.modCore fun _ hk => ⟨Assoc.allVals_erase hk.slots, hk.allocs⟩
      exact .next h1.leaveAlloc.unfuse.grantClaims.countRetired

theorem State.Forms.execEndComplete {launch : Nat} (h : s.Forms) : Keeps (execEndComplete launch s) := by
  unfold Machine.execEndComplete
  split
  · exact .fault
  · split
    · exact .fault
    · split
      · exact .fault
      · extract_lets base err s1 s2 _ s3 s4
        have h1 : s1.Forms := h.getD h.hwStore
        have h2 : s2.Forms := h1.getD h1.hwStore
        have h3 : s3.Forms := h2.frame rfl
        have h4 : s4.Forms := h3.foldl fun _ _ ht => ht.answer
        exact .next (.ite h4 h4.postEvent)

theorem State.Forms.bitePath {c sl i : Nat} (h : s.Forms) : (s.bitePath c sl i).Forms := by
  unfold State.bitePath
  extract_lets a
  split
  · exact h
  · exact .ite h (.ite h.modPath (.ite (.modPath (.ite h.leaveClause.modPath h)) h.bite))

theorem State.Forms.execWatchdogExpiry {gid : Nat} (h : s.Forms) : Keeps (execWatchdogExpiry gid s) := by
  unfold Machine.execWatchdogExpiry
  extract_lets c sl s1
  have h1 : s1.Forms := .releaseHelpers (h.modGroup fun _ hg => ⟨hg.v⟩)
  split
  · exact .fault
  · extract_lets limit due marked
    split
    · exact .next (h1.foldl fun _ _ ht => ht.bitePath)
    · split
      · exact .fault
      · exact .next (h.foldl fun _ _ ht => ht.bitePath)

end

/-! ### Instructions across lanes -/

section
variable {s : State}

theorem State.Forms.laneResult {u : Issuer} {d : Opnd} {wide : Bool} {sc : Fin 16} {f : Nat → DWord} (h : s.Forms) :
    (s.laneResult u d wide sc f).Forms :=
  h.result

theorem State.Forms.execShfl {f : F3} (h : s.Forms) : Keeps (execShfl f s) := h.issue fun _ => h.laneResult
theorem State.Forms.execBcast {f : F3} (h : s.Forms) : Keeps (execBcast f s) := h.issue fun _ => h.laneResult
theorem State.Forms.execVoteBallot {f : F3} (h : s.Forms) : Keeps (execVoteBallot f s) := h.issue fun _ => h.condResult
theorem State.Forms.execVoteAny {f : F3} (h : s.Forms) : Keeps (execVoteAny f s) := h.issue fun _ => h.laneResult
theorem State.Forms.execVoteAll {f : F3} (h : s.Forms) : Keeps (execVoteAll f s) := h.issue fun _ => h.laneResult
theorem State.Forms.execVoteEq {f : F3} (h : s.Forms) : Keeps (execVoteEq f s) := h.issue fun _ => h.laneResult
theorem State.Forms.execMpop {f : F3} (h : s.Forms) : Keeps (execMpop f s) := h.issue fun _ => h.laneResult
theorem State.Forms.execScan {f : F3} (h : s.Forms) : Keeps (execScan f s) := h.issue fun _ => h.laneResult
theorem State.Forms.execRdx {f : F3} (h : s.Forms) : Keeps (execRdx f s) := h.issue fun _ => h.laneResult

theorem State.Forms.withTable {u : Issuer} {a : Opnd} {size : Nat} {ok : Nat → BitVec 16 → Bool} {old : Option Table}
    {k : State → List (BitVec 16) → State} (h : s.Forms) (hk : ∀ t l, t.Forms → (k t l).Forms) :
    (s.withTable u a size ok old k).Forms := by
  unfold State.withTable
  extract_lets v al room older
  split
  · exact h.raiseHere
  · split
    · exact h.raise
    · split
      · exact h.raise
      · split
        · exact h.stall
        · refine h.readInTurn fun _ ht => ?_
          extract_lets bs es
          split
          · exact ht.raiseHere
          · split
            · split
              · exact hk _ _ ht
              · exact ht.raiseProtection
            · exact hk _ _ ht

theorem State.Forms.execXpat {f : F3} (h : s.Forms) : Keeps (execXpat f s) :=
  h.issue fun _ => h.withTable fun _ _ ht => .retire (ht.modCore fun _ hk => ⟨hk.slots, hk.allocs⟩)

theorem State.Forms.execXbar {f : F3} (h : s.Forms) : Keeps (execXbar f s) := by
  unfold Machine.execXbar
  refine h.issue fun _ => ?_
  split
  · exact h.raiseProtection
  · exact h.laneResult

theorem State.Forms.execVdtab {f : F3} (h : s.Forms) : Keeps (execVdtab f s) :=
  h.issue fun _ => h.withTable fun _ _ ht => .retire (ht.modCore fun _ hk => ⟨hk.slots, hk.allocs⟩)

theorem State.Forms.execVdec {f : F3} (h : s.Forms) : Keeps (execVdec f s) := by
  unfold Machine.execVdec
  refine h.issue fun _ => ?_
  split
  · exact h.raiseProtection
  · exact h.pushWrites.retire

end

/-! ### Saving groups -/

section
variable {s : State}

theorem State.Forms.writeDonew {va status : Nat} (h : s.Forms) : (s.writeDonew va status).Forms := h.getD h.hwStore

theorem State.Forms.haltPath {a : Agent} (h : s.Forms) : (s.haltPath a).Forms := by
  unfold State.haltPath
  split
  · exact h
  · split
    · split
      · exact h.leaveClause.restart
      · split
        · exact h.leaveClause
        · exact h.leaveClause
        · exact h
    · exact .ite h.setPath h

theorem State.Forms.stopGroup {c sl : Nat} (h : s.Forms) : (s.stopGroup c sl).Forms := by
  unfold State.stopGroup
  extract_lets s1 s2 s3
  have h1 : s1.Forms := h.modCore fun _ hk => ⟨hk.slots, hk.allocs⟩
  have h2 : s2.Forms := .releaseHelpers (h1.modGroup fun _ hg => ⟨hg.v⟩)
  have h3 : s3.Forms := by
    unfold s3
    split
    · exact h2.foldl fun _ _ ht => ht.haltPath
    · exact h2
  exact h3.haltPath

theorem State.Forms.stopGroups {r : Preemption} {gs : List (Nat × Nat × Group)} (h : s.Forms) : (s.stopGroups r gs).Forms :=
  .foldl (h.frame rfl) fun _ _ ht => ht.stopGroup

theorem State.Forms.preempt {q : Request} (h : s.Forms) : (s.preempt q).Forms := by
  unfold State.preempt
  extract_lets gs tooSmall s1
  have h1 : s1.Forms := .ite h.modContext h
  exact .ite h1.writeDonew (.ite h1.writeDonew h1.stopGroups)

theorem State.Forms.resumeOnly {q : Request} (h : s.Forms) : (s.resumeOnly q).Forms := by
  unfold State.resumeOnly
  extract_lets s1 free _ s2
  have h1 : s1.Forms := .ite h.modContext h
  have h2 : s2.Forms := by
    refine { h1 with saved := ?_ }
    refine h1.mapSaved fun v hv => ?_
    unfold free
    split
    · exact ⟨hv.group, hv.alloc⟩
    · exact hv
  exact h2.writeDonew

theorem State.Forms.execPreempt {slot : Nat} (h : s.Forms) : Keeps (execPreempt slot s) := by
  unfold Machine.execPreempt
  split
  · exact .fault
  · split
    · exact .fault
    · split
      · exact .next h.preempt.answer
      · exact .next (.answer (.ite h.writeDonew h))

theorem State.Forms.execPreemptResumeOnly {slot : Nat} (h : s.Forms) : Keeps (execPreemptResumeOnly slot s) := by
  unfold Machine.execPreemptResumeOnly
  split
  · exact .fault
  · split
    · exact .fault
    · split
      · exact .next h.resumeOnly.answer
      · exact .next (.answer (.ite h.writeDonew h))

theorem State.Forms.execPreemptHold {slot : Nat} (h : s.Forms) : Keeps (execPreemptHold slot s) := by
  unfold Machine.execPreemptHold
  split
  · exact .fault
  · split
    · exact .fault
    · split
      · exact .next h.preempt.answer
      · exact .next (.answer (.ite h.writeDonew h))

theorem State.Forms.saveGroup {c sl : Nat} (h : s.Forms) : (s.saveGroup c sl).Forms := by
  unfold State.saveGroup
  split
  · exact h
  · next g hg =>
    extract_lets k held given tables
    split
    next order s1 e =>
    have h1 : s1.Forms := h.freshId.snd e
    extract_lets v s2 s3 _ s4 s5
    have h2 : s2.Forms := h1.modCore fun _ hk => ⟨Assoc.allVals_erase hk.slots, hk.allocs⟩
    have h3 : s3.Forms := h2.frame rfl
    have hv : v.Forms := ⟨(h.group hg).v, nofun⟩
    have h4 : s4.Forms := by
      refine { h3 with saved := ?_ }
      refine Assoc.allVals_mapVals (Assoc.allVals_set h3.saved hv) fun w hw => ?_
      unfold tables
      split
      · exact ⟨hw.group, hw.alloc⟩
      · exact hw
    have h5 : s5.Forms := h4.foldl fun _ _ ht => ht.cancelTurn
    exact h5.leaveAlloc.unfuse

theorem State.Forms.settleRequests (h : s.Forms) : s.settleRequests.Forms :=
  .foldl (h.frame rfl) fun _ _ ht => .ite ht ht.writeDonew

theorem State.Forms.execPreemptSave {core : Nat} (h : s.Forms) : Keeps (execPreemptSave core s) := by
  unfold Machine.execPreemptSave
  extract_lets mine
  split
  · exact .next (.settleRequests (.modCore (h.foldl fun _ _ ht => ht.saveGroup) fun _ hk => ⟨hk.slots, hk.allocs⟩))
  · exact .fault

end

/-! ### Command slots -/

section
variable {s : State}

theorem State.Forms.execCmdLaunch {slot : Nat} (h : s.Forms) : Keeps (execCmdLaunch slot s) := by
  unfold Machine.execCmdLaunch
  split
  · exact .fault
  · extract_lets r
    split
    · exact .next h.answer
    · split
      · exact .next h.answer
      · split
        · exact .next h.answer
        · split
          · exact .next h.answer
          · exact .next h.answer
          · next s1 e =>
            split
            · exact .fault
            · exact .next (h.readHeader_wait e)
          · next s1 hd e =>
            have h1 : s1.Forms := h.readHeader_ok e
            split
            · exact .next h1.queueLaunch.answer
            · exact .next (h1.frame rfl)

theorem State.Forms.execCmdLaunchRoom {slot : Nat} (h : s.Forms) : Keeps (execCmdLaunchRoom slot s) := by
  unfold Machine.execCmdLaunchRoom
  split
  · exact .fault
  · extract_lets _ s'
    have h' : s'.Forms := h.frame rfl
    split
    · exact .next h'.answer
    · split
      · exact .fault
      · exact .next h'.queueLaunch.answer

theorem State.Forms.execEndLaunch {slot : Nat} (h : s.Forms) : Keeps (execEndLaunch slot s) := by
  unfold Machine.execEndLaunch
  extract_lets asked
  split
  · exact .fault
  · split
    · exact .next h.answer
    · exact .next h.endLaunch

theorem State.Forms.execUint {slot : Nat} (h : s.Forms) : Keeps (execUint slot s) := by
  unfold Machine.execUint
  split
  · exact .fault
  · extract_lets b ls post _ s1 s2
    have hpost : ∀ g, g.Forms → (post g).Forms := by
      intro g hg
      unfold post
      split
      · exact ⟨hg.v⟩
      · exact hg
    have h1 : s1.Forms := by
      unfold s1
      refine { h with cores := ?_, saved := ?_ }
      · dsimp only
        refine h.mapCores fun k hk => ⟨?_, hk.allocs⟩
        dsimp only
        exact Assoc.allVals_mapVals hk.slots hpost
      · dsimp only
        exact h.mapSaved fun v hv => ⟨(hpost _ ⟨hv.group⟩).v, hv.alloc⟩
    have h2 : s2.Forms := h1.foldl fun _ _ ht => ht.takeInterrupt
    split
    · exact .next h.answer
    · split
      · exact .next h.answer
      · exact .next h2.answer

theorem State.Forms.execFetch {slot : Nat} (h : s.Forms) : Keeps (execFetch slot s) := by
  unfold Machine.execFetch
  split
  · exact .fault
  · extract_lets cls s1 _
    have h1 : s1.Forms := .ite (h.frame rfl) h
    split
    · exact .next h.answer
    · split
      · exact .next h1.answer
      · exact .next (.answer (h1.frame rfl))

theorem State.Forms.modSaved {uid : Nat} {f : SavedGroup → SavedGroup} (h : s.Forms)
    (hf : ∀ v, v.Forms → (f v).Forms) :
    (s.modSaved uid f).Forms :=
  { h with saved := Assoc.allVals_update h.saved hf }

theorem State.Forms.resumeHandle {x : Handle} (h : s.Forms) : (s.resumeHandle x).Forms := by
  unfold State.resumeHandle
  split
  · exact h.acquire.restart.modPath
  · exact h.modSaved fun _ hv => ⟨hv.group, hv.alloc⟩
  · exact h.modSaved fun _ hv => ⟨hv.group, hv.alloc⟩
  · exact h.modCmd

theorem State.Forms.execResume {slot : Nat} (h : s.Forms) : Keeps (execResume slot s) := by
  unfold Machine.execResume
  split
  · exact .fault
  · split
    · exact .next h.resumeHandle.answer
    · exact .next h.answer

theorem State.Forms.referHelper {c n : Nat} {f : FaultInfo} (h : s.Forms) : (s.referHelper c n f).Forms := by
  unfold State.referHelper
  split
  · exact h
  · exact .modCore (h.modGroup fun _ hg => ⟨hg.v⟩) fun _ hk => ⟨hk.slots, hk.allocs⟩

theorem State.Forms.referSaved {uid i : Nat} {f : FaultInfo} (h : s.Forms) : (s.referSaved uid i f).Forms := by
  unfold State.referSaved
  split
  · exact h
  · exact .ite h.endContext (h.modSaved fun _ hv => ⟨hv.group, hv.alloc⟩)

theorem State.Forms.referHandle {x : Handle} (h : s.Forms) : (s.referHandle x).Forms := by
  unfold State.referHandle
  split
  · split
    · exact h
    · exact .ite h.splitGroup h.modPath.countWait
  · exact h.referHelper
  · exact h
  · exact h.referSaved
  · refine h.modSaved fun v hv => ?_
    split
    · exact hv
    · exact ⟨hv.group, hv.alloc⟩
  · exact h.modCmd

theorem State.Forms.execRefer {slot : Nat} (h : s.Forms) : Keeps (execRefer slot s) := by
  unfold Machine.execRefer
  split
  · exact .fault
  · split
    · exact .next h.referHandle.answer
    · exact .next h.answer

theorem State.Forms.forget {handle : Nat} (h : s.Forms) : (s.forget handle).Forms := h.frame rfl

theorem State.Forms.execComplete {slot : Nat} (h : s.Forms) : Keeps (execComplete slot s) := by
  unfold Machine.execComplete
  split
  · exact .fault
  · extract_lets handle status args
    split
    · exact .next h.answer
    · exact .next h.writeCall.logCall.endCmd.forget.modContext.answer

theorem State.Forms.execSvcrst {slot : Nat} (h : s.Forms) : Keeps (execSvcrst slot s) := by
  unfold Machine.execSvcrst
  split
  · exact .fault
  · exact .next (h.foldl fun _ _ ht => ht.writeCall.logCall.endCmd.forget).answer

theorem State.Forms.execCopy {slot : Nat} (h : s.Forms) : Keeps (execCopy slot s) := by
  unfold Machine.execCopy
  split
  · exact .fault
  · extract_lets c k
    split
    · exact .next h.answer
    · split
      · exact .next h.answer
      · exact .next (h.frame rfl)

theorem State.Forms.execRoute {slot : Nat} (h : s.Forms) : Keeps (execRoute slot s) := by
  unfold Machine.execRoute
  split
  · exact .fault
  · extract_lets pkg e _
    split
    · exact .next h.answer
    · exact .next (.answer (h.frame rfl))

theorem State.Forms.execColl {slot : Nat} (h : s.Forms) : Keeps (execColl slot s) := by
  unfold Machine.execColl
  split
  · exact .fault
  · extract_lets i e _
    split
    · exact .next h.answer
    · split
      · exact .next h.answer
      · exact .next (.answer (h.frame rfl))

theorem State.Forms.execMode {slot : Nat} (h : s.Forms) : Keeps (execMode slot s) := by
  unfold Machine.execMode
  split
  · exact .fault
  · split
    · exact .next h.answer
    · exact .next (.answer (h.frame rfl))

theorem State.Forms.execLgrant {slot : Nat} (h : s.Forms) : Keeps (execLgrant slot s) := by
  unfold Machine.execLgrant
  split
  · exact .fault
  · split
    exact .next (h.grantImage.fst ‹_›).answer

theorem State.Forms.execLrecall {slot : Nat} (h : s.Forms) : Keeps (execLrecall slot s) := by
  unfold Machine.execLrecall
  split
  · exact .fault
  · split
    exact .next (h.recallLease.fst ‹_›).answer

end

/-! ### The fabric -/

section
variable {s : State}

theorem State.Forms.setInstance {i : Instance} (h : s.Forms) : (s.setInstance i).Forms := h.frame rfl

theorem State.Forms.sendDown {coll : Nat} {body : MsgBody} (h : s.Forms) : (s.sendDown coll body).Forms :=
  h.foldl fun _ _ ht => ht.sendPort

theorem State.Forms.breakInstance {coll inst : Nat} {cause : Byte} (h : s.Forms) : (s.breakInstance coll inst cause).Forms :=
  .ite h (.ite h.setInstance.sendDown h.setInstance.sendDown.sendPort)

theorem State.Forms.contribute {coll inst len opx : Nat} {sums : List Part} {cmd src : Option Nat} (h : s.Forms) :
    (s.contribute coll inst len opx sums cmd src).Forms :=
  .ite h (.ite h.breakInstance (.ite h.setInstance.sendPort h.setInstance))

theorem State.Forms.execFabricReduce {cmd : Nat} (h : s.Forms) : Keeps (execFabricReduce cmd s) := by
  unfold Machine.execFabricReduce
  refine h.progress fun _ _ ht => ?_
  split
  · split
    · exact ht.engineWrite.of_done ‹_›
    · exact ht.engineWrite.of_wait ‹_›
    · exact trivial
  · split
    · exact ht
    · split
      · exact (ht.engineRead.of_done ‹_›).modCmd.contribute
      · exact ht.engineRead.of_wait ‹_›
      · exact trivial

theorem State.Forms.deliverResult {i : Instance} {bytes : List Byte} (h : s.Forms) : (s.deliverResult i bytes).Forms :=
  .sendDown (.frame (h.foldl fun _ _ ht => ht.modCmd) rfl)

theorem State.Forms.execCollectiveResult {coll inst : Nat} {answer : CollAnswer} (h : s.Forms) : Keeps (execCollectiveResult coll inst answer s) := by
  unfold Machine.execCollectiveResult
  split
  · split
    · exact .fault
    · split
      · exact .fault
      · exact .next h.deliverResult
  · refine h.receive fun _ ht => ?_
    split
    · exact .next ht
    · split
      · exact .next ht
      · exact .next ht.deliverResult
  · exact h.receive fun _ ht => .next ht.breakInstance

theorem State.Forms.execCollectiveTimeout {coll inst : Nat} (h : s.Forms) : Keeps (execCollectiveTimeout coll inst s) := by
  unfold Machine.execCollectiveTimeout
  split
  · exact .fault
  · split
    · exact .next h.breakInstance
    · exact .fault

theorem State.Forms.execChildSum {src coll inst len opx : Nat} {sums : List (Int × Nat)} (h : s.Forms) :
    Keeps (execChildSum src coll inst len opx sums s) := by
  unfold Machine.execChildSum
  refine h.receive fun _ ht => ?_
  split
  · exact .next ht
  · exact .next ht.contribute

theorem State.Forms.rank (h : s.Forms) : s.rank.Forms := h.frame rfl

theorem State.Forms.flood {but : Option Nat} {body : MsgBody} (h : s.Forms) : (s.flood but body).Forms :=
  h.foldl fun _ _ ht => .ite ht ht.sendPort

theorem State.Forms.execHello {port : Nat} {prio : Option Nat} {pkg hops : Nat} (h : s.Forms) : Keeps (execHello port prio pkg hops s) := by
  unfold Machine.execHello
  refine h.receive fun _ ht => ?_
  extract_lets s1 _
  have h1 : s1.Forms := .ite ht ht.flood
  split
  · exact .next h1
  · exact .next (.rank (h1.frame rfl))

theorem State.Forms.execHelloTimer (h : s.Forms) : Keeps (execHelloTimer s) := by
  unfold Machine.execHelloTimer
  split
  · exact .next (.flood (h.frame rfl))
  · exact .fault

theorem State.Forms.execCandidateTimeout {pkg : Nat} (h : s.Forms) : Keeps (execCandidateTimeout pkg s) := by
  unfold Machine.execCandidateTimeout
  split
  · exact .fault
  · split
    · exact .next (.rank (h.frame rfl))
    · exact .fault

theorem State.Forms.execRingmasterTakeover (h : s.Forms) : Keeps (execRingmasterTakeover s) := by
  unfold Machine.execRingmasterTakeover
  split
  · exact .fault
  · split
    · exact .fault
    · exact .next (.foldl (.flood (h.frame rfl)) fun _ _ ht => ht.send)

theorem State.Forms.execClaim {prio pkg : Nat} (h : s.Forms) : Keeps (execClaim prio pkg s) := by
  unfold Machine.execClaim
  refine h.receive fun _ ht => ?_
  split
  · exact .next (ht.frame rfl)
  · exact .next ht

theorem State.Forms.execQuery {src : Nat} (h : s.Forms) : Keeps (execQuery src s) := h.receive fun _ ht => .next ht.send
theorem State.Forms.modListing {pkg : Nat} {f : Listing → Listing} (h : s.Forms) : (s.modListing pkg f).Forms := .ite h (h.frame rfl)

theorem State.Forms.execQreply {src : Nat} {leases : List LentNews} {offered : List Nat} (h : s.Forms) : Keeps (execQreply src leases offered s) :=
  h.receive fun _ ht => .next ht.modListing

theorem State.Forms.execOffer {pkg : Nat} {classes : List Nat} {bandwidth : Nat} (h : s.Forms) : Keeps (execOffer pkg classes bandwidth s) := by
  unfold Machine.execOffer
  refine h.receive fun _ ht => ?_
  extract_lets new _ s1
  have h1 : s1.Forms := ht.frame rfl
  split
  · split
    · exact .next h1.modListing
    · exact .next h1.send
  · split
    · exact .next ht.modListing.send.send
    · exact .next ht

theorem State.Forms.writeRoutes {entries : List (Nat × BitVec 16)} (h : s.Forms) : (s.writeRoutes entries).Forms := h.frame rfl

theorem State.Forms.routeFor {at' dst : Nat} (h : s.Forms) : (s.routeFor at' dst).Forms :=
  .ite h.send (.ite h.writeRoutes h)

theorem State.Forms.execWant {src size : Nat} (h : s.Forms) : Keeps (execWant src size s) := by
  unfold Machine.execWant
  refine h.receive fun t ht => ?_
  split
  · extract_lets lender s1
    have h1 : s1.Forms := by
      unfold s1
      cases lender with
      | none => exact ht
      | some l => exact ht.routeFor.routeFor
    split
    · exact .next h1.leaseEvent
    · exact .next h1.send
  · split
    · exact .next ht.send
    · exact .next ht

theorem State.Forms.execWanted {lender : Option Nat} (h : s.Forms) : Keeps (execWanted lender s) :=
  h.receive fun _ ht => .next ht.leaseEvent

theorem State.Forms.execAxyenRetrain {port : Nat} {ok : Bool} (h : s.Forms) : Keeps (execAxyenRetrain port ok s) := by
  unfold Machine.execAxyenRetrain
  split
  · exact .next (h.frame rfl)
  · exact .fault

theorem State.Forms.execLinkFallback {port : Nat} (h : s.Forms) : Keeps (execLinkFallback port s) := by
  unfold Machine.execLinkFallback
  split
  · exact .next (h.frame rfl)
  · exact .fault

theorem State.Forms.execLinkDown {port : Nat} (h : s.Forms) : Keeps (execLinkDown port s) := by
  unfold Machine.execLinkDown
  split
  · exact .next (h.frame rfl)
  · exact .fault

theorem State.Forms.execLinkUp {port : Nat} (h : s.Forms) : Keeps (execLinkUp port s) := by
  unfold Machine.execLinkUp
  split
  · exact .next (h.frame rfl)
  · exact .fault

theorem State.Forms.execForeignFpidDrop {port fpid : Nat} (h : s.Forms) : Keeps (execForeignFpidDrop port fpid s) := by
  unfold Machine.execForeignFpidDrop
  split
  · exact .next h.dropMessage
  · exact .fault

theorem State.Forms.tellHostFmApi {src : Nat} {command : FmCommand} (h : s.Forms) : (s.tellHostFmApi src command).Forms :=
  .tellHost (h.frame rfl)

theorem State.Forms.fmApi {src : Nat} {cmd : FmCommand} (h : s.Forms) : (s.fmApi src cmd).Forms := by
  unfold State.fmApi
  split
  · exact h.writeRoutes
  · exact h.send
  · exact h
  · exact h

theorem State.Forms.execFmApiCommand {src : Nat} {command : FmCommand} (h : s.Forms) : Keeps (execFmApiCommand src command s) := by
  unfold Machine.execFmApiCommand
  refine h.receive fun _ ht => ?_
  split
  · exact .next ht
  · split
    · exact .next ht.tellHostFmApi
    · exact .next ht.fmApi

theorem State.Forms.execFabricUnreachable {pkg : Nat} (h : s.Forms) : Keeps (execFabricUnreachable pkg s) :=
  .next ((h.failBorrower.foldl fun _ _ ht => ht.lenderLost).foldl fun _ _ ht => ht.breakInstance)

end

/-! ### Checkpoints and replay -/

section
variable {s : State}

theorem State.Forms.execFomarRecord {value : DWord} (h : s.Forms) : Keeps (execFomarRecord value s) := by
  unfold Machine.execFomarRecord
  split
  · exact .next h.hubWrite
  · exact .fault

theorem State.Forms.endCut {gids : List Nat} (h : s.Forms) : (s.endCut gids).Forms := by
  unfold State.endCut
  extract_lets free
  refine { h with saved := ?_ }
  refine h.mapSaved fun v hv => ?_
  unfold free
  split
  · exact ⟨hv.group, hv.alloc⟩
  · exact hv

theorem State.Forms.execFomarCheckpoint (h : s.Forms) : Keeps (execFomarCheckpoint s) := by
  unfold Machine.execFomarCheckpoint
  split
  · split
    · extract_lets gs gids _ s1
      have h1 : s1.Forms := h.frame rfl
      split
      · exact .next h1
      · exact .next h1.stopGroups
    · exact .fault
  · split
    · exact .fault
    · split
      · exact .next h.endCut
      · extract_lets c s1 _ s2
        have h1 : s1.Forms := h.charge
        have hc : Assoc.AllVals SavedGroup.Forms c.groups := Assoc.allVals_filter h.saved
        have h2 : s2.Forms := by
          unfold s2
          split
          · exact { h1 with cks := List.forall_mem_append.mpr ⟨h1.cks, List.forall_mem_singleton.mpr hc⟩ }
          · exact h1
        exact .next h2.endCut

theorem State.Forms.restoreCut {i : Nat} {c : Checkpoint} (h : s.Forms) (hc : Assoc.AllVals SavedGroup.Forms c.groups) :
    (s.restoreCut i c).Forms := by
  unfold State.restoreCut
  extract_lets s1 f mem drop ready tables
  have h1 : s1.Forms := h.foldl fun _ _ ht => ht.cancelTurn
  have hmem : mem.wf :=
    List.foldlRecOn _ _ (motive := fun m : Memory => m.wf) (Memory.wf_overlay _ _ h1.mem) fun _ hm _ _ => Memory.wf_overlay _ _ hm
  have hready : Assoc.AllVals SavedGroup.Forms ready := Assoc.allVals_mapVals hc fun _ hv => ⟨hv.group, hv.alloc⟩
  refine .foldl ?_ fun _ _ ht => ht.modCore fun _ hk => ⟨hk.slots, hk.allocs⟩
  refine { h1 with mem := hmem, cores := ?_, saved := Assoc.allVals_foldl_set hready (Assoc.allVals_filter h1.saved) }
  dsimp only
  exact h1.mapCores fun _ hk => ⟨hk.slots, hk.allocs⟩

theorem State.Forms.execFomarReplay {value : DWord} {checkpoint : Nat} (h : s.Forms) : Keeps (execFomarReplay value checkpoint s) := by
  unfold Machine.execFomarReplay
  split
  · split
    · exact .fault
    · extract_lets _ s1 gs s2
      have h1 : s1.Forms := h.frame rfl
      have h2 : s2.Forms := h1.modContext
      split
      · exact .next h2
      · exact .next h2.stopGroups
  · extract_lets s1
    have h1 : s1.Forms := h.hubWrite
    split
    · exact .fault
    · exact .fault
    · next c _ e =>
      split
      · exact .next (h1.restoreCut (h1.cks _ (List.mem_of_getElem? e)))
      · exact .fault

end

/-! ### Helpers -/

section
variable {s : State}

theorem State.Forms.startChunk {c n ch : Nat} (h : s.Forms) : (s.startChunk c n ch).Forms := by
  unfold State.startChunk
  split
  · exact h
  · split
    · exact h
    · exact .modHelper (h.modGroup fun _ hg => ⟨hg.v⟩)

theorem State.Forms.execChunkComplete {a : Agent} (h : s.Forms) : Keeps (execChunkComplete a s) := by
  unfold Machine.execChunkComplete
  split
  · split
    · exact .fault
    · split
      · split
        · exact .next h.raisePoison
        · extract_lets s1 s2 q
          have h1 : s1.Forms := .ite h.yieldGroup h
          have h2 : s2.Forms := h1.modGroup fun _ hg => ⟨hg.v⟩
          split
          · exact .next h2.releaseHelper
          · split
            · exact .next h2.dropHelper
            · split
              · exact .next h2.startChunk
              · exact .next h2.dropHelper
      · exact .fault
  · exact .fault

theorem State.Forms.makeRecruitment {u : Issuer} {t : Nat} {r : RecruitReq} {entry : PC} {granted : Nat} (h : s.Forms) :
    (s.makeRecruitment u t r entry granted).Forms := by
  unfold State.makeRecruitment
  extract_lets killed q idle s1
  have h1 : s1.Forms := h.modGroup fun _ hg => ⟨hg.v⟩
  refine h1.foldl fun _ _ ht => ?_
  split
  · exact .startChunk (.modCore (ht.frame rfl) fun _ hk => ⟨hk.slots, hk.allocs⟩)
  · exact ht

theorem State.Forms.execRecruit {f : FB} (h : s.Forms) : Keeps (execRecruit f s) := by
  unfold Machine.execRecruit
  refine h.issue fun _ => ?_
  split
  · exact .ite h.raiseHere (.retire (.commitRegion (.logEntry (.pushWrites (.ite h h.makeRecruitment)))))
  · exact h.raiseHere

theorem State.Forms.execHpost {f : F3} (h : s.Forms) : Keeps (execHpost f s) := by
  unfold Machine.execHpost
  refine h.issue fun _ => ?_
  split
  · exact h.modHelper.retire
  · exact h.retire

theorem State.Forms.runSelf {u : Issuer} {t ch : Nat} (h : s.Forms) : (s.runSelf u t ch).Forms :=
  .ite h (.startChunk (.modCore (h.frame rfl) fun _ hk => ⟨hk.slots, hk.allocs⟩))

theorem State.Forms.dropRecruits {c slot : Nat} {ts : List Nat} (h : s.Forms) : (s.dropRecruits c slot ts).Forms := h.modGroup fun _ hg => ⟨hg.v⟩

theorem State.Forms.execHjoin {f : F3} (h : s.Forms) : Keeps (execHjoin f s) := by
  unfold Machine.execHjoin
  extract_lets op _
  refine h.issue fun _ => ?_
  extract_lets rec' qs js faults s'
  have h' : s'.Forms := h.withFaults fun _ _ ht => .retire (.dropRecruits (.ite ht ht.pushWrites))
  split
  · exact h.raiseHere
  · split
    · exact h.runSelf.stall
    · exact .ite h.stall (.ite h' h'.dropRecruits)

theorem State.Forms.execDismiss {f : F3} (h : s.Forms) : Keeps (execDismiss f s) := h.issue fun _ => h.releaseHelpers.retire

end

/-! ### The register pool -/

section
variable {s : State}

theorem State.Forms.execRclaim {f : F3} (h : s.Forms) : Keeps (execRclaim f s) := by
  unfold Machine.execRclaim
  refine h.issue fun u => ?_
  extract_lets n k t
  have ht : t.Forms := h.stall
  exact .ite h.retire (.ite h.raiseHere (.ite h.grantUnits.retire (.ite ht (ht.modCore fun _ hk => ⟨hk.slots, hk.allocs⟩))))

theorem State.Forms.execRgive {f : F3} (h : s.Forms) : Keeps (execRgive f s) := by
  unfold Machine.execRgive
  refine h.issue fun u => ?_
  extract_lets n r ids s1 lose s2
  have h1 : s1.Forms := h.modGroup fun _ hg => ⟨Assoc.sorted_filter _ hg.v⟩
  have h2 : s2.Forms := h1.frame rfl
  refine .ite h.raiseHere (State.Forms.retire (h2.modCore fun k hk => ?_))
  split
  · exact ⟨hk.slots, hk.allocs⟩
  · exact ⟨hk.slots, hk.allocs⟩

theorem State.Forms.execRclaimGrant {core : Nat} (h : s.Forms) : Keeps (execRclaimGrant core s) := by
  unfold Machine.execRclaimGrant
  split
  · exact .next (h.grantOldest _ ‹_›)
  · exact .fault

theorem State.Forms.execRgiveReturn {core entry : Nat} (h : s.Forms) : Keeps (execRgiveReturn core entry s) := by
  unfold Machine.execRgiveReturn
  split
  · exact .fault
  · split
    · exact .fault
    · exact .next (h.modCore fun _ hk => ⟨hk.slots, hk.allocs⟩)

theorem State.Forms.execRegisterClaimDeadlock {core : Nat} (h : s.Forms) : Keeps (execRegisterClaimDeadlock core s) := by
  unfold Machine.execRegisterClaimDeadlock
  extract_lets k
  split
  · exact .fault
  · split
    · exact .fault
    · extract_lets mine live claims s1
      have h1 : s1.Forms := h.modCore fun _ hk => ⟨hk.slots, hk.allocs⟩
      split
      · refine .next ?_
        refine h1.foldl fun _ _ ht => ?_
        split
        · exact ht.raise.groupWoke
        · exact ht
      · exact .fault

end

/-! ### Bring-up and resets -/

section
variable {s : State}

theorem State.Forms.throttleDie {die : Nat} (h : s.Forms) : (s.throttleDie die).Forms := h.frame rfl
theorem State.Forms.hot {dies : List Nat} (h : s.Forms) : (s.hot dies).Forms := h.frame rfl

theorem State.Forms.execThermalThrottle {cause : Heat} (h : s.Forms) : Keeps (execThermalThrottle cause s) := by
  unfold Machine.execThermalThrottle
  split
  · split
    · exact .next h.throttleDie.hot
    · exact .fault
  · split
    · exact .fault
    · exact .next h.throttleDie.hot

theorem State.Forms.execThrottleStepUp {die : Nat} (h : s.Forms) : Keeps (execThrottleStepUp die s) := by
  unfold Machine.execThrottleStepUp
  split
  · exact .next (h.frame rfl)
  · exact .fault

theorem State.Forms.packageReset (_ : s.Forms) : s.packageReset.Forms := State.Forms.reset.frame rfl
theorem State.Forms.execOvertempReset (h : s.Forms) : Keeps (execOvertempReset s) := .next (h.packageReset.frame rfl)
theorem State.Forms.execPackageReset (h : s.Forms) : Keeps (execPackageReset s) := .next h.packageReset

theorem State.Forms.stageAction {boot : BootConfig} {n : Nat} (h : s.Forms) : (s.stageAction boot n).Forms := by
  unfold State.stageAction
  split
  · exact h.frame rfl
  · exact h.frame rfl
  · refine ⟨Memory.wf_clear _ _ h.mem, h.clusters, rfl, rfl, rfl, rfl, ?_, h.saved, nofun⟩
    dsimp only
    exact h.mapCores fun _ hk => ⟨hk.slots, hk.allocs⟩
  · exact h.frame rfl
  · exact h

theorem State.Forms.execBringupStage {good : Bool} {boot : BootConfig} (h : s.Forms) : Keeps (execBringupStage good boot s) := by
  unfold Machine.execBringupStage
  extract_lets n
  split
  · exact .fault
  · split
    · exact .fault
    · split
      · exact .next (h.frame rfl)
      · exact .next (h.stageAction.frame rfl)

theorem State.Forms.tellPort {port : Nat} {body : MsgBody} (h : s.Forms) : (s.tellPort port body).Forms := h.frame rfl

theorem State.Forms.execConfigRequest {port : Nat} (h : s.Forms) : Keeps (execConfigRequest port s) := by
  unfold Machine.execConfigRequest
  split
  · exact .fault
  · split <;> exact .next h.tellPort

theorem State.Forms.execVirtioNotify {port function : Nat} (h : s.Forms) : Keeps (execVirtioNotify port function s) := by
  unfold Machine.execVirtioNotify
  split
  · exact .next (h.frame rfl)
  · exact .fault

theorem State.Forms.barWrite {port function off : Nat} {b : Byte} (h : s.Forms) : (s.barWrite port function off b).Forms :=
  .ite (h.frame rfl) (.ite (.ite (h.frame rfl) h) (.ite (h.frame rfl) h))

theorem State.Forms.execHostBarAccess {port function offset : Nat} {write : Option Byte} (h : s.Forms) :
    Keeps (execHostBarAccess port function offset write s) := by
  unfold Machine.execHostBarAccess
  split
  · exact .fault
  · split
    · exact .next h.barWrite
    · exact .next h.tellPort

theorem State.Forms.execSpdmRequest {block : Nat} (h : s.Forms) : Keeps (execSpdmRequest block s) := by
  unfold Machine.execSpdmRequest
  split
  · exact .fault
  · exact .next (h.frame rfl)

theorem State.Forms.execUncorrectableWord {word : Nat} (h : s.Forms) : Keeps (execUncorrectableWord word s) := by
  unfold Machine.execUncorrectableWord
  split
  · exact .next (h.frame rfl)
  · exact .fault

end

/-- Every instruction and event keeps the forms. -/
theorem State.Forms.exec {s : State} (i : Instr) (h : s.Forms) : Keeps (exec i s) :=
  match i with
  | .add _ => h.execAdd | .sub _ => h.execSub | .min _ => h.execMin | .max _ => h.execMax | .abs _ => h.execAbs | .neg _ => h.execNeg
  | .sel _ => h.execSel | .lea _ => h.execLea | .mul _ => h.execMul | .mulhi _ => h.execMulhi | .mad _ => h.execMad | .dp4 _ => h.execDp4
  | .and _ => h.execAnd | .or _ => h.execOr | .xor _ => h.execXor | .andn _ => h.execAndn | .not _ => h.execNot | .popc _ => h.execPopc
  | .clz _ => h.execClz | .ctz _ => h.execCtz | .shl _ => h.execShl | .shr _ => h.execShr | .sar _ => h.execSar | .rot _ => h.execRot
  | .bfx _ => h.execBfx | .bfi _ => h.execBfi | .brev _ => h.execBrev | .cmpEq _ => h.execCmpEq | .cmpNe _ => h.execCmpNe
  | .cmpLt _ => h.execCmpLt | .cmpLe _ => h.execCmpLe | .cmpGt _ => h.execCmpGt | .cmpGe _ => h.execCmpGe | .add64 _ => h.execAdd64
  | .sub64 _ => h.execSub64 | .cvt _ => h.execCvt | .addImm _ => h.execAddImm | .andImm _ => h.execAndImm | .orImm _ => h.execOrImm
  | .xorImm _ => h.execXorImm | .shlImm _ => h.execShlImm | .shrImm _ => h.execShrImm | .sarImm _ => h.execSarImm
  | .mulImm _ => h.execMulImm | .add64Imm _ => h.execAdd64Imm | .and64Imm _ => h.execAnd64Imm | .or64Imm _ => h.execOr64Imm
  | .xor64Imm _ => h.execXor64Imm | .fadd _ => h.execFadd | .fsub _ => h.execFsub | .fmul _ => h.execFmul | .fma _ => h.execFma
  | .fmin _ => h.execFmin | .fmax _ => h.execFmax | .fabs _ => h.execFabs | .fneg _ => h.execFneg | .fclass _ => h.execFclass
  | .frnd _ => h.execFrnd | .fcvt _ => h.execFcvt | .f2i _ => h.execF2i | .i2f _ => h.execI2f | .fldexp _ => h.execFldexp
  | .ffrexp _ => h.execFfrexp | .ffrexpExp _ => h.execFfrexpExp | .fcmpEq _ => h.execFcmpEq | .fcmpNe _ => h.execFcmpNe
  | .fcmpLt _ => h.execFcmpLt | .fcmpLe _ => h.execFcmpLe | .fcmpGt _ => h.execFcmpGt | .fcmpGe _ => h.execFcmpGe
  | .fcmpUn _ => h.execFcmpUn | .fcmpOrd _ => h.execFcmpOrd | .bfpk _ => h.execBfpk | .bfpkPk _ => h.execBfpkPk | .bfup _ => h.execBfup
  | .bfq _ => h.execBfq | .fmtset _ => h.execFmtset | .fmtget _ => h.execFmtget | .faddF32Imm _ => h.execFaddF32Imm
  | .fmulF32Imm _ => h.execFmulF32Imm | .faddF64Imm _ => h.execFaddF64Imm | .fmulF64Imm _ => h.execFmulF64Imm | .frcp _ => h.execFrcp
  | .frsq _ => h.execFrsq | .fsqrt _ => h.execFsqrt | .fexp2 _ => h.execFexp2 | .flog2 _ => h.execFlog2 | .fsin _ => h.execFsin
  | .fcos _ => h.execFcos | .ldG _ => h.execLdG | .ldL _ => h.execLdL | .ldx _ => h.execLdx | .pf _ => h.execPf | .stG _ => h.execStG
  | .stL _ => h.execStL | .stx _ => h.execStx | .atomAdd _ => h.execAtomAdd | .atomMinN _ => h.execAtomMinN | .atomMaxN _ => h.execAtomMaxN
  | .atomMinS _ => h.execAtomMinS | .atomMaxS _ => h.execAtomMaxS | .atomAnd _ => h.execAtomAnd | .atomOr _ => h.execAtomOr
  | .atomXor _ => h.execAtomXor | .atomExch _ => h.execAtomExch | .atomCas _ => h.execAtomCas | .atomAddF _ => h.execAtomAddF
  | .atomMinF _ => h.execAtomMinF | .atomMaxF _ => h.execAtomMaxF | .atomLAdd _ => h.execAtomLAdd | .atomLMinN _ => h.execAtomLMinN
  | .atomLMaxN _ => h.execAtomLMaxN | .atomLMinS _ => h.execAtomLMinS | .atomLMaxS _ => h.execAtomLMaxS | .atomLAnd _ => h.execAtomLAnd
  | .atomLOr _ => h.execAtomLOr | .atomLXor _ => h.execAtomLXor | .atomLExch _ => h.execAtomLExch | .atomLCas _ => h.execAtomLCas
  | .atomLAddF _ => h.execAtomLAddF | .atomLMinF _ => h.execAtomLMinF | .atomLMaxF _ => h.execAtomLMaxF | .redAdd _ => h.execRedAdd
  | .redMinN _ => h.execRedMinN | .redMaxN _ => h.execRedMaxN | .redMinS _ => h.execRedMinS | .redMaxS _ => h.execRedMaxS
  | .redAnd _ => h.execRedAnd | .redOr _ => h.execRedOr | .redXor _ => h.execRedXor | .redAddF _ => h.execRedAddF
  | .redMinF _ => h.execRedMinF | .redMaxF _ => h.execRedMaxF | .fence _ => h.execFence | .barInit _ => h.execBarInit
  | .barArr _ => h.execBarArr | .barArrDrop _ => h.execBarArrDrop | .barWait _ => h.execBarWait | .barTest _ => h.execBarTest
  | .waitLd _ => h.execWaitLd | .waitSt _ => h.execWaitSt | .waitAt _ => h.execWaitAt | .waitCp _ => h.execWaitCp
  | .waitTt _ => h.execWaitTt | .waitSv _ => h.execWaitSv | .rclaim _ => h.execRclaim | .rgive _ => h.execRgive | .cobj _ => h.execCobj
  | .cwin _ => h.execCwin | .cctlL1inv _ => h.execCctlL1inv | .cctlL1all _ => h.execCctlL1all | .cctlRlcev _ => h.execCctlRlcev
  | .tenq _ => h.execTenq | .twait _ => h.execTwait | .ardr _ => h.execArdr | .awr _ => h.execAwr | .azero _ => h.execAzero
  | .cpkick _ => h.execCpkick | .launch _ => h.execLaunch | .shfl _ => h.execShfl | .bcast _ => h.execBcast
  | .voteBallot _ => h.execVoteBallot | .voteAny _ => h.execVoteAny | .voteAll _ => h.execVoteAll | .voteEq _ => h.execVoteEq
  | .scan _ => h.execScan | .rdx _ => h.execRdx | .mpop _ => h.execMpop | .xpat _ => h.execXpat | .xbar _ => h.execXbar
  | .vdtab _ => h.execVdtab | .vdec _ => h.execVdec | .bra _ => h.execBra | .brc _ => h.execBrc | .call _ => h.execCall
  | .loop _ => h.execLoop | .endl _ => h.execEndl | .endlX _ => h.execEndlX | .rgn _ => h.execRgn | .brx _ => h.execBrx
  | .callx _ => h.execCallx | .ret _ => h.execRet | .exit _ => h.execExit | .yield _ => h.execYield | .nop _ => h.execNop
  | .recruit _ => h.execRecruit | .hpost _ => h.execHpost | .hjoin _ => h.execHjoin | .dismiss _ => h.execDismiss | .gsr _ => h.execGsr
  | .ssr _ => h.execSsr | .sipiWrite _ => h.execSipiWrite | .stcmpWrite _ => h.execStcmpWrite | .svc _ => h.execSvc | .trap _ => h.execTrap
  | .brk _ => h.execBrk | .eret _ => h.execEret | .tlbiPage _ => h.execTlbiPage | .tlbiCtx _ => h.execTlbiCtx | .tlbiAll _ => h.execTlbiAll
  | .ipf _ => h.execIpf | .sret _ => h.execSret | .wfi _ => h.execWfi | .lsread _ => h.execLsread | .lswrite _ => h.execLswrite
  | .lsgrant _ => h.execLsgrant | .lsrecall _ => h.execLsrecall | .ctxload _ => h.execCtxload | .ctxsave _ => h.execCtxsave
  | .ctxkill _ => h.execCtxkill | .ctxmode _ => h.execCtxmode | .clauseHeader _ => h.execClauseHeader
  | .clauseFetch _ _ => h.execClauseFetch | .icacheFill _ => h.execIcacheFill | .clauseBoundary _ => h.execClauseBoundary
  | .issueSelection _ => h.execIssueSelection | .pathAged _ => h.execPathAged | .stallClear _ => h.execStallClear
  | .loadComplete _ => h.execLoadComplete | .storeComplete _ => h.execStoreComplete | .atomicComplete _ => h.execAtomicComplete
  | .combineFlush _ _ _ => h.execCombineFlush | .codecLoad _ _ => h.execCodecLoad | .codecWriteStep _ _ => h.execCodecWriteStep
  | .rclaimGrant _ => h.execRclaimGrant | .rgiveReturn _ _ => h.execRgiveReturn | .registerClaimDeadlock _ => h.execRegisterClaimDeadlock
  | .chunkComplete _ => h.execChunkComplete | .tileTaskStart _ => h.execTileTaskStart | .tileTaskComplete _ => h.execTileTaskComplete
  | .engineFault _ => h.execEngineFault | .copyKindCopy _ _ => h.execCopyKindCopy | .stridedCopy _ _ => h.execStridedCopy
  | .gather _ _ => h.execGather | .poolFill _ _ => h.execPoolFill | .poolCompare _ => h.execPoolCompare
  | .poolReduce _ _ => h.execPoolReduce | .fabricReduce _ => h.execFabricReduce | .leasePrefetch _ _ => h.execLeasePrefetch
  | .leaseWriteBack _ _ => h.execLeaseWriteBack | .formatConversion _ _ => h.execFormatConversion
  | .byteCountPortion _ => h.execByteCountPortion | .copyComplete _ => h.execCopyComplete
  | .collectiveResult _ _ _ => h.execCollectiveResult | .collectiveTimeout _ _ => h.execCollectiveTimeout
  | .launchPredCheck _ _ => h.execLaunchPredCheck | .placeUnit => h.execPlaceUnit | .groupResume => h.execGroupResume
  | .groupRetire _ => h.execGroupRetire | .endComplete _ => h.execEndComplete | .preempt _ => h.execPreempt
  | .preemptResumeOnly _ => h.execPreemptResumeOnly | .preemptHold _ => h.execPreemptHold | .preemptSave _ => h.execPreemptSave
  | .watchdogExpiry _ => h.execWatchdogExpiry | .stewardEntry _ => h.execStewardEntry | .stewardTimer _ => h.execStewardTimer
  | .cmdLaunch _ => h.execCmdLaunch | .cmdLaunchRoom _ => h.execCmdLaunchRoom | .endLaunch _ => h.execEndLaunch | .fetch _ => h.execFetch
  | .resume _ => h.execResume | .refer _ => h.execRefer | .complete _ => h.execComplete | .svcrst _ => h.execSvcrst | .copy _ => h.execCopy
  | .route _ => h.execRoute | .coll _ => h.execColl | .mode _ => h.execMode | .lgrant _ => h.execLgrant | .lrecall _ => h.execLrecall
  | .uint _ => h.execUint | .lreq _ _ _ => h.execLreq | .grant _ _ _ _ _ _ => h.execGrant | .gack _ _ => h.execGack
  | .reject _ _ => h.execReject | .renew _ _ => h.execRenew | .renewed _ _ => h.execRenewed | .recalling _ _ => h.execRecalling
  | .gone _ _ => h.execGone | .recall _ _ _ => h.execRecall | .recallDone _ _ => h.execRecallDone | .release _ _ => h.execRelease
  | .gackTimeout _ => h.execGackTimeout | .renewDue _ => h.execRenewDue | .renewResend _ => h.execRenewResend
  | .deadlineExpiry _ => h.execDeadlineExpiry | .recallDeadline _ => h.execRecallDeadline | .leaseExpiry _ => h.execLeaseExpiry
  | .recallGraceExpiry _ => h.execRecallGraceExpiry | .snoopTimeout _ _ => h.execSnoopTimeout | .requestTimeout _ => h.execRequestTimeout
  | .fabricUnreachable _ => h.execFabricUnreachable | .rds _ _ => h.execRds | .rdown _ _ _ => h.execRdown | .wr _ _ _ _ => h.execWr
  | .evct _ _ => h.execEvct | .cmpS _ _ _ _ => h.execCmpS | .cmpE _ _ _ _ => h.execCmpE | .cmp _ _ _ _ => h.execCmp
  | .bisnpinv _ _ _ => h.execBisnpinv | .bisnpshr _ _ _ => h.execBisnpshr | .birspi _ _ => h.execBirspi | .birsps _ _ => h.execBirsps
  | .biconflict _ _ => h.execBiconflict | .biconflictack _ _ => h.execBiconflictack | .bandwidthWindow _ => h.execBandwidthWindow
  | .hello _ _ _ _ => h.execHello | .helloTimer => h.execHelloTimer | .candidateTimeout _ => h.execCandidateTimeout
  | .ringmasterTakeover => h.execRingmasterTakeover | .claim _ _ => h.execClaim | .query _ => h.execQuery | .qreply _ _ _ => h.execQreply
  | .offer _ _ _ => h.execOffer | .want _ _ => h.execWant | .wanted _ => h.execWanted | .axyenRetrain _ _ => h.execAxyenRetrain
  | .linkFallback _ => h.execLinkFallback | .foreignFpidDrop _ _ => h.execForeignFpidDrop | .configRequest _ => h.execConfigRequest
  | .virtioNotify _ _ => h.execVirtioNotify | .spdmRequest _ => h.execSpdmRequest | .dcmdHalt _ => h.execDcmdHalt
  | .dcmdRelease _ => h.execDcmdRelease | .dcmdStep _ => h.execDcmdStep | .trdpWrite _ => h.execTrdpWrite
  | .traceRingWrite _ _ => h.execTraceRingWrite | .tdropClear _ => h.execTdropClear | .fomarRecord _ => h.execFomarRecord
  | .fomarReplay _ _ => h.execFomarReplay | .fomarCheckpoint => h.execFomarCheckpoint | .mselWrite _ _ => h.execMselWrite
  | .registerWrite _ _ => h.execRegisterWrite | .thermalThrottle _ => h.execThermalThrottle | .throttleStepUp _ => h.execThrottleStepUp
  | .overtempReset => h.execOvertempReset | .packageReset => h.execPackageReset | .bringupStage _ _ => h.execBringupStage
  | .linkDown _ => h.execLinkDown | .linkUp _ => h.execLinkUp | .fmApiCommand _ _ => h.execFmApiCommand
  | .childSum _ _ _ _ _ _ => h.execChildSum | .uncorrectableWord _ => h.execUncorrectableWord
  | .hostBarAccess _ _ _ _ => h.execHostBarAccess

/-- Settles O60: what each instruction and event does to the tables is said once for each of the model's operations, and `State.Forms.exec` reads
it off for every instruction. -/
theorem everyInstructionKeepsTheForms : Obligations.EveryInstructionKeepsTheForms := by
  intro s t i hs e
  exact (State.formed_iff t).mpr (((State.formed_iff s).mp hs).exec i t e)

end Sys2Proof.Machine

/-! ## One step, branch by branch -/

namespace Sys2Proof.Machine

section
variable {s : State} {u : Issuer} {i : Instr} {rest : List Turn}

theorem State.raiseHere_eq_raise (s : State) (u : Issuer) (cause : Byte) :
    s.raiseHere u cause =
      s.raise u { cause := cause, faddr := u.path.wordAddr.setWidth 64, pc := u.path.wordAddr } := rfl

theorem step_of_agenda_nil (h : s.agenda = []) : step s = stepAgent s := by
  simp only [step, h]

theorem step_of_agenda_event (h : s.agenda = .event i :: rest) (henc : encode i = none) :
    step s = exec i { s with agenda := rest } := by
  simp only [step, h, henc]

theorem step_of_agenda_agent {a : Agent} (h : s.agenda = .agent a :: rest) :
    step s = .next { s with agenda := rest, turn := a } := by
  simp only [step, h, State.takeTurn]

theorem stepAgent_of_decodes (hu : s.issuing? = some u) (hw : decodeWord u.word = .ok i) :
    stepAgent s = exec i s := by
  simp only [stepAgent, hu, hw]

/-- R88: a word outside the opcode map. -/
theorem stepAgent_of_not_decodes {e : Reject} (hu : s.issuing? = some u) (hw : decodeWord u.word = .error e) :
    stepAgent s = .next (s.raiseHere u 0x01) := by
  simp only [stepAgent, hu, hw]

end

/-- Settles O5: with an empty agenda a step is the turn agent's, which splits on the decode of its word; else the agenda's head
decides. -/
theorem stepRunsTheDecodedInstruction : Obligations.StepRunsTheDecodedInstruction := by
  refine ⟨fun s u hagenda hu => ⟨fun i hw => ?decodes, fun e hw => ?traps⟩,
    fun s rest => ⟨fun i hagenda henc => step_of_agenda_event hagenda henc, fun a hagenda => step_of_agenda_agent hagenda⟩⟩
  case decodes => rw [step_of_agenda_nil hagenda, stepAgent_of_decodes hu hw]
  case traps => rw [step_of_agenda_nil hagenda, stepAgent_of_not_decodes hu hw, State.raiseHere_eq_raise]

end Sys2Proof.Machine

/-! ## Integer, bit and address instructions

Every instruction of this family is issued by `issue` with a result as its body, so `issue_of_ready` gives the effect of one that is ready.
What the model computes in another way than the rule says it is related to the rule here, once: the ordering of `min` and `max`, the
division of `mulhi`, the bytes of `dp4`, the addend of `add64` and `sub64`, and the shifts by an immediate. -/

namespace Sys2Proof.Machine

section
variable {s : State} {f : F3} {u : Issuer}

/-- R66: step 1 has passed. -/
theorem wellFormed_of_ready {i : Instr} {req : Issuer → Req} (h : s.ready? i req = some u) : i.WellFormed := by
  obtain ⟨-, hgate⟩ := issuing_of_ready h
  unfold Instr.WellFormed
  cases hi : i.illFormed with
  | none => rfl
  | some e =>
    have htrap : s.gate u i (req u) = .trap 0x01 := by
      simp only [State.gate, hi, Option.isSome_some, Bool.true_or, if_true]
    exact nomatch htrap.symm.trans hgate

/-- R59: the type of a well-formed word is one that its row accepts. -/
theorem F3.ty_mem_of_reject_eq_none {r : F3Rule} (h : f.reject r = none) : f.ty ∈ r.ty := by
  cases hty : r.ty.contains f.ty with
  | true => exact List.contains_iff_mem.mp hty
  | false =>
    unfold F3.reject at h
    rw [hty] at h
    split at h
    · cases h
    · rw [Bool.not_false, if_pos rfl] at h
      cases h

/-! ### Signed and unsigned values of a register -/

theorem toNat_emod_two_pow {n : Nat} (x : BitVec n) : (x.toNat : Int) % (2 ^ n : Nat) = x.toNat := by
  exact Int.emod_eq_of_lt (Int.natCast_nonneg _) (Int.ofNat_lt.mpr x.isLt)

theorem wrapInt_toNat_true {n : Nat} (x : BitVec n) : wrapInt n true x.toNat = x.toInt := by
  cases n with
  | zero =>
    have hx : x = 0#0 := BitVec.of_length_zero
    subst hx
    rfl
  | succ n =>
    have hpow : 2 ^ (n + 1) = 2 * 2 ^ n := Nat.pow_succ'
    simp only [wrapInt, toNat_emod_two_pow, BitVec.toInt_eq_toNat_cond, Nat.add_sub_cancel, Bool.true_and, decide_eq_true_eq,
      Int.ofNat_le]
    split <;> split <;> omega

theorem wrapInt_toNat_false {n : Nat} (x : BitVec n) : wrapInt n false x.toNat = x.toNat := by
  simp only [wrapInt, Bool.false_and, Bool.false_eq_true, if_false, toNat_emod_two_pow]

/-! ### `min`, `max` and `mulhi` (R120, R122) -/

theorem exec_min_of_ready (h : s.ready? (.min f) (fun _ => alu2 f) = some u) :
    exec (.min f) s = .next (s.intOp2 u f (aluLat (isWide f.ty)) fun a b => min a b) := by
  have hop : (fun a b : Int => if b < a then b else a) = fun a b => min a b := by
    funext a b
    split <;> omega
  rw [← hop]
  exact issue_of_ready h

theorem exec_max_of_ready (h : s.ready? (.max f) (fun _ => alu2 f) = some u) :
    exec (.max f) s = .next (s.intOp2 u f (aluLat (isWide f.ty)) fun a b => max a b) := by
  have hop : (fun a b : Int => if a < b then b else a) = fun a b => max a b := by
    funext a b
    split <;> omega
  rw [← hop]
  exact issue_of_ready h

/-- The divisor is positive, so the high half of a product is the same rounded down and with a remainder that is not negative. -/
theorem exec_mulhi_of_ready (h : s.ready? (.mulhi f) (fun _ => alu2 f) = some u) :
    exec (.mulhi f) s = .next (s.intOp2 u f 4 fun a b => (a * b) / (2 ^ typeWidth f.ty : Nat)) := by
  have hop : (fun a b : Int => Int.fdiv (a * b) (2 ^ typeWidth f.ty : Nat)) = fun a b : Int => (a * b) / (2 ^ typeWidth f.ty : Nat) := by
    funext a b
    exact Int.fdiv_eq_ediv_of_nonneg _ (Int.natCast_nonneg _)
  rw [← hop]
  exact issue_of_ready h

/-! ### `dp4` (R123) -/

theorem State.result_congr {uni : Bool} {d : Opnd} {wide : Bool} {lat : Nat} {sc : Fin 16} {r r' : Nat → DWord}
    (h : ∀ t, r t = r' t) : s.result u uni d wide lat sc r = s.result u uni d wide lat sc r' := by
  rw [funext h]

/-- The product of the bytes of two words at a place. -/
def byteProduct (t : DType) (a b : Word) (i : Nat) : Int :=
  wrapInt 8 (isSigned t) (bits a.toNat (8 * i) 8) * wrapInt 8 (isSigned t) (bits b.toNat (8 * i) 8)

theorem dp4Sum_eq (t : DType) (a b : Word) (c : Int) :
    dp4Sum t a b c = c + byteProduct t a b 0 + byteProduct t a b 1 + byteProduct t a b 2 + byteProduct t a b 3 := by
  simp only [dp4Sum, byteProduct, List.range_succ, List.range_zero, List.nil_append, List.cons_append, List.foldl_cons, List.foldl_nil]

/-! ### `add64` and `sub64` (R128) -/

/-- The value that the type of `add64` and `sub64` names, of the 32 and the 64 bits that B gives. -/
def typedAddend (t : DType) (narrow : Word) (wide : DWord) : Int :=
  match t with
  | .s64 => narrow.toInt
  | .n64 => narrow.toNat
  | _ => wide.toNat

theorem State.addend64_eq_typedAddend (h : f.ty ∈ [.s64, .n64, .b64]) (t : Nat) :
    s.addend64 u f t = typedAddend f.ty (s.read32 u f.b t) (s.read64 u f.b t) := by
  simp only [List.mem_cons, List.not_mem_nil, or_false] at h
  rcases h with hty | hty | hty <;> simp only [State.addend64, typedAddend, hty]
  · exact wrapInt_toNat_true _
  · exact wrapInt_toNat_false _
  · rfl

theorem State.op64_eq (h : f.ty ∈ [.s64, .n64, .b64]) (op : Int → Int → Int) :
    s.op64 u f op = s.result u f.u f.d true 4 f.sc fun t =>
      intResult f.ty f.s (op (intValue f.ty (s.read64 u f.a t)) (typedAddend f.ty (s.read32 u f.b t) (s.read64 u f.b t))) := by
  simp only [State.op64, State.addend64_eq_typedAddend h]

end

/-! ### Shifts by an immediate (R129) -/

theorem State.imm32_congr {s : State} {u : Issuer} {f : FI} {lat : Nat} {op op' : Nat → Nat → Nat}
    (h : ∀ a b, op a b % 2 ^ 32 = op' a b % 2 ^ 32) : s.imm32 u f lat op = s.imm32 u f lat op' := by
  simp only [State.imm32, h]

theorem shiftLeft_mod (w a n : Nat) : shiftLeft w a n % 2 ^ w = (if w ≤ n then 0 else a * 2 ^ n) % 2 ^ w := by
  unfold shiftLeft
  split
  · rfl
  · exact Nat.mod_mod _ _

theorem exec_shlImm_of_ready {s : State} {f : FI} {u : Issuer} (h : s.ready? (.shlImm f) (fun _ => immReq Cls.alu f false) = some u) :
    exec (.shlImm f) s = .next (s.imm32 u f 2 fun a n => if 32 ≤ n then 0 else a * 2 ^ n) := by
  rw [← State.imm32_congr (shiftLeft_mod 32)]
  exact issue_of_ready h

/-! ### The statements -/

/-- Settles O9: the model's operations are the rule's, those of `min`, `max` and `mulhi` by the lemmas above. -/
theorem integerArithmeticGivesExactResults : Obligations.IntegerArithmeticGivesExactResults := by
  intro s f u w x gives
  refine ⟨?twoSources, issue_of_ready, issue_of_ready, issue_of_ready⟩
  case twoSources =>
    simp only [List.forall_mem_cons, List.not_mem_nil, false_imp_iff, implies_true, and_true]
    exact ⟨issue_of_ready, issue_of_ready, exec_min_of_ready, exec_max_of_ready, issue_of_ready, exec_mulhi_of_ready⟩

/-- Settles O10: `dp4` by the sum of its four products, `add64` and `sub64` by the addend of the three types that a well-formed one
has; a compare is the mask of the lanes where its condition holds. -/
theorem selectsConversionsAndComparesGiveResults : Obligations.SelectsConversionsAndComparesGiveResults := by
  refine ⟨fun s f u => ?values, fun s f u => ?compares⟩
  case values =>
    intro w st t32 gives
    refine ⟨issue_of_ready, fun h => ?dp4, issue_of_ready, ?sums, issue_of_ready⟩
    case dp4 =>
      exact (issue_of_ready h).trans (congrArg Host.Outcome.next
        (State.result_congr fun t => congrArg (intResult t32 f.s) (dp4Sum_eq f.ty _ _ _)))
    case sums =>
      simp only [List.forall_mem_cons, List.not_mem_nil, false_imp_iff, implies_true, and_true]
      refine ⟨fun h => ?add64, fun h => ?sub64⟩
      case add64 =>
        have hty := F3.ty_mem_of_reject_eq_none (wellFormed_of_ready h)
        exact (issue_of_ready h).trans (congrArg Host.Outcome.next (State.op64_eq hty _))
      case sub64 =>
        have hty := F3.ty_mem_of_reject_eq_none (wellFormed_of_ready h)
        exact (issue_of_ready h).trans (congrArg Host.Outcome.next (State.op64_eq hty _))
  case compares =>
    intro w x y gives
    simp only [List.forall_mem_cons, List.not_mem_nil, false_imp_iff, implies_true, and_true]
    exact ⟨⟨issue_of_ready, issue_of_ready, issue_of_ready, issue_of_ready, issue_of_ready, issue_of_ready⟩,
      issue_of_ready, issue_of_ready, issue_of_ready, issue_of_ready, issue_of_ready, issue_of_ready, issue_of_ready, issue_of_ready⟩

/-- Settles O11: `State.bitOp2`, `State.countOp` and `State.shiftOp` give what the rule says lane by lane. -/
theorem bitInstructionsGiveResults : Obligations.BitInstructionsGiveResults := by
  intro s f u w n gives
  simp only [List.forall_mem_cons, List.not_mem_nil, false_imp_iff, implies_true, and_true]
  exact ⟨⟨issue_of_ready, issue_of_ready, issue_of_ready, issue_of_ready⟩, issue_of_ready,
    ⟨issue_of_ready, issue_of_ready, issue_of_ready⟩, ⟨issue_of_ready, issue_of_ready, issue_of_ready, issue_of_ready⟩,
    issue_of_ready, issue_of_ready, issue_of_ready⟩

/-- Settles O12: a left shift kept to 32 bits twice is kept to them once; the other forms apply the rule's operation as it stands. -/
theorem immediateFormsGiveResults : Obligations.ImmediateFormsGiveResults := by
  intro s f u
  simp only [List.forall_mem_cons, List.not_mem_nil, false_imp_iff, implies_true, and_true]
  exact ⟨⟨issue_of_ready, issue_of_ready, issue_of_ready, issue_of_ready, exec_shlImm_of_ready, issue_of_ready, issue_of_ready,
    issue_of_ready⟩, issue_of_ready, issue_of_ready, issue_of_ready, issue_of_ready⟩

end Sys2Proof.Machine

/-! ## Floating point

`fabs` and `fneg` are bit operations: of each element a mask is kept and a constant is inverted, and so of the whole register. The other
instructions of this family are issued by `issue` with the rule's result as their body, so `issue_of_ready` gives the effect of one that is
ready. -/

namespace Sys2Proof.Machine

/-! ### The sign bit of one element (R139) -/

/-- The bits of an element below its sign. -/
def FFmt.magMask (k : FFmt) : Nat := 2 ^ (k.width - 1) - 1

/-- The bits of an element. -/
def FFmt.elemMask (k : FFmt) : Nat := 2 ^ k.width - 1

/-- The sign bit of an element. -/
def FFmt.signMask (k : FFmt) : Nat := 2 ^ (k.width - 1)

theorem FFmt.signed_beq_zero (k : FFmt) (b m : Nat) :
    k.signed (b == 0) m = (if b = 0 then 2 ^ (k.width - 1) else 0) + m := by
  simp only [FFmt.signed, beq_iff_eq]

theorem bits_zero_eq_mod (a n : Nat) : bits a 0 n = a % 2 ^ n := by
  rw [bits, Nat.pow_zero, Nat.div_one]

theorem xor_two_pow_of_lt {m n : Nat} (h : m < 2 ^ n) : m ^^^ 2 ^ n = 2 ^ n + m := by
  have hdiv : (m ^^^ 2 ^ n) / 2 ^ n = 1 := by
    rw [Nat.xor_div_two_pow, Nat.div_eq_of_lt h, Nat.div_self (Nat.two_pow_pos n), Nat.zero_xor]
  have hmod : (m ^^^ 2 ^ n) % 2 ^ n = m := by
    rw [Nat.xor_mod_two_pow, Nat.mod_eq_of_lt h, Nat.mod_self, Nat.xor_zero]
  rw [← Nat.div_add_mod (m ^^^ 2 ^ n) (2 ^ n), hdiv, hmod, Nat.mul_one]

/-- The sign is 0 or 1. A clear one is set by an exclusive or with it, and a set one is cleared, since the exclusive or is its own inverse. -/
theorem invert_bit_add_bits (a n : Nat) :
    (if bits a n 1 = 0 then 2 ^ n else 0) + bits a 0 n = (a &&& (2 ^ (n + 1) - 1)) ^^^ 2 ^ n := by
  have hlow : a % 2 ^ n < 2 ^ n := Nat.mod_lt _ (Nat.two_pow_pos n)
  have hxor := xor_two_pow_of_lt hlow
  have hbit : bits a n 1 = a / 2 ^ n % 2 := by simp only [bits, Nat.pow_one]
  rw [hbit, bits_zero_eq_mod, Nat.and_two_pow_sub_one_eq_mod, Nat.mod_pow_succ]
  rcases Nat.mod_two_eq_zero_or_one (a / 2 ^ n) with h | h
  · simp only [h, if_true, Nat.mul_zero, Nat.add_zero, hxor]
  · simp only [h, Nat.one_ne_zero, if_false, Nat.zero_add, Nat.mul_one]
    rw [Nat.add_comm, ← hxor, Nat.xor_assoc, Nat.xor_self, Nat.xor_zero]

theorem FFmt.bits_magnitude_eq_and (k : FFmt) (a : Nat) : bits a 0 (k.width - 1) = (a &&& k.magMask) ^^^ 0 := by
  rw [bits_zero_eq_mod, Nat.xor_zero, FFmt.magMask, Nat.and_two_pow_sub_one_eq_mod]

theorem FFmt.signed_inverted_eq_xor (k : FFmt) (a : Nat) :
    k.signed (bits a (k.width - 1) 1 == 0) (bits a 0 (k.width - 1)) = (a &&& k.elemMask) ^^^ k.signMask := by
  have hwidth : k.width - 1 + 1 = k.width := by
    unfold FFmt.width
    omega
  rw [FFmt.signed_beq_zero, invert_bit_add_bits, hwidth, FFmt.elemMask, FFmt.signMask]

/-! ### The sign bits of a register (R97, R139) -/

/-- The constant of a format at every element of a register of a type. -/
def onElements (t : DType) (m : FFmt → Nat) : DWord := onHalves1 t (fun k _ => m k) 0

theorem and_eq_mod_and_of_lt {m n : Nat} (h : m < 2 ^ n) (a : Nat) : a &&& m = a % 2 ^ n &&& m := by
  rw [← Nat.mod_eq_of_lt (Nat.and_lt_two_pow a h), Nat.and_mod_two_pow, Nat.mod_eq_of_lt h]

/-- The low half of the register's result is that of the low element, and the high half that of the high element. -/
theorem halves_and_xor {m n : Nat} (hm : m < 2 ^ 16) (hn : n < 2 ^ 16) (a : Nat) :
    ((bits a 0 16 &&& m) ^^^ n) + 2 ^ 16 * ((bits a 16 16 &&& m) ^^^ n) = (a &&& (m + 2 ^ 16 * m)) ^^^ (n + 2 ^ 16 * n) := by
  have hdiv {k : Nat} (hk : k < 2 ^ 16) : (k + 2 ^ 16 * k) / 2 ^ 16 = k := by omega
  have hmod {k : Nat} (hk : k < 2 ^ 16) : (k + 2 ^ 16 * k) % 2 ^ 16 = k := by omega
  have hlow : ((a &&& (m + 2 ^ 16 * m)) ^^^ (n + 2 ^ 16 * n)) % 2 ^ 16 = (bits a 0 16 &&& m) ^^^ n := by
    rw [Nat.xor_mod_two_pow, Nat.and_mod_two_pow, hmod hm, hmod hn, bits_zero_eq_mod]
  have hhigh : ((a &&& (m + 2 ^ 16 * m)) ^^^ (n + 2 ^ 16 * n)) / 2 ^ 16 = (bits a 16 16 &&& m) ^^^ n := by
    rw [Nat.xor_div_two_pow, Nat.and_div_two_pow, hdiv hm, hdiv hn, and_eq_mod_and_of_lt hm, bits]
  rw [← hlow, ← hhigh, Nat.mod_add_div]

/-- An element operation that keeps a mask and inverts a constant does so to a whole register. -/
theorem onHalves1_and_xor {m n : FFmt → Nat} {op : FFmt → Nat → Nat} (hm : m fp16 < 2 ^ 16) (hn : n fp16 < 2 ^ 16)
    (h : ∀ k a, op k a = (a &&& m k) ^^^ n k) (t : DType) (x : DWord) :
    onHalves1 t op x.toNat = (x &&& onElements t m) ^^^ onElements t n := by
  unfold onElements onHalves1
  split
  · rw [h, h, halves_and_xor hm hn, BitVec.ofNat_xor, BitVec.ofNat_and, BitVec.ofNat_toNat, BitVec.setWidth_eq]
  · rw [h, BitVec.ofNat_xor, BitVec.ofNat_and, BitVec.ofNat_toNat, BitVec.setWidth_eq]

theorem onHalves1_clear_sign (t : DType) (x : DWord) :
    onHalves1 t (fun k a => bits a 0 (k.width - 1)) x.toNat = x &&& onElements t FFmt.magMask := by
  rw [onHalves1_and_xor (m := FFmt.magMask) (n := fun _ => 0) (by decide) (by decide) FFmt.bits_magnitude_eq_and]
  have hzero : onElements t (fun _ => 0) = 0#64 := by
    unfold onElements onHalves1
    split <;> rfl
  rw [hzero, BitVec.xor_zero]

theorem onHalves1_invert_sign (t : DType) (x : DWord) :
    onHalves1 t (fun k a => k.signed (bits a (k.width - 1) 1 == 0) (bits a 0 (k.width - 1))) x.toNat =
      (x &&& onElements t FFmt.elemMask) ^^^ onElements t FFmt.signMask :=
  onHalves1_and_xor (by decide) (by decide) FFmt.signed_inverted_eq_xor t x

/-! ### `fabs` and `fneg` (R139) -/

section
variable {s : State} {f : F3} {u : Issuer}

theorem exec_fabs_of_ready (h : s.ready? (.fabs f) (fun _ => fp1 f (isWide f.ty)) = some u) :
    exec (.fabs f) s = .next (s.result u f.u f.d (isWide f.ty) (fpLat (isWide f.ty)) f.sc fun t =>
      s.src u (isWide f.ty) f.a t &&& onElements f.ty FFmt.magMask) :=
  (issue_of_ready h).trans (congrArg Host.Outcome.next (State.result_congr fun _ => onHalves1_clear_sign f.ty _))

theorem exec_fneg_of_ready (h : s.ready? (.fneg f) (fun _ => fp1 f (isWide f.ty)) = some u) :
    exec (.fneg f) s = .next (s.result u f.u f.d (isWide f.ty) (fpLat (isWide f.ty)) f.sc fun t =>
      (s.src u (isWide f.ty) f.a t &&& onElements f.ty FFmt.elemMask) ^^^ onElements f.ty FFmt.signMask) :=
  (issue_of_ready h).trans (congrArg Host.Outcome.next (State.result_congr fun _ => onHalves1_invert_sign f.ty _))

end

/-- The statement's bits of a register, with and without the signs, are those of the formats. -/
theorem onElements_masks : ∀ p ∈ [(DType.f32, (0xFFFFFFFF#64, 0x80000000#64)), (.f64, (0xFFFFFFFFFFFFFFFF#64, 0x8000000000000000#64)),
    (.f16, (0xFFFF#64, 0x8000#64)), (.bf16, (0xFFFF#64, 0x8000#64)), (.f16x2, (0xFFFFFFFF#64, 0x80008000#64))],
    onElements p.1 FFmt.magMask = p.2.1 &&& ~~~p.2.2 ∧ onElements p.1 FFmt.elemMask = p.2.1 ∧
      onElements p.1 FFmt.signMask = p.2.2 := by
  decide

/-- Settles O57: `fabs` keeps the bits below the sign of each element and `fneg` inverts its sign; the masks of the five types are those
of the statement. -/
theorem fabsAndFnegTouchOnlyTheSign : Obligations.FabsAndFnegTouchOnlyTheSign := by
  intro s f u p hp hty w
  obtain ⟨hmag, helem, hsign⟩ := onElements_masks p hp
  rw [← hty] at hmag helem hsign
  rw [← hmag, ← helem, ← hsign]
  exact ⟨exec_fabs_of_ready, exec_fneg_of_ready⟩

/-! ### Arithmetic, transcendentals and conversions (R137 to R149) -/

/-- Settles O13: each instruction applies the rule's operation to each element; `fneg` puts the inverted sign over the magnitude. -/
theorem floatArithmeticGivesRoundedResults : Obligations.FloatArithmeticGivesRoundedResults := by
  intro s f j u w x gives e
  refine ⟨?twoSources, issue_of_ready, ?signs, ?immediates⟩
  case twoSources =>
    simp only [List.forall_mem_cons, List.not_mem_nil, false_imp_iff, implies_true, and_true]
    exact ⟨issue_of_ready, issue_of_ready, issue_of_ready, issue_of_ready, issue_of_ready⟩
  case signs =>
    simp only [List.forall_mem_cons, List.not_mem_nil, false_imp_iff, implies_true, and_true, ← FFmt.signed_beq_zero]
    exact ⟨issue_of_ready, issue_of_ready⟩
  case immediates =>
    simp only [List.forall_mem_cons, List.not_mem_nil, false_imp_iff, implies_true, and_true]
    exact ⟨issue_of_ready, issue_of_ready, issue_of_ready, issue_of_ready⟩

/-- Settles O14: each instruction gives the rule's function of the decoded source; those that round to nearest even whatever RM says do
so by `Issuer.rneEnv`. -/
theorem transcendentalsAndConversionsGiveResults : Obligations.TranscendentalsAndConversionsGiveResults := by
  refine ⟨fun s f u => ?transcendentals, fun s f u => ?conversions⟩
  case transcendentals =>
    intro k e n
    simp only [List.forall_mem_cons, List.not_mem_nil, false_imp_iff, implies_true, and_true]
    exact ⟨issue_of_ready, issue_of_ready, issue_of_ready, issue_of_ready, issue_of_ready, issue_of_ready, issue_of_ready⟩
  case conversions =>
    intro w k st v e gives
    exact ⟨issue_of_ready, issue_of_ready, issue_of_ready, issue_of_ready, issue_of_ready, issue_of_ready, issue_of_ready,
      issue_of_ready⟩

end Sys2Proof.Machine

/-! ## Control flow and helpers

The instructions of these two families are issued by `issue`, so `issue_of_ready` gives the effect of one that is ready; a lemma below takes it
on to the rule's branch where the body makes a choice. Two laws carry the rest: a second yield in the same cycle changes nothing, so that `yield`
ends a clause as its Y bit does whether that bit is set or not; and the partials of a recruitment that a fold over its chunks combines are those
of the chunks that have one. -/

namespace Sys2Proof.Machine

theorem issue_eq_of_ready {s t : State} {i : Instr} {req : Issuer → Req} {body : Issuer → State} {u : Issuer}
    (h : s.ready? i req = some u) (hbody : body u = t) : issue s i req body = .next t := by
  rw [issue_of_ready h, hbody]

/-! ### A table or a core changed twice -/

section
variable {α β γ : Type}

theorem Assoc.set_set (m : Assoc α) (n : Nat) (a b : α) : Assoc.set (Assoc.set m n a) n b = Assoc.set m n b := by
  induction m with
  | nil => simp [Assoc.set]
  | cons p m ih =>
    obtain ⟨k, c⟩ := p
    rcases Nat.lt_trichotomy n k with h | h | h
    · simp [Assoc.set, h]
    · simp [Assoc.set, h]
    · simp [Assoc.set, Nat.lt_asymm h, Nat.ne_of_gt h, ih]

theorem Assoc.update_update (m : Assoc α) (n : Nat) (f g : α → α) :
    Assoc.update (Assoc.update m n f) n g = Assoc.update m n fun a => g (f a) := by
  cases h : Assoc.get? m n with
  | none => simp [Assoc.update, h]
  | some a => simp [Assoc.update, h, Assoc.get?_set_self, Assoc.set_set]

theorem Assoc.mapVals_mapVals (m : Assoc α) (f : α → β) (g : β → γ) :
    (m.mapVals f).mapVals g = m.mapVals fun a => g (f a) := by
  simp [Assoc.mapVals]

theorem Assoc.get?_mapVals (m : Assoc α) (f : α → β) (n : Nat) :
    Assoc.get? (m.mapVals f) n = (Assoc.get? m n).map f := by
  induction m with
  | nil => rfl
  | cons p m ih =>
    obtain ⟨k, a⟩ := p
    simp only [Assoc.mapVals, List.map_cons, Assoc.get?] at ih ⊢
    split
    · rfl
    · exact ih

end

theorem State.setCore_setCore (s : State) (c : Nat) (k l : Core) : (s.setCore c k).setCore c l = s.setCore c l := by
  simp only [State.setCore, Assoc.set_set]

theorem State.modCore_modCore (s : State) (c : Nat) (f g : Core → Core) :
    (s.modCore c f).modCore c g = s.modCore c fun k => g (f k) := by
  simp only [State.modCore, State.core_setCore_self, State.setCore_setCore]

/-! ### Yielding (R54, R377) -/

section
variable (s : State) (c sl : Nat)

theorem Path.yielded_yielded (p : Path) (cycle : Nat) : (p.yielded cycle).yielded cycle = p.yielded cycle := rfl

@[simp] theorem State.cyc_yieldSlot (d : Nat) : (s.yieldSlot c sl).cyc d = s.cyc d := rfl

/-- A second yield in the same cycle changes nothing. -/
theorem State.yieldSlot_yieldSlot : (s.yieldSlot c sl).yieldSlot c sl = s.yieldSlot c sl := by
  rw [State.yieldSlot, State.cyc_yieldSlot, State.yieldSlot, State.modCore_modCore]
  congr 1
  funext k
  simp only [Assoc.update_update, Assoc.mapVals_mapVals, Path.yielded_yielded, apply_ite Helper.slot, apply_ite Helper.path,
    ite_self]
  congr 2
  funext h
  split <;> rfl

theorem State.helper?_yieldSlot (n : Nat) :
    ((s.yieldSlot c sl).helper? c n).map (·.slot) = (s.helper? c n).map (·.slot) := by
  simp only [State.yieldSlot, State.helper?, State.core_modCore_self, Assoc.get?_mapVals, Option.map_map, Function.comp_def,
    apply_ite Helper.slot, ite_self]

end

theorem State.yieldGroup_helper {s : State} {c n : Nat} {h : Helper} (hh : s.helper? c n = some h) :
    s.yieldGroup (.helper c n) = s.yieldSlot c h.slot := by
  simp only [State.yieldGroup, hh]

theorem State.yieldGroup_yieldGroup (s : State) (a : Agent) : (s.yieldGroup a).yieldGroup a = s.yieldGroup a := by
  cases a with
  | path c sl i => exact s.yieldSlot_yieldSlot c sl
  | helper c n =>
    cases hh : s.helper? c n with
    | none => simp only [State.yieldGroup, hh]
    | some h =>
      have hslot : ((s.yieldSlot c h.slot).helper? c n).map (·.slot) = some h.slot := by
        rw [State.helper?_yieldSlot, hh, Option.map_some]
      obtain ⟨h', hh', hs⟩ := Option.map_eq_some_iff.mp hslot
      rw [State.yieldGroup_helper hh, State.yieldGroup_helper hh', hs, State.yieldSlot_yieldSlot]
  | steward k => rfl

/-- The end of a clause with Y set is the end of the clause and a yield. -/
theorem State.endClause_of_y {s : State} {u v : Issuer} {next : PC} (ha : v.agent = u.agent)
    (hy : v.path.clause.header.getLsbD 36 = true) : s.endClause v next = (s.endClause u next).yieldGroup u.agent := by
  simp only [State.endClause, hy, ha, if_true]
  split
  · exact (State.yieldGroup_yieldGroup _ _).symm
  · rfl

/-! ### Loops (R173) -/

section
variable {s : State} {u : Issuer} {e : LoopEntry} {rest : List LoopEntry}

/-- The count is 1 in the last iteration. -/
theorem State.endLoop_counted (hl : u.path.loops = e :: rest) :
    s.endLoop u false =
      if e.count - 1 = 0 then (s.modPath u.agent fun p => { p with loops := rest }).endClause u e.stop
      else (s.modPath u.agent fun p => { p with loops := { e with count := e.count - 1 } :: rest }).endClause u e.start := by
  have hlast : (e.count - 1 = 0) = (e.count = 1) := propext BitVec.sub_eq_iff_eq_add
  simp only [State.endLoop, hl, Bool.false_or, decide_eq_true_eq, hlast]

theorem State.endLoop_left (hl : u.path.loops = e :: rest) :
    s.endLoop u true = (s.modPath u.agent fun p => { p with loops := rest }).endClause u e.stop := by
  simp only [State.endLoop, hl, Bool.true_or, if_true]

end

/-- Settles O59: `yield` yields once more than the end of its clause does, and a clause with Y set ends with one yield. -/
theorem yieldActsAsTheYBitAndNopDoesNothing : Obligations.YieldActsAsTheYBitAndNopDoesNothing := by
  intro s f u withY
  have hy : withY.path.clause.header.getLsbD 36 = true := by simp [withY]
  refine ⟨fun h => ?yield, issue_of_ready⟩
  case yield =>
    rw [State.endClause_of_y (v := withY) (u := u) rfl hy]
    exact issue_of_ready h

/-- Settles O27: with room on the stack `loop` does not trap, an entry stands for `endl`, and `exit` finds no recruitment; the other
instructions make no choice. -/
theorem loopsRegionsAndExitsAct : Obligations.LoopsRegionsAndExitsAct := by
  intro s f g u tgt next n withLoops
  refine ⟨fun h hroom => ?loop, fun e rest hl => ⟨fun h => ?endl, fun h => ?endlX⟩, issue_of_ready, fun h hfree => ?exit, issue_of_ready,
    issue_of_ready⟩
  case loop => exact issue_eq_of_ready h (if_neg (Nat.not_le.mpr hroom))
  case endl => exact issue_eq_of_ready h (State.endLoop_counted hl)
  case endlX => exact issue_eq_of_ready h (State.endLoop_left hl)
  case exit =>
    refine issue_eq_of_ready h ?_
    cases u.agent with
    | path c sl i => simp only [hfree, List.isEmpty_nil, Bool.not_true, Bool.false_eq_true, if_false, next]
    | helper c n => rfl
    | steward k => rfl

/-! ### Partials in chunk order (R184) -/

/-- The partial of a chunk that has completed with one. -/
def Chunk.part? : Chunk → Option DWord
  | .done p => p
  | _ => none

/-- The partials of a recruitment, in the order of its chunks. -/
def Recruitment.parts (q : Recruitment) : List DWord := q.chunks.filterMap Chunk.part?

/-- Partials combined from the first on, 0 where there is none. -/
def combineAll (op : Nat) (v : FEnv) : List DWord → DWord
  | [] => 0
  | p :: ps => ps.foldl (combine op v) p

/-- One partial more. -/
def addPart (op : Nat) (v : FEnv) (r : Option DWord) (p : DWord) : Option DWord := some (r.elim p fun r => combine op v r p)

theorem Recruitment.total_eq_foldl_parts (q : Recruitment) (op : Nat) (v : FEnv) :
    q.total op v = q.parts.foldl (addPart op v) none := by
  rw [Recruitment.parts, List.foldl_filterMap, Recruitment.total]
  congr 1
  funext r ch
  cases ch with
  | done p => cases p <;> cases r <;> rfl
  | _ => rfl

theorem Recruitment.getD_total (q : Recruitment) (op : Nat) (v : FEnv) :
    (q.total op v).getD 0 = combineAll op v q.parts := by
  rw [Recruitment.total_eq_foldl_parts]
  cases q.parts with
  | nil => rfl
  | cons p ps =>
    have hsome : ps.foldl (addPart op v) (some p) = some (ps.foldl (combine op v) p) := List.foldl_hom some fun _ _ => rfl
    exact congrArg (·.getD 0) hsome

theorem toInt_combine_smin (v : FEnv) (p q : DWord) : (combine 4 v p q).toInt = min p.toInt q.toInt := by
  simp only [combine]
  split <;> omega

theorem toInt_combine_smax (v : FEnv) (p q : DWord) : (combine 5 v p q).toInt = max p.toInt q.toInt := by
  simp only [combine]
  split <;> omega

/-! ### recruit, hpost and hjoin (R179 to R184) -/

section
variable {s : State} {u : Issuer} {gr : Group}

/-- R179, R180: the Barker, or the log under replay, grants one thread that has no recruitment. -/
theorem exec_recruit_of_ready {f : FB} {t n reason : Nat} {r : RecruitReq}
    (h : s.ready? (.recruit f) (fun u => { ctrlReq false [gUse f.d true, gUse f.a false] with
      may := u.kind != .steward, fmt := true, more := s.recruited u f.a }) = some u)
    (hlane : u.lanes = [t]) (hreq : recruitReq (s.read64 u f.a 0) u.window = some r) (hgroup : s.group? u.core u.slot = some gr)
    (hhlp : gr.kernel.hlp = true) (hidle : u.kind = .simt → Assoc.get? gr.recruits t = none)
    (hgrant : s.recordedGrant u t (s.barker u r) = (n, reason)) :
    exec (.recruit f) s = .next (
      let a := if reason = 3 then s else s.makeRecruitment u t r (u.target f.offs) n
      let b := a.pushWrites u (resultWrites f.d false [(0, BitVec.ofNat 64 (reason * 256 + n))]) 1
      ((b.logEntry u.ctx { kind := .recruit, uid := s.ownerOf u, idx := u.idx, lane := t, line := u.hubLine (s.ownerOf u) t
                           value := reason * 256 + n }).commitRegion u).retire u f.sc) := by
  have hactive : (decide (u.kind = .simt) && (Assoc.get? gr.recruits t).isSome) = false := by
    by_cases hk : u.kind = .simt
    · rw [hidle hk, Option.isSome_none, Bool.and_false]
    · rw [decide_eq_false hk, Bool.false_and]
  refine issue_eq_of_ready h ?_
  simp only [hlane, hreq, hgroup, Option.map_some, Option.getD_some, Option.bind_some, hhlp, hactive, hgrant, Bool.not_true,
    Bool.false_or, Bool.false_eq_true, if_false]

theorem exec_hpost_of_ready {g : F3} {c k : Nat}
    (h : s.ready? (.hpost g) (fun u => { ctrlReq false [{ o := g.a, role := .vpair }] with may := u.kind = .helper }) = some u)
    (ha : u.agent = .helper c k) :
    exec (.hpost g) s = .next ((s.modHelper c k fun h => { h with part := some (s.read64 u g.a 0) }).retire u g.sc) := by
  refine issue_eq_of_ready h ?_
  simp only [ha]

/-- R184: the recruitment of every lane has completed, so that no chunk is left to run or to wait for and none has faulted. -/
theorem exec_hjoin_of_done {g : F3} {rec' : Nat → Recruitment}
    (h : s.ready? (.hjoin g) (fun u => { ctrlReq true (if bits g.x.toNat 0 3 = 0 then [] else
      [{ o := g.d, role := .vpair, write := true }]) with may := u.kind = .simt, fmt := true }) = some u)
    (hgroup : s.group? u.core u.slot = some gr)
    (hdone : ∀ t ∈ u.lanes, Assoc.get? gr.recruits t = some (rec' t) ∧ s.joinState u.core u.slot t (rec' t) = .done (rec' t)) :
    exec (.hjoin g) s = .next (
      ((if bits g.x.toNat 0 3 = 0 then s
        else s.pushWrites u (resultWrites g.d true
          (u.lanes.map fun t => (t, combineAll (bits g.x.toNat 0 3) (u.fenv g.rm false) (rec' t).parts))) 1).dropRecruits u.core u.slot
            u.lanes).retire u g.sc) := by
  have hrecs : (u.lanes.map fun t => (t, Assoc.get? gr.recruits t)) = u.lanes.map fun t => (t, some (rec' t)) :=
    List.map_congr_left fun t ht => by rw [(hdone t ht).1]
  have hjoins : (u.lanes.map fun t => (t, s.joinState u.core u.slot t (rec' t))) = u.lanes.map fun t => (t, JoinState.done (rec' t)) :=
    List.map_congr_left fun t ht => by rw [(hdone t ht).2]
  have hnoRun : u.lanes.findSome? (fun _ => (none : Option (Nat × Nat))) = none := List.findSome?_eq_none_iff.mpr fun _ _ => rfl
  have hnoFault : u.lanes.filterMap (fun _ => (none : Option (Nat × FaultInfo))) = [] := List.filterMap_eq_nil_iff.mpr fun _ _ => rfl
  have hnone : u.lanes.any (fun _ => false) = false := List.any_eq_false.mpr fun _ _ => Bool.false_ne_true
  refine issue_eq_of_ready h ?_
  -- every test of the body is now constant over the lanes, and what stays is the sum of each lane
  simp only [hgroup, Option.map_some, Option.bind_some, hrecs, List.filterMap_map, Function.comp_def, List.filterMap_eq_map', hjoins,
    List.any_map, Option.isNone_some, hnone, List.findSome?_map, hnoRun, reduceCtorEq, decide_false, hnoFault,
    List.isEmpty_nil, State.withFaults, List.map_map, List.map_id_fun', id_eq, Bool.true_or, Recruitment.getD_total,
    Bool.false_eq_true, if_false, if_true]

end

/-! ### The end of a chunk (R182, R186, R54) -/

/-- The state with a helper's chunk done with its partial, after the yield of a clause with Y set. -/
def State.finishChunk (s : State) (c : Nat) (h : Helper) : State :=
  (if h.path.clause.header.getLsbD 36 then s.yieldSlot c h.slot else s).modGroup c h.slot fun g => { g with
    recruits := Assoc.update g.recruits h.thread fun r => { r with chunks := modifyAt r.chunks h.chunk fun _ => .done h.part } }

/-- The chunk that a helper takes next. -/
def State.nextChunk? (s : State) (c : Nat) (h : Helper) : Option Nat :=
  ((s.group? c h.slot).bind fun g => Assoc.get? g.recruits h.thread).bind fun q => q.next h.num

/-- The state with a helper that has finished a chunk released, or on its next chunk. -/
def State.leaveChunk (s : State) (c k : Nat) (h : Helper) : State :=
  if h.leaving then s.releaseHelper c k
  else if h.self then s.dropHelper c k h.slot
  else match s.nextChunk? c h with
    | some ch => s.startChunk c k ch
    | none => s.dropHelper c k h.slot

/-- A helper at the end of its chunk whose operations are complete, and which has no poisoned lane to raise. -/
theorem exec_chunkComplete_of_done {s : State} {c k : Nat} {h : Helper} (hh : s.helper? c k = some h)
    (hphase : h.path.phase = .stalled .chunk) (hld : h.rings.count .ld = 0) (hst : h.rings.count .st = 0)
    (ham : h.rings.count .am = 0) (hclean : ∀ v, s.issuer? (.helper c k) = some v → v.poisoned none = []) :
    exec (.chunkComplete (.helper c k)) s = .next ((s.finishChunk c h).leaveChunk c k h) := by
  simp only [exec, execChunkComplete, hh, hphase, hld, hst, ham, decide_true, Bool.and_self, if_true, State.yieldGroup_helper hh]
  split
  next hpoison =>
    obtain ⟨v, hv, hpair⟩ := Option.map_eq_some_iff.mp hpoison
    exact nomatch (hclean v hv).symm.trans (Prod.mk.inj hpair).2
  next =>
    rw [State.leaveChunk, apply_ite Host.Outcome.next, apply_ite Host.Outcome.next]
    refine ite_congr rfl (fun _ => rfl) fun _ => ite_congr rfl (fun _ => rfl) fun _ => ?_
    cases hnext : (s.finishChunk c h).nextChunk? c h <;>
    · simp only [State.nextChunk?, State.finishChunk] at hnext
      simp only [hnext]
      rfl

/-- Settles O28: the grant stands under the conditions of `recruit`, the total of a recruitment is its partials combined, and a chunk that is
done ends with the yield of its clause. -/
theorem helperInstructionsComplete : Obligations.HelperInstructionsComplete := by
  refine ⟨fun s f g u => ⟨?recruit, ?hpost, ?hjoin, issue_of_ready, ?chunkComplete⟩, fun v p q => ?combine⟩
  case recruit => exact fun _ _ _ _ _ => exec_recruit_of_ready
  case hpost => exact fun _ _ => exec_hpost_of_ready
  case hjoin => exact fun _ _ => exec_hjoin_of_done
  case chunkComplete => exact fun _ _ _ => exec_chunkComplete_of_done
  case combine => exact ⟨rfl, toInt_combine_smin v p q, toInt_combine_smax v p q, rfl⟩

end Sys2Proof.Machine

/-! ## Tile tasks, copies and launches

Three operations of the model stand between these instructions and their effects: a record that an instruction names is read once nothing older
of the group reaches it (R221), a command enters its engine where its counter and its output tag have room (R41, R226), and an access to a tag
or a tile follows the commands before it (R227, R239). A lemma says of each when it goes on at once, and the instructions cite it. -/

namespace Sys2Proof.Machine

/-! ### Reading a record (R221, R222) -/

section
variable {s : State} {u : Issuer}

theorem State.following_of_no_older {older : State → List Nat} (k : State → State) (h : older s = []) :
    s.following u older k = k s := by
  have hhurry : s.hurry (older s) = s := by rw [h]; rfl
  unfold State.following
  rw [hhurry]
  exact if_pos (List.isEmpty_iff.mpr h)

theorem State.linesInTurn_of_not_replayed {ctx : Nat} (who : Nat × Nat) (lane : Nat) (lines : List (LogKind × Nat))
    (h : s.replayed ctx = false) : s.linesInTurn ctx who lane lines = true := by
  simp only [State.linesInTurn, State.inTurn, h, Bool.not_false, Bool.true_or, List.all_eq_true, implies_true]

/-- Outside a recording and a replay a read is neither logged nor waited for. -/
theorem State.readInTurn_of_not_logged (lines : List (LogKind × Nat)) (k : State → State) (hrec : s.recorded u.ctx = false)
    (hrep : s.replayed u.ctx = false) : s.readInTurn u lines k = k s := by
  simp only [State.readInTurn, State.readsInTurn, State.linesInTurn_of_not_replayed _ _ _ hrep, State.logRead, hrec, hrep, Bool.or_self,
    Bool.false_eq_true, if_true, if_false]

/-- A record that stands is read as it stands. -/
theorem State.withScratchRecord_of_stands {g : Group} {al : Alloc} {a : Opnd} {size : Nat} (k : State → Nat → List Byte → State)
    (hg : s.group? u.core u.slot = some g) (hal : s.alloc? u.core g.alloc = some al)
    (h : RecordStands s u g.alloc al (s.read64 u a 0).toNat size) :
    s.withScratchRecord u a size k =
      k s (s.read64 u a 0).toNat (s.scratchRead u.core g.alloc (s.read64 u a 0).toNat size) := by
  obtain ⟨hword, haligned, hfits, hnoOlder, hrec, hrep⟩ := h
  have hidle : ((s.ops.filter fun p => p.2.owner = s.ownerOf u && p.2.touchesScratch g.alloc (s.read64 u a 0).toNat size).map (·.1)) = [] := by
    refine List.map_eq_nil_iff.mpr (List.filter_eq_nil_iff.mpr fun p hp hboth => ?_)
    obtain ⟨hown, htouch⟩ := (Bool.and_eq_true _ _).mp hboth
    exact absurd htouch (Bool.eq_false_iff.mp (hnoOlder p hp (of_decide_eq_true hown)))
  simp only [State.withScratchRecord, hg, hal, Option.map_some, Option.getD_some, Nat.not_le.mpr hword, haligned, bne_self_eq_false,
    Nat.not_lt.mpr hfits, Bool.false_eq_true, if_false]
  rw [State.following_of_no_older _ hidle, State.readInTurn_of_not_logged _ _ hrec hrep]

end

/-! ### Entering a command (R41, R226) -/

section
variable {s : State} {u : Issuer} {c : Cmd}

/-- A command enters where its counter and its output tag have room. -/
theorem State.enqueue_of_room (sc : Fin 16) (hctr : (s.rings u.agent).count c.kind.ctr < 1023)
    (htag : ∀ t ∈ c.outTag, s.tagCount u.uid t < 255) : s.enqueue u c sc = enqueued s u c sc := by
  have hnone : (c.outTag.find? fun t => 255 ≤ s.tagCount u.uid t) = none :=
    List.find?_eq_none.mpr fun t ht => by simpa using htag t ht
  rw [State.enqueue, State.withRoom, if_neg (Nat.not_le.mpr hctr), hnone]
  rfl

/-- A place in a collective changes what no command's room depends on. -/
theorem State.joinCollective_frame (s : State) (c : Cmd) :
    (s.joinCollective c).2.kind = c.kind ∧ (s.joinCollective c).2.outTag = c.outTag ∧
      (∀ a, (s.joinCollective c).1.rings a = s.rings a) ∧ ∀ uid t, (s.joinCollective c).1.tagCount uid t = s.tagCount uid t := by
  unfold State.joinCollective
  split
  · exact ⟨rfl, rfl, fun _ => rfl, fun _ _ => rfl⟩
  · exact ⟨rfl, rfl, fun a => by cases a <;> rfl, fun _ _ => rfl⟩

/-- A command that takes its place in its collective enters under the conditions of its own. -/
theorem State.enqueue_joinCollective_of_room (sc : Fin 16) (hctr : (s.rings u.agent).count c.kind.ctr < 1023)
    (htag : ∀ t ∈ c.outTag, s.tagCount u.uid t < 255) :
    (s.joinCollective c).1.enqueue u (s.joinCollective c).2 sc = enqueued (s.joinCollective c).1 u (s.joinCollective c).2 sc := by
  obtain ⟨hkind, hout, hrings, hcount⟩ := s.joinCollective_frame c
  refine State.enqueue_of_room sc ?_ fun t ht => ?_
  · rwa [hkind, hrings]
  · rw [hcount]
    exact htag t (hout ▸ ht)

end

/-! ### Tile tasks and copies (R221, R230, R242) -/

/-- The command of a tile task: its record carries the issuing path's fmt (R230). -/
def State.tileTask (s : State) (u : Issuer) (bs : List Byte) : Cmd :=
  { s.newCmd u .tile bs with rec' := bs.take 0x30 ++ toBytes 2 u.fmt.toNat ++ bs.drop 0x32 }

section
variable {s : State} {f : F3} {u : Issuer} {g : Group} {al : Alloc}

theorem State.alloc_newCmd (kind : CmdKind) (bs : List Byte) (hg : s.group? u.core u.slot = some g) :
    (s.newCmd u kind bs).alloc = g.alloc := by
  simp only [State.newCmd, hg, Option.map_some, Option.getD_some]

theorem exec_tenq_of_room (h : s.ready? (.tenq f) (fun u => { asyncReq u f.u [gUse f.a false] with fmt := true }) = some u)
    (hg : s.group? u.core u.slot = some g) (hal : s.alloc? u.core g.alloc = some al)
    (hstands : RecordStands s u g.alloc al (s.read64 u f.a 0).toNat 64) {bs : List Byte}
    (hbs : s.scratchRead u.core g.alloc (s.read64 u f.a 0).toNat 64 = bs)
    (hctr : (s.rings u.agent).count .tt < 1023) (hok : (s.newCmd u .tile bs).tileOk g.kernel.tiles = true)
    (haxis : (s.newCmd u .tile bs).axisOk = true) (hin : (s.newCmd u .tile bs).tileBeyond al.size = none)
    (htag : ∀ t ∈ (s.tileTask u bs).outTag, s.tagCount u.uid t < 255) :
    exec (.tenq f) s = .next (enqueued s u (s.tileTask u bs) f.sc) := by
  have hsize : ((s.alloc? u.core (s.newCmd u .tile bs).alloc).map (·.size)).getD 0 = al.size := by
    rw [State.alloc_newCmd _ _ hg, hal, Option.map_some, Option.getD_some]
  refine issue_eq_of_ready h ?_
  rw [State.withScratchRecord_of_stands _ hg hal hstands, hbs]
  simp only [hg, hsize, Option.map_some, Option.getD_some, hok, haxis, hin, Bool.not_true, Bool.false_eq_true, if_false]
  exact State.enqueue_of_room f.sc hctr htag

theorem exec_cpkick_of_room (h : s.ready? (.cpkick f) (fun u => { asyncReq u f.u [gUse f.a false] with fmt := true }) = some u)
    (hg : s.group? u.core u.slot = some g) (hal : s.alloc? u.core g.alloc = some al)
    (hstands : RecordStands s u g.alloc al (s.read64 u f.a 0).toNat 64) {c : Cmd}
    (hc : s.newCmd u .copy (s.scratchRead u.core g.alloc (s.read64 u f.a 0).toNat 64) = c)
    (hctr : (s.rings u.agent).count .cp < 1023)
    (hok : c.copyOk g.kernel.tiles g.kernel.bars (fun i => (al.barrier i).kind) s.collOk = true) (hin : c.copyBeyond al.size = none)
    (htag : ∀ t ∈ c.outTag, s.tagCount u.uid t < 255) :
    exec (.cpkick f) s = .next (enqueued (s.joinCollective c).1 u (s.joinCollective c).2 f.sc) := by
  have halloc : c.alloc = g.alloc := hc ▸ State.alloc_newCmd _ _ hg
  have hkind : c.kind = .copy := by rw [← hc]; rfl
  have hfull : (c.outTag.any fun t => decide (255 ≤ s.tagCount u.uid t)) = false :=
    List.any_eq_false.mpr fun t ht => by simpa using htag t ht
  refine issue_eq_of_ready h ?_
  rw [State.withScratchRecord_of_stands _ hg hal hstands, hc]
  simp only [hg, halloc, hal, Option.map_some, Option.getD_some, hok, hin, hfull, Nat.not_le.mpr hctr, decide_false, Bool.or_self,
    Bool.not_true, Bool.false_eq_true, if_false]
  exact State.enqueue_joinCollective_of_room f.sc (by rwa [hkind]) htag

end

/-- Settles O23: a record that stands is read as it stands, each check of it passes, and its command finds room. -/
theorem commandsAreEntered : Obligations.CommandsAreEntered := by
  intro s f u g al v bs tile copy req hg hal hstands
  refine ⟨fun h hctr hok haxis hin => ?tenq, fun h hctr hok hin htag => ?cpkick⟩
  case tenq => exact exec_tenq_of_room h hg hal hstands rfl hctr hok haxis hin
  case cpkick => exact exec_cpkick_of_room h hg hal hstands rfl hctr hok hin htag

/-! ### Following the commands of a tag or a tile (R227, R239) -/

section
variable {s : State} {f : F3} {u : Issuer} {g : Group} {i : Nat}

/-- An instruction that raises no fault and has no command before it takes its effect. -/
theorem State.afterProducers_of_none {d : Defers} (k : State) (hfault : ∀ e ∈ s.deferredOf u.agent, e.raisedAt d = false) :
    s.afterProducers u d [] k = k := by
  have hnone : s.raiseDeferred u (fun e => e.raisedAt d) u.path.wordAddr = none := by
    have hfind : (s.deferredOf u.agent).find? (fun e => e.raisedAt d) = none :=
      List.find?_eq_none.mpr fun e he => Bool.eq_false_iff.mp (hfault e he)
    simp only [State.raiseDeferred, hfind]
  simp only [State.afterProducers, hnone, List.isEmpty_nil, Bool.true_or, if_true]

/-- R228: a tag of a tile that the kernel declares, or one of the others. -/
theorem exec_twait_of_idle
    (h : s.ready? (.twait f) (fun u => { asyncReq u f.u [gUse f.a false] with defers := .tag (s.tagOf u f) }) = some u)
    (hg : s.group? u.core u.slot = some g) (htag : s.tagOf u f < g.kernel.tiles ∨ (48 ≤ s.tagOf u f ∧ s.tagOf u f < 256))
    (htiles : g.kernel.tiles ≤ 48) (hfault : ∀ e ∈ s.deferredOf u.agent, e.raisedAt (.tag (s.tagOf u f)) = false)
    (hidle : s.producers u.uid [s.tagOf u f] [] = []) : exec (.twait f) s = .next ((s.acquire u.core .core).retire u f.sc) := by
  have hbyte : s.tagOf u f < 256 := by omega
  have hdeclared : tagOk g.kernel.tiles (s.tagOf u f) = true := by
    simp only [tagOk, Bool.or_eq_true, decide_eq_true_eq]
    omega
  refine issue_eq_of_ready h ?_
  simp only [hg, Option.map_some, Option.getD_some, hdeclared, Nat.not_le.mpr hbyte, decide_false, Bool.not_true, Bool.or_self,
    Bool.false_eq_true, if_false, hidle]
  exact State.afterProducers_of_none _ hfault

theorem exec_ardr_of_idle
    (h : s.ready? (.ardr f) (fun u => { asyncReq u f.u [dstUse f.u (isWide f.ty) f.d, gUse f.b false] with
      valid := s.tileDeclared u f.x, defers := .tile f.x.toNat }) = some u)
    (hg : s.group? u.core u.slot = some g) (hfirst : s.firstElement u f = some i)
    (hfault : ∀ e ∈ s.deferredOf u.agent, e.raisedAt (.tile f.x.toNat) = false) (hidle : s.producers u.uid [] [f.x.toNat] = []) :
    exec (.ardr f) s = .next (s.result u f.u f.d (isWide f.ty) 1 f.sc fun t =>
      BitVec.ofNat 64 (g.element (isWide f.ty) f.x.toNat (i + t))) := by
  refine issue_eq_of_ready h ?_
  simp only [hfirst, hg, hidle]
  exact State.afterProducers_of_none _ hfault

theorem exec_awr_of_idle
    (h : s.ready? (.awr f) (fun u => { asyncReq u f.u [srcUse (isWide f.ty) f.a, gUse f.b false] with
      valid := s.tileDeclared u f.x, defers := .tile f.x.toNat }) = some u)
    (hfirst : s.firstElement u f = some i) (hfault : ∀ e ∈ s.deferredOf u.agent, e.raisedAt (.tile f.x.toNat) = false)
    (hidle : s.producers u.uid [] [f.x.toNat] = []) :
    exec (.awr f) s = .next ((s.modGroup u.core u.slot fun g => (u.over f.u).foldl (fun g t =>
      g.setElement (isWide f.ty) f.x.toNat (i + t) (s.src u (isWide f.ty) f.a t).toNat) g).retire u f.sc) := by
  refine issue_eq_of_ready h ?_
  simp only [hfirst, hidle]
  exact State.afterProducers_of_none _ hfault

theorem exec_azero_of_idle
    (h : s.ready? (.azero f) (fun u => { asyncReq u f.u [] with valid := s.tileDeclared u f.x, defers := .tile f.x.toNat }) = some u)
    (hfault : ∀ e ∈ s.deferredOf u.agent, e.raisedAt (.tile f.x.toNat) = false) (hidle : s.producers u.uid [] [f.x.toNat] = []) :
    exec (.azero f) s =
      .next ((s.modGroup u.core u.slot fun g => { g with acc := Assoc.erase g.acc f.x.toNat }).retire u f.sc) := by
  refine issue_eq_of_ready h ?_
  simp only [hidle]
  exact State.afterProducers_of_none _ hfault

end

/-! ### Launches (R221, R222, R245, R278) -/

section
variable {s : State} {f : F3} {u : Issuer} {g : Group} {al : Alloc} {r hd : List Byte} {t : State}

/-- R400: a record of another context, or of one that has ended. -/
theorem exec_launch_of_foreign (h : s.ready? (.launch f) (fun u => asyncReq u f.u [gUse f.a false]) = some u)
    (hg : s.group? u.core u.slot = some g) (hal : s.alloc? u.core g.alloc = some al)
    (hstands : RecordStands s u g.alloc al (s.read64 u f.a 0).toNat 256)
    (hr : s.scratchRead u.core g.alloc (s.read64 u f.a 0).toNat 256 = r) (hok : recordOk r = true)
    (hforeign : recCtx r ≠ u.ctx ∨ (s.context u.ctx).ended = true) :
    exec (.launch f) s = .next (s.raise u (u.faultAt 0x05 (s.read64 u f.a 0).toNat)) := by
  have htest : (recCtx r != u.ctx || (s.context u.ctx).ended) = true := by
    rwa [Bool.or_eq_true, bne_iff_ne]
  refine issue_eq_of_ready h ?_
  rw [State.withScratchRecord_of_stands _ hg hal hstands, hr]
  simp only [hok, htest, Bool.not_true, Bool.false_eq_true, if_false, if_true]

theorem exec_launch_of_room (h : s.ready? (.launch f) (fun u => asyncReq u f.u [gUse f.a false]) = some u)
    (hg : s.group? u.core u.slot = some g) (hal : s.alloc? u.core g.alloc = some al)
    (hstands : RecordStands s u g.alloc al (s.read64 u f.a 0).toNat 256)
    (hr : s.scratchRead u.core g.alloc (s.read64 u f.a 0).toNat 256 = r) (hok : recordOk r = true)
    (hctx : recCtx r = u.ctx) (hlive : (s.context u.ctx).ended = false) (hidle : s.olderOn u u.reader (recKhdr r) 256 = [])
    (hhead : s.readHeader u.reader r = .ok t hd) (hqueue : (t.queue (recQueue r)).length < 32) :
    exec (.launch f) s = .next (((t.queueLaunch r hd (t.groupOps (t.ownerOf u))).commitRegion u).retire u f.sc) := by
  refine issue_eq_of_ready h ?_
  rw [State.withScratchRecord_of_stands _ hg hal hstands, hr]
  simp only [hok, hctx, hlive, bne_self_eq_false, Bool.or_self, Bool.not_true, Bool.false_eq_true, if_false]
  rw [State.following_of_no_older _ hidle, hhead]
  exact if_neg (Nat.not_le.mpr hqueue)

end

/-- Settles O24: with no fault to raise and no command before it an access takes its effect, and the record of a launch is read as it
stands. -/
theorem tileAccessAndLaunchComplete : Obligations.TileAccessAndLaunchComplete := by
  intro s f u g al i w tag free hg
  refine ⟨fun h htag htiles hfault hidle => ?twait,
    fun hfault hidle => ⟨fun h hfirst => ?ardr, fun h hfirst => ?awr, fun h => ?azero⟩,
    fun t hd => ?launch⟩
  case twait => exact exec_twait_of_idle h hg htag htiles hfault hidle
  case ardr => exact exec_ardr_of_idle h hg hfirst hfault hidle
  case awr => exact exec_awr_of_idle h hfirst hfault hidle
  case azero => exact exec_azero_of_idle h hfault hidle
  case launch =>
    intro v r h hal hstands hok
    exact ⟨exec_launch_of_foreign h hg hal hstands rfl hok, exec_launch_of_room h hg hal hstands rfl hok⟩

end Sys2Proof.Machine

/-! ## Cross-lane instructions and stream decode

The instructions over the lanes of exec are issued by `issue` with the rule's result as their body; for `scan` and `rdx` the lemmas below turn the
body's list of lane values into the rule's. A record of `xpat` or `vdtab` that stands is read as it stands and replaces its table. Of a table
replaced, the versions that are kept end with the first that no path of this selection made, and every path that does not see the replacement
sees that one, so the paths of an issue cycle see what they saw before. -/

namespace Sys2Proof.Machine

/-! ### Shuffles and reductions over the lanes of exec (R250 to R254) -/

section
variable {s : State} {f : F3} {u : Issuer}

/-- R250: a thread whose source is outside the segment or outside exec takes its own value. -/
theorem State.src_source_or_own (wide : Bool) (a : Opnd) (t : Nat) (j : Option Nat) :
    s.src u wide a (match j with
      | some j => if u.lanes.contains j then j else t
      | none => t) =
    match j with
      | some j => s.src u wide a (if j ∈ u.lanes then j else t)
      | none => s.src u wide a t := by
  cases j with
  | none => rfl
  | some j => simp only [List.contains_iff_mem]

theorem isFloatRed_iff : isFloatRed f = true ↔ f.ty = .f32 ∨ f.ty = .f64 := by
  simp only [isFloatRed, Bool.or_eq_true, beq_iff_eq]

theorem lookup_zip_map {α : Type} (l : List Nat) (r : Nat → α) (a : Nat) :
    (l.zip (l.map r)).lookup a = if a ∈ l then some (r a) else none := by
  induction l with
  | nil => rfl
  | cons b l ih =>
    rw [List.map_cons, List.zip_cons_cons]
    by_cases hab : a = b
    · subst hab
      rw [List.lookup_cons_self, if_pos List.mem_cons_self]
    · rw [List.lookup_cons, beq_eq_false_iff_ne.mpr hab, ih]
      simp only [List.mem_cons, hab, false_or]

/-- R101: the source of a floating reduction in a lane, as read. -/
def State.redFloat (s : State) (u : Issuer) (f : F3) (t : Nat) : Nat :=
  (ffmt f.ty).flushed (u.fenv f.rm f.s).ftz (s.src u (isWide f.ty) f.a t).toNat

/-- The values at the leaves of the tree of R113. -/
theorem State.lookup_redFloats (t : Nat) :
    (u.lanes.zip (s.redFloats u f)).lookup t = if t ∈ u.lanes then some (s.redFloat u f t) else none :=
  lookup_zip_map u.lanes (s.redFloat u f) t

theorem exec_scan_of_ready (h : s.ready? (.scan f) (fun u => laneRedReq f u false) = some u) :
    exec (.scan f) s = .next (s.result u false f.d (isWide f.ty) 6 f.sc fun t => ((u.lanes.zip (
      if f.ty = .f32 ∨ f.ty = .f64 then
        (scanList (combineFloat (redOp f) (u.fenv f.rm f.s) (ffmt f.ty)) (floatIdentity (redOp f) (ffmt f.ty)) (f.x.getLsbD 0) none
          (u.lanes.map (s.redFloat u f))).map (BitVec.ofNat 64)
      else if redOp f ≤ 2 then
        (scanList (combineInt (redOp f)) (intIdentity (redOp f) f.ty) (f.x.getLsbD 0) none
          (u.lanes.map fun t => intValue f.ty (s.src u (isWide f.ty) f.a t))).map (intResult f.ty f.s)
      else scanList (combineBits (redOp f)) (if redOp f = 3 then BitVec.allOnes 64 else 0) (f.x.getLsbD 0) none
        (u.lanes.map fun t => s.src u (isWide f.ty) f.a t))).lookup t).getD 0) := by
  refine issue_eq_of_ready h ?_
  simp only [isFloatRed_iff]
  rfl

/-- The first lane of exec starts the combination of integers and of bit strings. -/
theorem exec_rdx_of_ready (h : s.ready? (.rdx f) (fun u => laneRedReq f u true) = some u) (hlanes : u.lanes ≠ []) :
    exec (.rdx f) s = .next (s.result u false f.d (isWide f.ty) 6 f.sc fun _ =>
      if f.ty = .f32 ∨ f.ty = .f64 then
        BitVec.ofNat 64 ((treeFold (combineFloat (redOp f) (u.fenv f.rm f.s) (ffmt f.ty)) 7
          ((List.range 128).map fun t => if t ∈ u.lanes then some (s.redFloat u f t) else none)).getD 0)
      else if redOp f ≤ 2 then
        intResult f.ty f.s ((u.lanes.tail.map fun t => intValue f.ty (s.src u (isWide f.ty) f.a t)).foldl (combineInt (redOp f))
          (intValue f.ty (s.src u (isWide f.ty) f.a (u.lanes.headD 0))))
      else (u.lanes.tail.map fun t => s.src u (isWide f.ty) f.a t).foldl (combineBits (redOp f))
        (s.src u (isWide f.ty) f.a (u.lanes.headD 0))) := by
  refine issue_eq_of_ready h (State.result_congr fun _ => ?_)
  simp only [isFloatRed_iff, State.lookup_redFloats]
  cases hl : u.lanes with
  | nil => exact absurd hl hlanes
  | cons t l => rfl

end

/-! ### Setting a table (R255 to R257, R259) -/

section
variable {s : State} {f : F3} {u : Issuer} {g : Group} {al : Alloc}

/-- The entries of a table record of the group's allocation (R256). -/
def State.tableEntries (s : State) (u : Issuer) (alloc v size : Nat) : List (BitVec 16) :=
  (List.range (size / 2)).map fun i => BitVec.ofNat 16 (valueAt (s.scratchRead u.core alloc v size) (2 * i) 2)

@[simp] theorem State.length_tableEntries (alloc v size : Nat) : (s.tableEntries u alloc v size).length = size / 2 := by
  simp only [State.tableEntries, List.length_map, List.length_range]

/-- R255, R256: a record that stands, all of whose entries are valid, goes into a table that is free or the launch's own. -/
theorem State.withTable_of_stands {a : Opnd} {v size : Nat} {ok : Nat → BitVec 16 → Bool} {old : Option Table}
    (k : State → List (BitVec 16) → State) (hg : s.group? u.core u.slot = some g) (hal : s.alloc? u.core g.alloc = some al)
    (hv : (s.read64 u a 0).toNat = v)
    (hstands : v < 2 ^ 32 ∧ v % 16 = 0 ∧ v + size ≤ al.size ∧ s.localStores (s.ownerOf u) = [] ∧ s.recorded u.ctx = false ∧
      s.replayed u.ctx = false)
    (hok : ∀ i < size / 2, ok i ((s.tableEntries u g.alloc v size).getD i 0) = true)
    (hown : s.tableOwner? u.core old = none ∨ s.tableOwner? u.core old = some u.launch) :
    s.withTable u a size ok old k = k s (s.tableEntries u g.alloc v size) := by
  obtain ⟨hword, haligned, hfits, hnoStore, hrec, hrep⟩ := hstands
  have hall : ((List.range (s.tableEntries u g.alloc v size).length).all fun i =>
      ok i ((s.tableEntries u g.alloc v size).getD i 0)) = true :=
    List.all_eq_true.mpr fun i hi => hok i (by simpa using hi)
  simp only [State.withTable, hg, hal, hv, Option.map_some, Option.getD_some, Nat.not_le.mpr hword, haligned, bne_self_eq_false,
    Nat.not_lt.mpr hfits, hnoStore, List.isEmpty_nil, Bool.not_true, Bool.false_eq_true, if_false]
  rw [State.readInTurn_of_not_logged _ _ hrec hrep]
  simp only [State.tableEntries] at hall ⊢
  rcases hown with hfree | hmine
  · simp only [hall, hfree, Bool.not_true, Bool.false_eq_true, if_false]
  · simp only [hall, hmine, Bool.not_true, Bool.false_eq_true, if_false, if_true]

/-- R255: the version that an instruction sees is its own where its launch made it and still owns its tables. -/
theorem State.tableFor?_of_owned {old : Option Table} {t : Table} {v : TableVersion} (hold : old = some t)
    (hseen : t.seenAt (s.seqOf u.agent) = some v) (hmine : v.launch = u.launch) (howns : s.ownsTables u.core v.launch = true) :
    s.tableFor? u old = some v := by
  simp only [State.tableFor?, hold, Option.bind_some, hseen, hmine, hmine ▸ howns, decide_true, Bool.and_self, if_true]

theorem exec_xbar_of_seen {v : TableVersion} (h : s.ready? (.xbar f) (fun u => laneReq u [vDst false f.d, vSrc false f.a]) = some u)
    (hsees : s.tableFor? u (Assoc.get? (s.core u.core).patterns f.x.toNat) = some v) :
    exec (.xbar f) s = .next (s.result u false f.d false 6 f.sc fun i =>
      BitVec.ofNat 64 (ofBytes ((List.range 4).foldl (fun bs j =>
        bs ++ [xbarByte (fun k => s.read32 u f.a k) u.lanes.contains (v.entries.getD (4 * i + j) 0) bs]) []))) := by
  refine issue_eq_of_ready h ?_
  simp only [hsees, State.laneResult]

theorem exec_vdec_of_seen {v : TableVersion} {d : Fin 192} (hd : f.d = .v d)
    (h : s.ready? (.vdec f) (fun u => laneReq u [{ o := f.d, role := .vquad, write := true }, vSrc true f.a, vSrc false f.b]) = some u)
    (hsees : s.tableFor? u (Assoc.get? (s.core u.core).decoders (bits f.x.toNat 0 2)) = some v) :
    exec (.vdec f) s = .next ((s.pushWrites u ((List.range 4).map fun j => (.v (d.val + j), u.lanes.map fun i =>
      (i, ((decodeWords v.entries (bits f.x.toNat 2 3) (s.read64 u f.a i).toNat (s.read32 u f.b i).toNat).getD j 0).setWidth 64))) 1).retire
        u f.sc) := by
  refine issue_eq_of_ready h ?_
  simp only [hsees, hd, List.map_map, Function.comp_def]

end

/-! ### The versions of a table (R255, R256) -/

section
variable {α : Type} {p q : α → Bool}

/-- The elements of a list up to and with the first that fails a test. -/
def throughFirst (p : α → Bool) (l : List α) : List α := l.takeWhile p ++ (l.drop (l.takeWhile p).length).take 1

theorem throughFirst_cons (a : α) (l : List α) : throughFirst p (a :: l) = a :: if p a then throughFirst p l else [] := by
  cases h : p a <;> simp [throughFirst, h]

/-- What every element that fails the test satisfies is found among those kept, if at all. -/
theorem find?_throughFirst (h : ∀ a, p a = false → q a = true) (l : List α) : (throughFirst p l).find? q = l.find? q := by
  induction l with
  | nil => rfl
  | cons a l ih =>
    rw [throughFirst_cons]
    cases hp : p a with
    | true => simp only [if_true, List.find?_cons, ih]
    | false => rw [List.find?_cons_of_pos (h a hp), List.find?_cons_of_pos (h a hp)]

end

section
variable {old : Option Table} {launch : Nat} {seq at' : Stamp} {es : List (BitVec 16)}

/-- A version made by a path of the selection that a place of the issue order belongs to. -/
def TableVersion.coSelected (seq : Stamp) (v : TableVersion) : Bool := seq.pick != 0 && v.seq.pick == seq.pick

/-- A path that does not see a replacement belongs to its selection, so it sees what none of that selection made. -/
theorem TableVersion.seenBy_of_not_coSelected {v : TableVersion} (hunseen : seq.seenBy at' = false) (hv : v.coSelected seq = false) :
    v.seq.seenBy at' = true := by
  simp only [Stamp.seenBy, TableVersion.coSelected, Bool.or_eq_false_iff, Bool.not_eq_false', Bool.and_eq_true, bne_iff_ne,
    beq_iff_eq, Bool.and_eq_false_iff, bne_eq_false_iff_eq, beq_eq_false_iff_ne] at hunseen hv ⊢
  obtain ⟨⟨⟨hpick, hsame⟩, -⟩, -⟩ := hunseen
  have hother : v.seq.pick ≠ at'.pick := hsame ▸ hv.resolve_left hpick
  simp only [beq_eq_false_iff_ne.mpr hother, Bool.and_false, Bool.false_and, Bool.not_false, Bool.true_or]

/-- A replacement later than all before it stands first. -/
theorem versions_replaceTable (hbefore : ∀ t, old = some t → ∀ v ∈ t.versions, v.seq.before seq = true) :
    (replaceTable old launch seq es).versions =
      throughFirst (TableVersion.coSelected seq) ({ launch := launch, seq := seq, entries := es } :: (old.map Table.versions).getD []) := by
  have hlater : ((old.map Table.versions).getD []).takeWhile (fun v => !v.seq.before seq) = [] := by
    cases old with
    | none => rfl
    | some t => exact List.takeWhile_cons_of_neg (by simp [hbefore t rfl _ List.mem_cons_self])
  simp only [replaceTable, hlater, List.nil_append, List.length_nil, List.drop_zero, ← throughFirst.eq_def, throughFirst_cons, Table.versions]
  rfl

theorem seenAt_replaceTable_of_seen (hbefore : ∀ t, old = some t → ∀ v ∈ t.versions, v.seq.before seq = true)
    (hseen : seq.seenBy at' = true) :
    (replaceTable old launch seq es).seenAt at' = some { launch := launch, seq := seq, entries := es } := by
  rw [Table.seenAt, versions_replaceTable hbefore, throughFirst_cons]
  exact List.find?_cons_of_pos hseen

theorem seenAt_replaceTable_of_not_seen (hbefore : ∀ t, old = some t → ∀ v ∈ t.versions, v.seq.before seq = true)
    (hunseen : seq.seenBy at' = false) :
    (replaceTable old launch seq es).seenAt at' = old.bind fun t => t.seenAt at' := by
  rw [Table.seenAt, versions_replaceTable hbefore, find?_throughFirst fun _ => TableVersion.seenBy_of_not_coSelected hunseen,
    List.find?_cons_of_neg (by simp [hunseen])]
  cases old <;> rfl

end

/-- Settles O25: each result over the lanes of exec is that of its body; a record that stands replaces its table; and the version of a table
that an instruction sees is the newest that no path of its own cycle has made. -/
theorem crossLaneAndTableInstructionsGiveResults : Obligations.CrossLaneAndTableInstructionsGiveResults := by
  refine ⟨⟨fun s f u => ?lanes, fun s f u => ?reductions⟩, fun s f u g al => ?tables, fun old launch seq at' es hbefore => ?versions⟩
  case lanes =>
    intro w gives holds
    simp only [List.forall_mem_cons, List.not_mem_nil, false_imp_iff, implies_true, and_true]
    refine ⟨fun h => ?shfl, fun h => ?bcast, issue_of_ready, ⟨issue_of_ready, issue_of_ready, issue_of_ready⟩, issue_of_ready⟩
    case shfl =>
      exact issue_eq_of_ready h (State.result_congr fun t => State.src_source_or_own w f.a t _)
    case bcast =>
      refine issue_eq_of_ready h ?_
      simp only [List.contains_iff_mem]
      rfl
  case reductions => exact ⟨exec_scan_of_ready, exec_rdx_of_ready⟩
  case tables =>
    intro v k q n entries own stands hg hal
    have hentries : ∀ size, entries size = s.tableEntries u g.alloc v size := fun _ => rfl
    simp only [hentries]
    refine ⟨fun h hstands hok hown => ?xpat, fun h hstands hok hown => ?vdtab,
      fun t v hold hseen hmine howns h => exec_xbar_of_seen h (State.tableFor?_of_owned hold hseen hmine howns),
      fun t v d hd hold hseen hmine howns h => exec_vdec_of_seen hd h (State.tableFor?_of_owned hold hseen hmine howns)⟩
    case xpat => exact issue_eq_of_ready h (State.withTable_of_stands _ hg hal rfl hstands hok hown)
    case vdtab =>
      refine issue_eq_of_ready h (State.withTable_of_stands _ hg hal rfl hstands (fun i hi => decide_eq_true (hok _ ?_)) hown)
      have hlen : i < (s.tableEntries u g.alloc v (2 ^ (q + 1))).length := by rwa [State.length_tableEntries]
      rw [List.getD_eq_getElem?_getD, List.getElem?_eq_getElem hlen]
      exact List.getElem_mem hlen
  case versions => exact ⟨seenAt_replaceTable_of_seen hbefore, seenAt_replaceTable_of_not_seen hbefore⟩

end Sys2Proof.Machine
